-- ==== Sys2Proof/Word.lean ====
section
/-!
DEFINITION. The word types of the KZ-880 (R11, R57, R51, R52) and their plainest arithmetic.
-/

namespace Sys2Proof

/-- One byte. -/
abbrev Byte := BitVec 8

/-- An instruction word or a register value. -/
abbrev Word := BitVec 32

/-- A register pair, a virtual address or a q register. -/
abbrev DWord := BitVec 64

/-- A pod physical address: package in bits 51 to 45, local address below (R52). -/
abbrev PhysAddr := BitVec 52

/-- The two words of a pair as one value: the even register holds the low word (R25). -/
def pairValue (lo hi : Word) : DWord := hi ++ lo

/-- The low word of a pair value. -/
def lowWord (x : DWord) : Word := x.extractLsb' 0 32

/-- The high word of a pair value. -/
def highWord (x : DWord) : Word := x.extractLsb' 32 32

end Sys2Proof
end

