-- ==== Sys2Proof/Config.lean ====
section
/-!
DEFINITION. What the spec leaves to an implementation or leaves open: constants the model fixes by a log entry, and free values,
opaque constants that no proof can see (guide: a free value has no body). A free value is applied to State.freeCtr, which the step
that uses it advances.
-/

namespace Sys2Proof.Config

/-- What a byte of memory that nothing has written reads as. R409 calls memory contents after reset unpredictable.
DESIGN CHOICE, unsafe: log 1. -/
def emptyByte : Byte := 0

/-- The program counter of the boot thread at package reset: an address in the device range of R53 that stands for the boot ROM,
whose place the spec does not give (R409). DESIGN CHOICE: log 5. -/
def bootPc : Nat := 0x1FFFFFFF0000

/-- Free: a word a device register returns whose contents the spec does not give (R402). Log 22. -/
opaque freeDevice : Nat → BitVec 128

/-- Free: the data a root port's device returns for a read of its memory space (R171, R402). Log 22. -/
opaque freePort : Nat → BitVec 128

/-- Free: the cycles that pass in one step of an agent or one event (R8 fixes no latency). Log 4. -/
opaque freeCycles : Nat → Nat

/-- Free: a random number of the key unit (R394). Log 10. -/
opaque freeKey : Nat → BitVec 128

/-- Free: the device wrapping key, which the device never reveals (R389). Log 10. -/
opaque wrappingKey : BitVec 128

/-- Free: the bytes of a signature or certificate of the sideband port (R395). Log 21. -/
opaque freeSpdm : Nat → BitVec 512

/-- Free: what bring-up measures before the first partition: 1 the boot ROM, 2 M-level firmware and 4 key-unit firmware, as the blade's boot flash holds them
(R395, R409). Log 5. -/
opaque firmware : Nat → List Byte

/-- Free: the firmware of the flash, by the same numbers, passes the boot ROM's check of its signature (R409). Log 5. -/
opaque firmwareGood : Nat → Bool

/-- Free: the local address to which the boot ROM loads M-level firmware, and the address at which it starts it (R409). Log 5. -/
opaque firmwareAt : Nat
opaque firmwareEntry : BitVec 64

/-- Free: the logical cluster onto which the boot ROM maps a spare, if any (R310, R409). Log 5. -/
opaque bootSpare : Nat → Option Nat

/-- Free: the class code the error-ring entry of correctable event n carries, which the spec does not state (R398). Log 24. -/
opaque freeClass : Nat → BitVec 4

/-- Free: an instruction word fetched from memory of another package (R26, R52; the spec gives no message for a fetch). Log 28. -/
opaque freeFetch : Nat → Word

/-- Free: a page-table entry that stands at a home on another package (R318, R322), by its address. Log 6. -/
opaque freeTable : Nat → Nat → BitVec 64

/-- Free: a selector of R44 that names a place in a launch or on a lane, as a Vent thread reads it (R44, R49). Log 31. -/
opaque freeSelector : Nat → Word

end Sys2Proof.Config
end

