-- ==== Sys2Proof/Syntax.lean ====
section
/-!
DEFINITION. The instructions and events of the KZ-880 as terms: one constructor for each row of spec/opcode_table.json.

The fields of a word row are the word's operand fields, in the row's order, the version V and the scheduling bits S left out
(they say how a word is issued, not what it does: R59; the decoder gives them beside the instruction). The names are those of
R60, R64, R65, R67, R69, R70 and R74: d, a and b name registers or hold immediates, i, l, n and o are numbers, t is the type bit,
c is a scope or a condition, p a predicate or a back-reference, x and y are q registers in tile commands.
-/

namespace Sys2Proof

/-- The operations and events of the machine: one constructor for each row of the opcode table. The first 228 are instruction
words. The others are events; what an event names or carries stands in State.ev while it happens, and its docstring names the
fields it uses. -/
inductive Instr where
  /-- IADD (R117). -/
  | iadd (d : BitVec 6) (a : BitVec 6) (b : BitVec 6)
  /-- IADDI (R117). -/
  | iaddi (d : BitVec 6) (a : BitVec 6) (i : BitVec 8)
  /-- ISUB (R117). -/
  | isub (d : BitVec 6) (a : BitVec 6) (b : BitVec 6)
  /-- IADDS (R117). -/
  | iadds (d : BitVec 6) (a : BitVec 6) (b : BitVec 6) (t : BitVec 1)
  /-- IMUL (R117). -/
  | imul (d : BitVec 6) (a : BitVec 6) (b : BitVec 6)
  /-- IMULH (R117). -/
  | imulh (d : BitVec 6) (a : BitVec 6) (b : BitVec 6) (t : BitVec 1)
  /-- IMAD (R117). -/
  | imad (d : BitVec 6) (a : BitVec 6) (b : BitVec 6)
  /-- IMADW (R117). -/
  | imadw (d : BitVec 6) (a : BitVec 6) (b : BitVec 6) (t : BitVec 1)
  /-- IDIV (R117). -/
  | idiv (d : BitVec 6) (a : BitVec 6) (b : BitVec 6) (t : BitVec 1)
  /-- IREM (R117). -/
  | irem (d : BitVec 6) (a : BitVec 6) (b : BitVec 6) (t : BitVec 1)
  /-- IMIN (R117). -/
  | imin (d : BitVec 6) (a : BitVec 6) (b : BitVec 6) (t : BitVec 1)
  /-- IMAX (R117). -/
  | imax (d : BitVec 6) (a : BitVec 6) (b : BitVec 6) (t : BitVec 1)
  /-- IABS (R117). -/
  | iabs (d : BitVec 6) (a : BitVec 6)
  /-- INEG (R117). -/
  | ineg (d : BitVec 6) (a : BitVec 6)
  /-- LEA (R117). -/
  | lea (d : BitVec 6) (a : BitVec 6) (b : BitVec 6) (x : BitVec 2)
  /-- AND (R119). -/
  | and (d : BitVec 6) (a : BitVec 6) (b : BitVec 6)
  /-- OR (R119). -/
  | or (d : BitVec 6) (a : BitVec 6) (b : BitVec 6)
  /-- XOR (R119). -/
  | xor (d : BitVec 6) (a : BitVec 6) (b : BitVec 6)
  /-- ANDN (R119). -/
  | andn (d : BitVec 6) (a : BitVec 6) (b : BitVec 6)
  /-- NOT (R119). -/
  | not (d : BitVec 6) (a : BitVec 6)
  /-- ANDI (R119). -/
  | andi (d : BitVec 6) (a : BitVec 6) (i : BitVec 8)
  /-- ORI (R119). -/
  | ori (d : BitVec 6) (a : BitVec 6) (i : BitVec 8)
  /-- XORI (R119). -/
  | xori (d : BitVec 6) (a : BitVec 6) (i : BitVec 8)
  /-- SHL (R119). -/
  | shl (d : BitVec 6) (a : BitVec 6) (b : BitVec 6)
  /-- SHRL (R119). -/
  | shrl (d : BitVec 6) (a : BitVec 6) (b : BitVec 6)
  /-- SHRA (R119). -/
  | shra (d : BitVec 6) (a : BitVec 6) (b : BitVec 6)
  /-- SHLI (R119). -/
  | shli (d : BitVec 6) (a : BitVec 6) (n : BitVec 5)
  /-- SHRLI (R119). -/
  | shrli (d : BitVec 6) (a : BitVec 6) (n : BitVec 5)
  /-- SHRAI (R119). -/
  | shrai (d : BitVec 6) (a : BitVec 6) (n : BitVec 5)
  /-- ROTL (R119). -/
  | rotl (d : BitVec 6) (a : BitVec 6) (b : BitVec 6)
  /-- BFX (R119). -/
  | bfx (d : BitVec 6) (a : BitVec 6) (b : BitVec 6) (t : BitVec 1)
  /-- BFI (R119). -/
  | bfi (d : BitVec 6) (a : BitVec 6) (b : BitVec 6)
  /-- POPC (R119). -/
  | popc (d : BitVec 6) (a : BitVec 6)
  /-- CLZ (R119). -/
  | clz (d : BitVec 6) (a : BitVec 6)
  /-- BREV (R119). -/
  | brev (d : BitVec 6) (a : BitVec 6)
  /-- PDOT4 (R120). -/
  | pdot4 (d : BitVec 6) (a : BitVec 6) (b : BitVec 6) (t : BitVec 1)
  /-- PADD4 (R120). -/
  | padd4 (d : BitVec 6) (a : BitVec 6) (b : BitVec 6)
  /-- PADD4_SS (R120). -/
  | padd4Ss (d : BitVec 6) (a : BitVec 6) (b : BitVec 6)
  /-- PADD4_US (R120). -/
  | padd4Us (d : BitVec 6) (a : BitVec 6) (b : BitVec 6)
  /-- LDI (R121). -/
  | ldi (d : BitVec 6) (i : BitVec 14)
  /-- MOV (R121). -/
  | mov (d : BitVec 6) (a : BitVec 6)
  /-- SEL (R121). -/
  | sel (d : BitVec 6) (a : BitVec 6) (b : BitVec 6) (p : BitVec 2)
  /-- ICMP (R122). -/
  | icmp (p : BitVec 2) (c : BitVec 4) (a : BitVec 6) (b : BitVec 6)
  /-- ICMPI (R122). -/
  | icmpi (p : BitVec 2) (c : BitVec 4) (a : BitVec 6) (i : BitVec 8)
  /-- PLOG (R123). -/
  | plog (p : BitVec 2) (x : BitVec 2) (y : BitVec 2) (z : BitVec 2) (t : BitVec 8)
  /-- WRED_ADD (R125). -/
  | wredAdd (d : BitVec 6) (a : BitVec 6)
  /-- WRED_MIN (R125). -/
  | wredMin (d : BitVec 6) (a : BitVec 6)
  /-- WRED_MAX (R125). -/
  | wredMax (d : BitVec 6) (a : BitVec 6)
  /-- WRED_OR (R125). -/
  | wredOr (d : BitVec 6) (a : BitVec 6)
  /-- PMOV_TO_REG (R124). -/
  | pmovToReg (d : BitVec 6)
  /-- PMOV_TO_PREDS (R124). -/
  | pmovToPreds (a : BitVec 6)
  /-- MOVS (R121). -/
  | movs (d : BitVec 6) (i : BitVec 8)
  /-- MOVC_READ (R121). -/
  | movcRead (d : BitVec 6) (i : BitVec 7)
  /-- MOVC_WRITE (R121). -/
  | movcWrite (a : BitVec 6) (i : BitVec 7)
  /-- BRA (R126). -/
  | bra (o : BitVec 20)
  /-- BRP (R126). -/
  | brp (p : BitVec 2) (n : BitVec 1) (o : BitVec 17)
  /-- JMPI (R126). -/
  | jmpi (a : BitVec 6)
  /-- CALL (R126). -/
  | call (o : BitVec 20)
  /-- CALLI (R126). -/
  | calli (a : BitVec 6)
  /-- RET (R126). -/
  | ret
  /-- EXIT (R128). -/
  | exit
  /-- JSET (R132). -/
  | jset (j : BitVec 3)
  /-- JOIN (R132). -/
  | join (j : BitVec 3)
  /-- JDROP (R132). -/
  | jdrop (j : BitVec 3)
  /-- YIELD (R130). -/
  | yield
  /-- RGN (R136). -/
  | rgn
  /-- VGROW (R137). -/
  | vgrow (n : BitVec 3)
  /-- VSHRINK (R137). -/
  | vshrink (n : BitVec 3)
  /-- VOTE_ANY (R125). -/
  | voteAny (d : BitVec 6) (a : BitVec 6)
  /-- VOTE_ALL (R125). -/
  | voteAll (d : BitVec 6) (a : BitVec 6)
  /-- VOTE_BALLOT (R125). -/
  | voteBallot (d : BitVec 6) (a : BitVec 6)
  /-- SHFL_IDX (R125). -/
  | shflIdx (d : BitVec 6) (a : BitVec 6) (b : BitVec 6)
  /-- SHFL_UP (R125). -/
  | shflUp (d : BitVec 6) (a : BitVec 6) (b : BitVec 6)
  /-- SHFL_DOWN (R125). -/
  | shflDown (d : BitVec 6) (a : BitVec 6) (b : BitVec 6)
  /-- SHFL_XOR (R125). -/
  | shflXor (d : BitVec 6) (a : BitVec 6) (b : BitVec 6)
  /-- FADD (R144). -/
  | fadd (d : BitVec 6) (a : BitVec 6) (b : BitVec 6)
  /-- FSUB (R144). -/
  | fsub (d : BitVec 6) (a : BitVec 6) (b : BitVec 6)
  /-- FMUL (R144). -/
  | fmul (d : BitVec 6) (a : BitVec 6) (b : BitVec 6)
  /-- FFMA (R144). -/
  | ffma (d : BitVec 6) (a : BitVec 6) (b : BitVec 6)
  /-- FMIN (R145). -/
  | fmin (d : BitVec 6) (a : BitVec 6) (b : BitVec 6)
  /-- FMAX (R145). -/
  | fmax (d : BitVec 6) (a : BitVec 6) (b : BitVec 6)
  /-- FABS (R145). -/
  | fabs (d : BitVec 6) (a : BitVec 6)
  /-- FNEG (R145). -/
  | fneg (d : BitVec 6) (a : BitVec 6)
  /-- FCMP (R146). -/
  | fcmp (p : BitVec 2) (c : BitVec 4) (a : BitVec 6) (b : BitVec 6)
  /-- FCLASS (R147). -/
  | fclass (d : BitVec 6) (a : BitVec 6)
  /-- FDIV (R148). -/
  | fdiv (d : BitVec 6) (a : BitVec 6) (b : BitVec 6)
  /-- FSQRT (R148). -/
  | fsqrt (d : BitVec 6) (a : BitVec 6)
  /-- FRCP (R148). -/
  | frcp (d : BitVec 6) (a : BitVec 6)
  /-- FRSQ (R148). -/
  | frsq (d : BitVec 6) (a : BitVec 6)
  /-- FEX2 (R148). -/
  | fex2 (d : BitVec 6) (a : BitVec 6)
  /-- FLG2 (R148). -/
  | flg2 (d : BitVec 6) (a : BitVec 6)
  /-- FSINP (R148). -/
  | fsinp (d : BitVec 6) (a : BitVec 6)
  /-- FCOSP (R148). -/
  | fcosp (d : BitVec 6) (a : BitVec 6)
  /-- FTANH (R148). -/
  | ftanh (d : BitVec 6) (a : BitVec 6)
  /-- FSCALE (R144). -/
  | fscale (d : BitVec 6) (a : BitVec 6) (b : BitVec 6)
  /-- FRND (R149). -/
  | frnd (d : BitVec 6) (a : BitVec 6)
  /-- F2I (R149). -/
  | f2i (d : BitVec 6) (a : BitVec 6) (t : BitVec 1)
  /-- I2F (R149). -/
  | i2f (d : BitVec 6) (a : BitVec 6) (t : BitVec 1)
  /-- FCVTO (R150). -/
  | fcvto (d : BitVec 6) (a : BitVec 6) (f : BitVec 6)
  /-- FCVTI (R150). -/
  | fcvti (d : BitVec 6) (a : BitVec 6) (f : BitVec 6)
  /-- HADD2 (R151). -/
  | hadd2 (d : BitVec 6) (a : BitVec 6) (b : BitVec 6)
  /-- HMUL2 (R151). -/
  | hmul2 (d : BitVec 6) (a : BitVec 6) (b : BitVec 6)
  /-- HFMA2 (R151). -/
  | hfma2 (d : BitVec 6) (a : BitVec 6) (b : BitVec 6)
  /-- BADD2 (R151). -/
  | badd2 (d : BitVec 6) (a : BitVec 6) (b : BitVec 6)
  /-- BMUL2 (R151). -/
  | bmul2 (d : BitVec 6) (a : BitVec 6) (b : BitVec 6)
  /-- BFMA2 (R151). -/
  | bfma2 (d : BitVec 6) (a : BitVec 6) (b : BitVec 6)
  /-- HDOT2_F16 (R152). -/
  | hdot2F16 (d : BitVec 6) (a : BitVec 6) (b : BitVec 6)
  /-- HDOT2_BF16 (R152). -/
  | hdot2Bf16 (d : BitVec 6) (a : BitVec 6) (b : BitVec 6)
  /-- TLD (R153). -/
  | tld (d : BitVec 6) (a : BitVec 6) (o : BitVec 8)
  /-- TLDH (R154). -/
  | tldh (d : BitVec 6) (a : BitVec 6) (o : BitVec 8)
  /-- TSTW (R157). -/
  | tstw (d : BitVec 6) (a : BitVec 6) (f : BitVec 6) (m : BitVec 2)
  /-- TSCL (R156). -/
  | tscl (d : BitVec 6) (a : BitVec 6) (f : BitVec 6)
  /-- TSTE (R158). -/
  | tste (d : BitVec 6) (a : BitVec 6) (b : BitVec 6)
  /-- PSNQ (R160). -/
  | psnq (d : BitVec 6) (a : BitVec 6)
  /-- PSNS (R160). -/
  | psns (d : BitVec 6) (a : BitVec 6)
  /-- PSNC (R160). -/
  | psnc (d : BitVec 6) (a : BitVec 6)
  /-- LDB (R168). -/
  | ldb (d : BitVec 6) (a : BitVec 6) (o : BitVec 8)
  /-- LDH (R168). -/
  | ldh (d : BitVec 6) (a : BitVec 6) (o : BitVec 8)
  /-- LDW (R168). -/
  | ldw (d : BitVec 6) (a : BitVec 6) (o : BitVec 8)
  /-- LDD (R168). -/
  | ldd (d : BitVec 6) (a : BitVec 6) (o : BitVec 8)
  /-- LDQ (R168). -/
  | ldq (d : BitVec 6) (a : BitVec 6) (o : BitVec 8)
  /-- STB (R168). -/
  | stb (d : BitVec 6) (a : BitVec 6) (o : BitVec 8)
  /-- STH (R168). -/
  | sth (d : BitVec 6) (a : BitVec 6) (o : BitVec 8)
  /-- STW (R168). -/
  | stw (d : BitVec 6) (a : BitVec 6) (o : BitVec 8)
  /-- STD (R168). -/
  | std (d : BitVec 6) (a : BitVec 6) (o : BitVec 8)
  /-- STQ (R168). -/
  | stq (d : BitVec 6) (a : BitVec 6) (o : BitVec 8)
  /-- LDA (R173). -/
  | lda (d : BitVec 6) (a : BitVec 6) (w : BitVec 2) (c : BitVec 3)
  /-- STL (R173). -/
  | stl (d : BitVec 6) (a : BitVec 6) (w : BitVec 2) (c : BitVec 3)
  /-- FENCE_FULL (R174). -/
  | fenceFull (c : BitVec 3)
  /-- FENCE_ACQ (R174). -/
  | fenceAcq (c : BitVec 3)
  /-- FENCE_REL (R174). -/
  | fenceRel (c : BitVec 3)
  /-- LDS (R175). -/
  | lds (d : BitVec 6) (a : BitVec 6) (w : BitVec 3) (o : BitVec 5)
  /-- STS (R175). -/
  | sts (d : BitVec 6) (a : BitVec 6) (w : BitVec 3) (o : BitVec 5)
  /-- ATADD (R178). -/
  | atadd (d : BitVec 6) (a : BitVec 6) (r : BitVec 1) (x : BitVec 1) (c : BitVec 3)
  /-- ATSUB (R178). -/
  | atsub (d : BitVec 6) (a : BitVec 6) (r : BitVec 1) (x : BitVec 1) (c : BitVec 3)
  /-- ATMINS (R178). -/
  | atmins (d : BitVec 6) (a : BitVec 6) (r : BitVec 1) (x : BitVec 1) (c : BitVec 3)
  /-- ATMINZ (R178). -/
  | atminz (d : BitVec 6) (a : BitVec 6) (r : BitVec 1) (x : BitVec 1) (c : BitVec 3)
  /-- ATMAXS (R178). -/
  | atmaxs (d : BitVec 6) (a : BitVec 6) (r : BitVec 1) (x : BitVec 1) (c : BitVec 3)
  /-- ATMAXZ (R178). -/
  | atmaxz (d : BitVec 6) (a : BitVec 6) (r : BitVec 1) (x : BitVec 1) (c : BitVec 3)
  /-- ATAND (R178). -/
  | atand (d : BitVec 6) (a : BitVec 6) (r : BitVec 1) (x : BitVec 1) (c : BitVec 3)
  /-- ATOR (R178). -/
  | ator (d : BitVec 6) (a : BitVec 6) (r : BitVec 1) (x : BitVec 1) (c : BitVec 3)
  /-- ATXOR (R178). -/
  | atxor (d : BitVec 6) (a : BitVec 6) (r : BitVec 1) (x : BitVec 1) (c : BitVec 3)
  /-- ATXCH (R178). -/
  | atxch (d : BitVec 6) (a : BitVec 6) (r : BitVec 1) (x : BitVec 1) (c : BitVec 3)
  /-- ATINC (R178). -/
  | atinc (d : BitVec 6) (a : BitVec 6) (r : BitVec 1) (x : BitVec 1) (c : BitVec 3)
  /-- ATFADD (R178). -/
  | atfadd (d : BitVec 6) (a : BitVec 6) (r : BitVec 1) (c : BitVec 3)
  /-- ATFMIN (R178). -/
  | atfmin (d : BitVec 6) (a : BitVec 6) (r : BitVec 1) (c : BitVec 3)
  /-- ATFMAX (R178). -/
  | atfmax (d : BitVec 6) (a : BitVec 6) (r : BitVec 1) (c : BitVec 3)
  /-- ATCAS (R178). -/
  | atcas (d : BitVec 6) (a : BitVec 6) (r : BitVec 1) (c : BitVec 3)
  /-- ATCAS64 (R178). -/
  | atcas64 (d : BitVec 6) (a : BitVec 6) (r : BitVec 1) (c : BitVec 3)
  /-- BAR (R180). -/
  | bar (a : BitVec 6) (n : BitVec 4)
  /-- BARA (R180). -/
  | bara (a : BitVec 6) (n : BitVec 4)
  /-- BARW (R180). -/
  | barw (n : BitVec 4)
  /-- WAITM (R179). -/
  | waitm (d : BitVec 6) (a : BitVec 6) (b : BitVec 6) (c : BitVec 2)
  /-- PREF (R185). -/
  | pref (a : BitVec 6) (o : BitVec 8)
  /-- RGET (R183). -/
  | rget (d : BitVec 6) (r : BitVec 3)
  /-- RPUT (R183). -/
  | rput (r : BitVec 3)
  /-- RFREE (R183). -/
  | rfree (r : BitVec 3)
  /-- RTAKE (R183). -/
  | rtake (d : BitVec 6) (r : BitVec 3)
  /-- INVL1 (R186). -/
  | invl1
  /-- WAITF (R187). -/
  | waitf (a : BitVec 6)
  /-- ACKQ (R188). -/
  | ackq (d : BitVec 6)
  /-- OPINST (R196). -/
  | opinst (d : BitVec 6) (a : BitVec 6) (o : BitVec 8)
  /-- OPFREE (R199). -/
  | opfree (a : BitVec 6)
  /-- OPSWAP (R200). -/
  | opswap (a : BitVec 6)
  /-- OPQRY (R215). -/
  | opqry (d : BitVec 6) (a : BitVec 6) (b : BitVec 6)
  /-- OPFIRE (R204). -/
  | opfire (a : BitVec 6) (b : BitVec 6)
  /-- OPDROP (R204). -/
  | opdrop (a : BitVec 6) (b : BitVec 6)
  /-- OPFENCE (R217). -/
  | opfence
  /-- OPGRANT (R216). -/
  | opgrant (d : BitVec 6) (a : BitVec 6) (b : BitVec 6)
  /-- OPWAIT (R215). -/
  | opwait (d : BitVec 6) (a : BitVec 6) (b : BitVec 6)
  /-- OPSEQ (R218). -/
  | opseq (a : BitVec 6)
  /-- TMUL (R227). -/
  | tmul (p : BitVec 4) (q : BitVec 4) (x : BitVec 6) (y : BitVec 6)
  /-- TMAC (R227). -/
  | tmac (p : BitVec 4) (q : BitVec 4) (x : BitVec 6) (y : BitVec 6)
  /-- TZERO (R226). -/
  | tzero (p : BitVec 4) (q : BitVec 4) (x : BitVec 6) (y : BitVec 6)
  /-- TACOPY (R228). -/
  | tacopy (p : BitVec 4) (q : BitVec 4) (x : BitVec 6) (y : BitVec 6)
  /-- TALOAD (R228). -/
  | taload (p : BitVec 4) (q : BitVec 4) (x : BitVec 6) (y : BitVec 6)
  /-- TRING (R229). -/
  | tring (p : BitVec 4) (q : BitVec 4) (x : BitVec 6) (y : BitVec 6)
  /-- TSIG (R229). -/
  | tsig (p : BitVec 4) (q : BitVec 4) (x : BitVec 6) (y : BitVec 6)
  /-- TSET (R226). -/
  | tset (p : BitVec 4) (q : BitVec 4) (x : BitVec 6) (y : BitVec 6)
  /-- TADDQ (R226). -/
  | taddq (p : BitVec 4) (q : BitVec 4) (x : BitVec 6) (y : BitVec 6)
  /-- TLOOP (R226). -/
  | tloop (p : BitVec 4) (q : BitVec 4) (x : BitVec 6) (y : BitVec 6)
  /-- TJMP (R226). -/
  | tjmp (p : BitVec 4) (q : BitVec 4) (x : BitVec 6) (y : BitVec 6)
  /-- TWAITC (R226). -/
  | twaitc (p : BitVec 4) (q : BitVec 4) (x : BitVec 6) (y : BitVec 6)
  /-- TEND (R226). -/
  | tend (p : BitVec 4) (q : BitVec 4) (x : BitVec 6) (y : BitVec 6)
  /-- TSWAP (R230). -/
  | tswap (p : BitVec 4) (q : BitVec 4) (x : BitVec 6) (y : BitVec 6)
  /-- CPY (R237). -/
  | cpy (d : BitVec 6) (a : BitVec 6) (k : BitVec 2) (l : BitVec 6)
  /-- GATH (R239). -/
  | gath (a : BitVec 6)
  /-- SCAT (R239). -/
  | scat (a : BitVec 6)
  /-- CPYW (R238). -/
  | cpyw (a : BitVec 6)
  /-- SHDW_BIND (R241). -/
  | shdwBind (d : BitVec 6) (a : BitVec 6)
  /-- SHDW_FREE (R243). -/
  | shdwFree (a : BitVec 6)
  /-- SHDW_GEN (R241). -/
  | shdwGen (d : BitVec 6) (a : BitVec 6)
  /-- PUBLISH (R243). -/
  | publish (a : BitVec 6) (c : BitVec 3)
  /-- SHADOW_FLIP (R243; n: command). -/
  | shadowFlip
  /-- COLL (R245). -/
  | coll (d : BitVec 6) (a : BitVec 6)
  /-- COLLW (R245). -/
  | collw (d : BitVec 6) (a : BitVec 6)
  /-- MCAST (R246). -/
  | mcast (a : BitVec 6)
  /-- LAUNCH (R249). -/
  | launch (d : BitVec 6) (a : BitVec 6) (b : BitVec 6)
  /-- LWAIT (R250). -/
  | lwait (d : BitVec 6) (a : BitVec 6)
  /-- SVC (R251). -/
  | svc (d : BitVec 6) (a : BitVec 6) (i : BitVec 8)
  /-- TRAP (R255). -/
  | trap (a : BitVec 6) (i : BitVec 8)
  /-- NOTIFY (R254). -/
  | notify (a : BitVec 6) (b : BitVec 6)
  /-- ERRPOP (R255). -/
  | errpop (d : BitVec 6) (a : BitVec 6)
  /-- SLOTQ_DIRECT (R255). -/
  | slotqDirect (d : BitVec 6) (a : BitVec 6) (b : BitVec 6)
  /-- SLOTQ_ROUTE (R255). -/
  | slotqRoute (d : BitVec 6) (a : BitVec 6) (b : BitVec 6)
  /-- SVCREPLY (R253). -/
  | svcreply (d : BitVec 6) (a : BitVec 6) (b : BitVec 6)
  /-- RTT (R257). -/
  | rtt
  /-- TLBINV_PAGE (R258). -/
  | tlbinvPage (a : BitVec 6) (b : BitVec 6)
  /-- TLBINV_CONTEXT (R258). -/
  | tlbinvContext (a : BitVec 6) (b : BitVec 6)
  /-- TLBINV_VD (R258). -/
  | tlbinvVd (a : BitVec 6) (b : BitVec 6)
  /-- TFENCE (R258). -/
  | tfence (c : BitVec 3)
  /-- KEYLOAD (R389). -/
  | keyload (d : BitVec 6) (a : BitVec 6) (b : BitVec 6)
  /-- KEYREVOKE (R260). -/
  | keyrevoke (d : BitVec 6) (a : BitVec 6)
  /-- QOSSET (R261). -/
  | qosset (d : BitVec 6) (a : BitVec 6) (b : BitVec 6)
  /-- CTXSAVE (R262). -/
  | ctxsave (d : BitVec 6) (a : BitVec 6) (b : BitVec 6)
  /-- CTXREST (R262). -/
  | ctxrest (d : BitVec 6) (a : BitVec 6) (b : BitVec 6)
  /-- CTXKILL (R288). -/
  | ctxkill (d : BitVec 6) (a : BitVec 6) (b : BitVec 6)
  /-- PGSPLIT (R259). -/
  | pgsplit (d : BitVec 6) (a : BitVec 6) (b : BitVec 6)
  /-- WFI (R256). -/
  | wfi
  /-- PARTCTL_ASSIGN (R381). -/
  | partctlAssign (d : BitVec 6) (a : BitVec 6) (b : BitVec 6)
  /-- PARTCTL_RESET (R381). -/
  | partctlReset (d : BitVec 6) (a : BitVec 6) (b : BitVec 6)
  /-- PARTCTL_STOP (R381). -/
  | partctlStop (d : BitVec 6) (a : BitVec 6) (b : BitVec 6)
  /-- QUADS_RETIRED (R381; n: partition). -/
  | quadsRetired
  /-- SLEEP (R256). -/
  | sleep (a : BitVec 6)
  /-- HALT (R256). -/
  | halt
  /-- HIMM (R69). -/
  | himm (p : BitVec 22)
  /-- HCLS (R74). -/
  | hcls (m : BitVec 12) (a : BitVec 4) (b : BitVec 4)
  /-- HMOD (R70). -/
  | hmod (r : BitVec 3) (t : BitVec 2) (c : BitVec 2)
  /-- HINT_RESERVED_F6 (R72). -/
  | hintReservedF6 (h : BitVec 1) (x : BitVec 20)
  /-- HINT_RESERVED_F8 (R72). -/
  | hintReservedF8 (h : BitVec 3) (x : BitVec 20)
  /-- LOAD_DATA_ARRIVAL (R166; n: access). -/
  | loadDataArrival
  /-- STORE_ACK (R30, R166; n: access). -/
  | storeAck
  /-- ATOMIC_REPLY (R178; n: access). -/
  | atomicReply
  /-- WAITM_REPLY (R179; n: access). -/
  | waitmReply
  /-- WATCH_REEVALUATE (R179; n: access, or with ok n: package, m: entry of the watch of another). -/
  | watchReevaluate
  /-- HOME_ACCESS (R290, R298; n: access, one at its home here or one held back that leaves for another package). -/
  | homeAccess
  /-- ENGINE_COMMAND_COMPLETE (R234, R235; n: command). -/
  | engineCommandComplete
  /-- OPINST_COMPLETE (R196, R197; n: command). -/
  | opinstComplete
  /-- IW_STORE_ARRIVAL (R204 to R206; n: access). -/
  | iwStoreArrival
  /-- OW_LOAD_ARRIVAL (R206, R210, R211; n: access). -/
  | owLoadArrival
  /-- FIRE_START (R208, R209; n: OE). -/
  | fireStart
  /-- FIRE_COMPLETE (R208, R209; n: OE). -/
  | fireComplete
  /-- CLAIM_LIMIT_EXPIRY (R204; n: operator, m: slot). -/
  | claimLimitExpiry
  /-- UNREADY_LIMIT_EXPIRY (R211; n: access, or with ok a place in the list of waiting loads of other packages). -/
  | unreadyLimitExpiry
  /-- OPWAIT_LIMIT_EXPIRY (R215; n: command). -/
  | opwaitLimitExpiry
  /-- JOIN_RELEASE (R133, R134; n: wave, m: mask). -/
  | joinRelease
  /-- JOINTO_EXPIRY (R135; n: wave, m: thread). -/
  | jointoExpiry
  /-- BARTO_EXPIRY (R181; n: block, or with ok a Vent thread's wave; m: barrier). -/
  | bartoExpiry
  /-- VGROW_GRANT (R138; n: lane). -/
  | vgrowGrant
  /-- VSHRINK_FREE (R137; n: wave). -/
  | vshrinkFree
  /-- PAGE_WALK_COMPLETE (R185, R285, R323; n: access). -/
  | pageWalkComplete
  /-- FAULT_REQUEST_POST (R325; n: request). -/
  | faultRequestPost
  /-- FAULT_DONE (R326; n: request). -/
  | faultDone
  /-- LOGFULL_WAKE (R269; n: lane). -/
  | logfullWake
  /-- TAKE_TRAPS (R270; n: wave). -/
  | takeTraps
  /-- TRAP_RECORD_APPEND (R271; n: VD). -/
  | trapRecordAppend
  /-- TQTAIL_WRITE (R271; n: VD, val). -/
  | tqtailWrite
  /-- WAVE_SAVE (R277; n: wave, m: a block without waves). -/
  | waveSave
  /-- WAITTO_EXPIRY (R275; n: wave). -/
  | waittoExpiry
  /-- PREEMPTTO_EXPIRY (R276; n: wave). -/
  | preempttoExpiry
  /-- WAVE_RESTORE (R273, R277; n: wave, m: lane of the package). -/
  | waveRestore
  /-- FUMAROLE_ENTRY (R283; n: wave). -/
  | fumaroleEntry
  /-- FUMAROLE_EXIT (R286; n: wave). -/
  | fumaroleExit
  /-- WAVE_END (R128; n: wave). -/
  | waveEnd
  /-- BLOCK_COMPLETE (R230; n: block). -/
  | blockComplete
  /-- LAUNCH_DISPATCH (R330; n: VD). -/
  | launchDispatch
  /-- BLOCK_PLACE (R334; n: partition). -/
  | blockPlace
  /-- PRIORITY_PREEMPT (R336; n: launch). -/
  | priorityPreempt
  /-- LAUNCH_COMPLETE (R250; n: launch). -/
  | launchComplete
  /-- RECLAIM_NOTICE (R347; n: VD). -/
  | reclaimNotice
  /-- RECLAIMTO_EXPIRY (R347; n: block). -/
  | reclaimtoExpiry
  /-- COOP_PARK (R350; n: launch). -/
  | coopPark
  /-- THERMAL_SAMPLE (R333; n: cluster, temp). -/
  | thermalSample
  /-- VOLTAGE_DROOP (R333; n: cluster). -/
  | voltageDroop
  /-- CLUSTER_SPARE_TAKEOVER (R1, R310; n: cluster, m: spare, 2 to a die, in order). -/
  | clusterSpareTakeover
  /-- VENT_FAILURE (R388; n: processor). -/
  | ventFailure
  /-- COLL_MATCH (R245; n: command, m: member, coll). -/
  | collMatch
  /-- COLL_COMBINE (R370; n: command). -/
  | collCombine
  /-- WORLD_RETIRE (R393; n: KeyID). -/
  | worldRetire
  /-- SLOT_START (R340, R354, R362, R372). -/
  | slotStart
  /-- SLOT_MARK (R410; mark). -/
  | slotMark
  /-- CALENDAR_LOCK_LOSS (R410). -/
  | calendarLockLoss
  /-- PEER_ABSENT (R373; n: package). -/
  | peerAbsent
  /-- PEER_PRESENT (R372; n: package). -/
  | peerPresent
  /-- READ (R366; hdr, val: address, entry, size, kind, tag). -/
  | read
  /-- DATA (R366; hdr, entry, status, psn, data). -/
  | data
  /-- WRITE (R366; hdr, val: address, entry, size, kind, tag, data, bmask, bytes: further elements). -/
  | write
  /-- WACK (R366; hdr, entry, status, n: reason, bytes: flags of further elements). -/
  | wack
  /-- ATOM (R366; hdr, val: address, entry, kind: opcode, ok: 64-bit, data: operands, tag, bytes: further atomics). -/
  | atom
  /-- AREPLY (R366; hdr, entry, status, n: FPSTAT bits, psn, val: old value, bytes: those of further atomics). -/
  | areply
  /-- WATCH (R366; hdr, val: address, entry, n: condition, m: comparand, tag, bytes: further watches). -/
  | watch
  /-- WREPLY (R366; hdr, entry, status, n: thread, val: word). -/
  | wreply
  /-- BULK (R364; hdr, n: command, m: rank, val: address, k: bytes in all, bytes, coll, data: SIG of a multicast, seqs: poisoned words). -/
  | bulk
  /-- BACK (R364; hdr, n: command, m: bytes, status, k: reason). -/
  | back
  /-- ABORT (R289; hdr, tag, n: context). -/
  | abort
  /-- DACK (R362; hdr, n: class, seqs). -/
  | dack
  /-- RETRY (R365; hdr, n: class, seqs). -/
  | retry
  /-- CREDIT (R360; hdr, n: flits). -/
  | credit
  /-- IDLE (R357; n: neighbour). -/
  | idle
  /-- RELAY_FORWARD (R359, R360; n: place among the messages held). -/
  | relayForward
  /-- WAVELENGTH_RETRAIN (R374; n: plane, m: fibre, transmit 0 to 7 and receive 8 to 15, k: wavelength, ok). -/
  | wavelengthRetrain
  /-- WAVELENGTH_SPARE (R374; n: plane, m: fibre as above). -/
  | wavelengthSpare
  /-- PCIE_INBOUND_READ (R401, R403; n: port, val: address, m: bytes, k: Requester ID, kind: not 0 where it needs ATS, PRI or PASID). -/
  | pcieInboundRead
  /-- PCIE_INBOUND_WRITE (R401, R403; n: port, val: address, bytes, k: Requester ID, ok: posted, kind: as above). -/
  | pcieInboundWrite
  /-- PCIE_LINK_DOWN (R404; n: port). -/
  | pcieLinkDown
  /-- PCIE_AER_EVENT (R404; n: port). -/
  | pcieAerEvent
  /-- GET_VERSION (R395). -/
  | getVersion
  /-- GET_CAPABILITIES (R395). -/
  | getCapabilities
  /-- NEGOTIATE_ALGORITHMS (R395; n: asym, m: hash). -/
  | negotiateAlgorithms
  /-- GET_DIGESTS (R395). -/
  | getDigests
  /-- GET_CERTIFICATE (R395; n: slot, m: off, k: len). -/
  | getCertificate
  /-- CHALLENGE (R395; n: slot, bytes: the requester's context). -/
  | challenge
  /-- GET_MEASUREMENTS (R395; n: index, bytes: the requester's context). -/
  | getMeasurements
  /-- SPDM_UNSUPPORTED_REQUEST (R395; n: code). -/
  | spdmUnsupportedRequest
  /-- SIDEBAND_PACKAGE_RESET (R405). -/
  | sidebandPackageReset
  /-- SIDEBAND_PARTITION_RESET (R405; n: partition). -/
  | sidebandPartitionReset
  /-- SIDEBAND_OTHER_MESSAGE (R405; bytes). -/
  | sidebandOtherMessage
  /-- PACKAGE_RESET (R409). -/
  | packageReset
  /-- POWER_STATE_ENTRY (R407). -/
  | powerStateEntry
  /-- POWER_STATE_EXIT (R408; wake). -/
  | powerStateExit
  /-- POWER_EXIT_COMPLETE (R394, R406; ok: the copy of the keys is damaged). -/
  | powerExitComplete
  /-- WAKEAT_EXPIRY (R408). -/
  | wakeatExpiry
  /-- LATTOL_WRITE (R43; n: VD, val). -/
  | lattolWrite
  /-- VTREF_WRITE (R385; n: partition, m: VD). -/
  | vtrefWrite
  /-- QPEND_WRITE (R386; n: queue, val). -/
  | qpendWrite
  /-- QNEXT_READ (R387; n: queue, m: wave, k: access). -/
  | qnextRead
  /-- QDONE_WRITE (R387; n: queue, m: wave, val). -/
  | qdoneWrite
  /-- UESTA_WRITE (R398; n: VD, val). -/
  | uestaWrite
  /-- G_COUNTER_READ (R342; n: VD, m: class, ok: the second counter, k: access). -/
  | gCounterRead
  /-- CLGUAR_WRITE (R345; n: VD, val). -/
  | clguarWrite
  /-- RFMLOCK_WRITE (R411; val). -/
  | rfmlockWrite
  /-- KCMD_GO (R412; val). -/
  | kcmdGo
  /-- REGISTER_WRITE (R40; n: address, val). -/
  | registerWrite
  /-- BUCKET_REFILL (R340; n: cls). -/
  | bucketRefill
  /-- DISCARDED_FLIT (R356, R365; val: the 128 bytes of the flit as a number). -/
  | discardedFlit
  /-- PLANE_RESTORED (R374; n: plane). -/
  | planeRestored
  /-- MEMORY_SCRUB (R309, R414; kind 0 in HBM4E or LPDDR-6, ok: corrected, 1 in an L2 slice, 2 in the system cache, 3 in a core's caches, val: address,
  n: core; 4 a register, n: wave, m: thread, k: number; 5 a word of scratch, 6 an element of an accumulator, n: block, val: offset or place). -/
  | memoryScrub
  /-- POWER_REMOVED (R406). -/
  | powerRemoved
  /-- PCIE_LINK_UP (R404; n: port). -/
  | pcieLinkUp
  /-- KEY_UNIT_DONE (R412). -/
  | keyUnitDone
  /-- OPERATOR_COMMAND_ARRIVAL (R199, R200, R204, R214 to R216; n: command). -/
  | operatorCommandArrival
  /-- TILE_COMMAND_RETIRE (R223, R227 to R229; n: cluster, m: entry). -/
  | tileCommandRetire
  /-- PRIVILEGED_COMPLETION (R256; n: command, or with ok the part here of another package's TLBINV, TFENCE or PGSPLIT: kind, n: VD, m: context,
  val: address). -/
  | privilegedCompletion
deriving DecidableEq, Repr

end Sys2Proof
end

