-- ==== Sys2Proof/WellFormed.lean ====
section
/-!
DEFINITION. The reasons of R80, and the checks on an instruction as a term: its sub-fields hold values its chapter defines (R63 to
R68), its register pairs and quads stand on legal numbers (R61).
-/

namespace Sys2Proof

/-- The reasons a UDI carries (R80). -/
inductive UdiReason where
  /-- 0: unassigned opcode. -/
  | unassigned
  /-- 1: all-zero word. -/
  | allZero
  /-- 2: tile-class opcode in a SIMT stream. -/
  | tileInSimt
  /-- 3: reserved M, sub-field value, condition or format selector. -/
  | reserved
  /-- 4: reserved bit set. -/
  | reservedBit
  /-- 5: register beyond the allocation. -/
  | beyondAlloc
  /-- 6: odd pair or misaligned quad. -/
  | misaligned
  /-- 7: reserved scope code. -/
  | reservedScope
  /-- 8: illegal hint sequence. -/
  | hintOrder
  /-- 9: SIMT-class word in a sequencer stream. -/
  | simtInSeq
deriving DecidableEq, Repr

/-- The code of a reason (R80). -/
def UdiReason.code : UdiReason → Nat
  | .unassigned => 0 | .allZero => 1 | .tileInSimt => 2 | .reserved => 3 | .reservedBit => 4
  | .beyondAlloc => 5 | .misaligned => 6 | .reservedScope => 7 | .hintOrder => 8 | .simtInSeq => 9

/-- A condition code ICMP and ICMPI do not define (R64). -/
def condBad (c : BitVec 4) : Bool := decide (5 < c.toNat % 8)

/-- A code outside the table of R47. -/
def ctlBad (i : BitVec 7) : Bool := decide (i.toNat < 0x20) || decide (0x26 < i.toNat)

/-- The read-only codes of R47: RGNPC and RGNCNT. -/
def ctlReadOnly (i : BitVec 7) : Bool := i == 0x21#7 || i == 0x22#7

/-- A granule count VGROW and VSHRINK do not define (R137). -/
def granBad (n : BitVec 3) : Bool := n == 0 || n == 7

/-- A selector FCVTO and FCVTI refuse (R68). -/
def cvtBad (f : BitVec 6) : Bool := f == 0 || decide (5 < f.toNat)

/-- A selector TSTW and TSCL refuse (R68). -/
def selBad (f : BitVec 6) : Bool := decide (7 < f.toNat)

/-- A form of TSTW its chapter does not define (R157): M = 3, and M = 2 with a float selector. -/
def tstwBad (f : BitVec 6) (m : BitVec 2) : Bool := m == 3 || (m == 2 && decide (f.toNat < 6))

/-- A rounding field HMOD does not define (R70). -/
def rndBad (r : BitVec 3) : Bool := decide (1 ≤ r.toNat) && decide (r.toNat ≤ 3)

/-- A reserved scope code (R66). -/
def scopeBad (c : BitVec 3) : Bool := decide (5 < c.toNat)

/-- The sub-fields of an instruction word hold values the spec defines (R63 to R68, R70, R137, R157). -/
def Instr.fieldsOk : Instr → Bool
  | .iadd _ _ _ => true
  | .iaddi _ _ _ => true
  | .isub _ _ _ => true
  | .iadds _ _ _ _ => true
  | .imul _ _ _ => true
  | .imulh _ _ _ _ => true
  | .imad _ _ _ => true
  | .imadw _ _ _ _ => true
  | .idiv _ _ _ _ => true
  | .irem _ _ _ _ => true
  | .imin _ _ _ _ => true
  | .imax _ _ _ _ => true
  | .iabs _ _ => true
  | .ineg _ _ => true
  | .lea _ _ _ _ => true
  | .and _ _ _ => true
  | .or _ _ _ => true
  | .xor _ _ _ => true
  | .andn _ _ _ => true
  | .not _ _ => true
  | .andi _ _ _ => true
  | .ori _ _ _ => true
  | .xori _ _ _ => true
  | .shl _ _ _ => true
  | .shrl _ _ _ => true
  | .shra _ _ _ => true
  | .shli _ _ _ => true
  | .shrli _ _ _ => true
  | .shrai _ _ _ => true
  | .rotl _ _ _ => true
  | .bfx _ _ _ _ => true
  | .bfi _ _ _ => true
  | .popc _ _ => true
  | .clz _ _ => true
  | .brev _ _ => true
  | .pdot4 _ _ _ _ => true
  | .padd4 _ _ _ => true
  | .padd4Ss _ _ _ => true
  | .padd4Us _ _ _ => true
  | .ldi _ _ => true
  | .mov _ _ => true
  | .sel _ _ _ _ => true
  | .icmp _ c _ _ => !condBad c
  | .icmpi _ c _ _ => !condBad c
  | .plog _ _ _ _ _ => true
  | .wredAdd _ _ => true
  | .wredMin _ _ => true
  | .wredMax _ _ => true
  | .wredOr _ _ => true
  | .pmovToReg _ => true
  | .pmovToPreds _ => true
  | .movs _ i => decide (i.toNat ≤ 0x0D)
  | .movcRead _ i => !ctlBad i
  | .movcWrite _ i => !(ctlBad i || ctlReadOnly i)
  | .bra _ => true
  | .brp _ _ _ => true
  | .jmpi _ => true
  | .call _ => true
  | .calli _ => true
  | .ret => true
  | .exit => true
  | .jset _ => true
  | .join _ => true
  | .jdrop _ => true
  | .yield => true
  | .rgn => true
  | .vgrow n => !granBad n
  | .vshrink n => !granBad n
  | .voteAny _ _ => true
  | .voteAll _ _ => true
  | .voteBallot _ _ => true
  | .shflIdx _ _ _ => true
  | .shflUp _ _ _ => true
  | .shflDown _ _ _ => true
  | .shflXor _ _ _ => true
  | .fadd _ _ _ => true
  | .fsub _ _ _ => true
  | .fmul _ _ _ => true
  | .ffma _ _ _ => true
  | .fmin _ _ _ => true
  | .fmax _ _ _ => true
  | .fabs _ _ => true
  | .fneg _ _ => true
  | .fcmp _ c _ _ => decide (c.toNat ≤ 5)
  | .fclass _ _ => true
  | .fdiv _ _ _ => true
  | .fsqrt _ _ => true
  | .frcp _ _ => true
  | .frsq _ _ => true
  | .fex2 _ _ => true
  | .flg2 _ _ => true
  | .fsinp _ _ => true
  | .fcosp _ _ => true
  | .ftanh _ _ => true
  | .fscale _ _ _ => true
  | .frnd _ _ => true
  | .f2i _ _ _ => true
  | .i2f _ _ _ => true
  | .fcvto _ _ f => !cvtBad f
  | .fcvti _ _ f => !cvtBad f
  | .hadd2 _ _ _ => true
  | .hmul2 _ _ _ => true
  | .hfma2 _ _ _ => true
  | .badd2 _ _ _ => true
  | .bmul2 _ _ _ => true
  | .bfma2 _ _ _ => true
  | .hdot2F16 _ _ _ => true
  | .hdot2Bf16 _ _ _ => true
  | .tld _ _ _ => true
  | .tldh _ _ _ => true
  | .tstw _ _ f m => !(selBad f || tstwBad f m)
  | .tscl _ _ f => !selBad f
  | .tste _ _ _ => true
  | .psnq _ _ => true
  | .psns _ _ => true
  | .psnc _ _ => true
  | .ldb _ _ _ => true
  | .ldh _ _ _ => true
  | .ldw _ _ _ => true
  | .ldd _ _ _ => true
  | .ldq _ _ _ => true
  | .stb _ _ _ => true
  | .sth _ _ _ => true
  | .stw _ _ _ => true
  | .std _ _ _ => true
  | .stq _ _ _ => true
  | .lda _ _ w c => w != 3 && !scopeBad c
  | .stl _ _ w c => w != 3 && !scopeBad c
  | .fenceFull c => !scopeBad c
  | .fenceAcq c => !scopeBad c
  | .fenceRel c => !scopeBad c
  | .lds _ _ w _ => decide (w.toNat ≤ 4)
  | .sts _ _ w _ => decide (w.toNat ≤ 4)
  | .atadd _ _ _ _ c => !scopeBad c
  | .atsub _ _ _ _ c => !scopeBad c
  | .atmins _ _ _ _ c => !scopeBad c
  | .atminz _ _ _ _ c => !scopeBad c
  | .atmaxs _ _ _ _ c => !scopeBad c
  | .atmaxz _ _ _ _ c => !scopeBad c
  | .atand _ _ _ _ c => !scopeBad c
  | .ator _ _ _ _ c => !scopeBad c
  | .atxor _ _ _ _ c => !scopeBad c
  | .atxch _ _ _ _ c => !scopeBad c
  | .atinc _ _ _ _ c => !scopeBad c
  | .atfadd _ _ _ c => !scopeBad c
  | .atfmin _ _ _ c => !scopeBad c
  | .atfmax _ _ _ c => !scopeBad c
  | .atcas _ _ _ c => !scopeBad c
  | .atcas64 _ _ _ c => !scopeBad c
  | .bar _ _ => true
  | .bara _ _ => true
  | .barw _ => true
  | .waitm _ _ _ _ => true
  | .pref _ _ => true
  | .rget _ _ => true
  | .rput _ => true
  | .rfree _ => true
  | .rtake _ _ => true
  | .invl1 => true
  | .waitf _ => true
  | .ackq _ => true
  | .opinst _ _ _ => true
  | .opfree _ => true
  | .opswap _ => true
  | .opqry _ _ _ => true
  | .opfire _ _ => true
  | .opdrop _ _ => true
  | .opfence => true
  | .opgrant _ _ _ => true
  | .opwait _ _ _ => true
  | .opseq _ => true
  | .tmul _ _ _ _ => true
  | .tmac _ _ _ _ => true
  | .tzero _ _ _ _ => true
  | .tacopy _ _ _ _ => true
  | .taload _ _ _ _ => true
  | .tring _ _ _ _ => true
  | .tsig _ _ _ _ => true
  | .tset _ _ _ _ => true
  | .taddq _ _ _ _ => true
  | .tloop _ _ _ _ => true
  | .tjmp _ _ _ _ => true
  | .twaitc _ _ _ _ => true
  | .tend _ _ _ _ => true
  | .tswap _ _ _ _ => true
  | .cpy _ _ k _ => k != 3
  | .gath _ => true
  | .scat _ => true
  | .cpyw _ => true
  | .shdwBind _ _ => true
  | .shdwFree _ => true
  | .shdwGen _ _ => true
  | .publish _ c => !scopeBad c
  | .shadowFlip => true
  | .coll _ _ => true
  | .collw _ _ => true
  | .mcast _ => true
  | .launch _ _ _ => true
  | .lwait _ _ => true
  | .svc _ _ _ => true
  | .trap _ _ => true
  | .notify _ _ => true
  | .errpop _ _ => true
  | .slotqDirect _ _ _ => true
  | .slotqRoute _ _ _ => true
  | .svcreply _ _ _ => true
  | .rtt => true
  | .tlbinvPage _ _ => true
  | .tlbinvContext _ _ => true
  | .tlbinvVd _ _ => true
  | .tfence c => !scopeBad c
  | .keyload _ _ _ => true
  | .keyrevoke _ _ => true
  | .qosset _ _ _ => true
  | .ctxsave _ _ _ => true
  | .ctxrest _ _ _ => true
  | .ctxkill _ _ _ => true
  | .pgsplit _ _ _ => true
  | .wfi => true
  | .partctlAssign _ _ _ => true
  | .partctlReset _ _ _ => true
  | .partctlStop _ _ _ => true
  | .quadsRetired => true
  | .sleep _ => true
  | .halt => true
  | .himm _ => true
  | .hcls _ _ _ => true
  | .hmod r t _ => !(rndBad r) && t != 3
  | .hintReservedF6 _ _ => true
  | .hintReservedF8 _ _ => true
  | .loadDataArrival => true
  | .storeAck => true
  | .atomicReply => true
  | .waitmReply => true
  | .watchReevaluate => true
  | .homeAccess => true
  | .engineCommandComplete => true
  | .opinstComplete => true
  | .iwStoreArrival => true
  | .owLoadArrival => true
  | .fireStart => true
  | .fireComplete => true
  | .claimLimitExpiry => true
  | .unreadyLimitExpiry => true
  | .opwaitLimitExpiry => true
  | .joinRelease => true
  | .jointoExpiry => true
  | .bartoExpiry => true
  | .vgrowGrant => true
  | .vshrinkFree => true
  | .pageWalkComplete => true
  | .faultRequestPost => true
  | .faultDone => true
  | .logfullWake => true
  | .takeTraps => true
  | .trapRecordAppend => true
  | .tqtailWrite => true
  | .waveSave => true
  | .waittoExpiry => true
  | .preempttoExpiry => true
  | .waveRestore => true
  | .fumaroleEntry => true
  | .fumaroleExit => true
  | .waveEnd => true
  | .blockComplete => true
  | .launchDispatch => true
  | .blockPlace => true
  | .priorityPreempt => true
  | .launchComplete => true
  | .reclaimNotice => true
  | .reclaimtoExpiry => true
  | .coopPark => true
  | .thermalSample => true
  | .voltageDroop => true
  | .clusterSpareTakeover => true
  | .ventFailure => true
  | .collMatch => true
  | .collCombine => true
  | .worldRetire => true
  | .slotStart => true
  | .slotMark => true
  | .calendarLockLoss => true
  | .peerAbsent => true
  | .peerPresent => true
  | .read => true
  | .data => true
  | .write => true
  | .wack => true
  | .atom => true
  | .areply => true
  | .watch => true
  | .wreply => true
  | .bulk => true
  | .back => true
  | .abort => true
  | .dack => true
  | .retry => true
  | .credit => true
  | .idle => true
  | .relayForward => true
  | .wavelengthRetrain => true
  | .wavelengthSpare => true
  | .pcieInboundRead => true
  | .pcieInboundWrite => true
  | .pcieLinkDown => true
  | .pcieAerEvent => true
  | .getVersion => true
  | .getCapabilities => true
  | .negotiateAlgorithms => true
  | .getDigests => true
  | .getCertificate => true
  | .challenge => true
  | .getMeasurements => true
  | .spdmUnsupportedRequest => true
  | .sidebandPackageReset => true
  | .sidebandPartitionReset => true
  | .sidebandOtherMessage => true
  | .packageReset => true
  | .powerStateEntry => true
  | .powerStateExit => true
  | .powerExitComplete => true
  | .wakeatExpiry => true
  | .lattolWrite => true
  | .vtrefWrite => true
  | .qpendWrite => true
  | .qnextRead => true
  | .qdoneWrite => true
  | .uestaWrite => true
  | .gCounterRead => true
  | .clguarWrite => true
  | .rfmlockWrite => true
  | .kcmdGo => true
  | .registerWrite => true
  | .bucketRefill => true
  | .discardedFlit => true
  | .planeRestored => true
  | .memoryScrub => true
  | .powerRemoved => true
  | .pcieLinkUp => true
  | .keyUnitDone => true
  | .operatorCommandArrival => true
  | .tileCommandRetire => true
  | .privilegedCompletion => true

end Sys2Proof
end

