-- ==== Sys2Proof/Machine/State.lean ====
section
/-!
DEFINITION. The state of one KZ-880 package (R23) as plain data, and the state after reset (R409).

Fields are grouped by the level of R23 that holds them. A field marked "model" is the model's own and not the spec's: the agenda of
events due, the agent that moves next, the bundle of the instruction in progress, the counter that free values are applied to, and
the names of outstanding operations. The log entries cited say what the spec leaves open.
-/

namespace Sys2Proof.Machine

/-! ## Events (model) -/

/-- Header fields of a fabric message that its delivery depends on (R355): originating package, destination, sequence number
and the VD of the originating agent. -/
structure MsgHdr where
  src : BitVec 7
  dst : BitVec 7
  seq : BitVec 24
  vd  : BitVec 6
deriving DecidableEq, Repr

/-- What a member's collective command states about the collective (R244), as the other members see it. -/
structure CollParams where
  op    : BitVec 8
  comb  : BitVec 8
  dkind : BitVec 8
  root  : BitVec 8
  count : BitVec 32
  group : BitVec 128
  tag   : BitVec 32
  vd    : BitVec 6
  ctx   : BitVec 4
  /-- The destination of a multicast. -/
  dst   : BitVec 64 := 0
deriving DecidableEq, Repr

/-- A slot mark of a guard interval (R354, R410): the number of the coming slot, the logarithm of the pod size over 8, the
receiving package's id, the presence map, and whether every lit plane brought the same mark. -/
structure SlotMark where
  slot    : BitVec 64
  nlog    : BitVec 3
  pkg     : BitVec 7
  present : BitVec 128
  agree   : Bool
deriving DecidableEq, Repr

/-- The events that start an exit from a power state (R408). -/
inductive WakeEvent where
  /-- A launch posted. -/
  | launch
  /-- An incoming fabric message, in PS1 or PS2. -/
  | fabric
  /-- A root-port wake or inbound request. -/
  | port
  /-- A sideband request. -/
  | sideband
  /-- A NOTIFY or a hardware set of a pending word, in PS3. -/
  | notify
  /-- CYCLE reached WAKEAT. -/
  | wakeAt
  /-- A tolerance lowered under R43. -/
  | tolerance
deriving DecidableEq, Repr

/-- An event due (model): its row of the opcode table, and what it names or carries. Its row's docstring in Sys2Proof/Syntax.lean
names the fields it uses; the others are left at nothing. -/
structure Event where
  row   : Instr
  /-- The accesses, commands, waves, blocks, launches, ports … it concerns, and further numbers. -/
  n     : Nat := 0
  m     : Nat := 0
  k     : Nat := 0
  /-- The value written, or the address named. -/
  val   : Nat := 0
  ok    : Bool := false
  temp  : Int := 0
  bytes : List Byte := []
  wake  : WakeEvent := .launch
  mark  : Option SlotMark := none
  coll  : Option CollParams := none
  /-- The fields of a fabric message (R355, R366). -/
  hdr   : MsgHdr := ⟨0, 0, 0, 0⟩
  entry : Nat := 0
  size  : Nat := 0
  kind  : Nat := 0
  status : Nat := 0
  tag   : Word := 0
  data  : BitVec 512 := 0
  bmask : BitVec 64 := 0
  psn   : BitVec 16 := 0
  seqs  : List Nat := []
deriving DecidableEq, Repr

/-! ## Threads (R24 to R30) -/

/-- A v or k register: 32 bits and the poison bit beside it (R29). -/
structure Reg where
  val : Word
  psn : Bool
deriving DecidableEq, Repr

/-- Privilege levels (R48). -/
inductive Level where
  | u | s | m
deriving DecidableEq, Repr

/-- Trap and report classes (R265). -/
inductive TrapClass where
  | udi | priv | align | page | prot | rdw | krf | poison | opref | opunr | jto | bardl | absent | ecc | swt
deriving DecidableEq, Repr

/-- The code of a class (R265). -/
def TrapClass.code : TrapClass → Nat
  | .udi => 0 | .priv => 1 | .align => 2 | .page => 3 | .prot => 4 | .rdw => 5 | .krf => 6 | .poison => 7 | .opref => 8
  | .opunr => 9 | .jto => 10 | .bardl => 11 | .absent => 12 | .ecc => 13 | .swt => 14

/-- A recorded trap (R270, R272): class, reason, information, the PC it reports and the faulting address. -/
structure Trap where
  cls    : TrapClass
  reason : Nat
  info   : Word
  pc     : DWord
  addr   : DWord
deriving DecidableEq, Repr

/-- What a blocked thread waits for (R24, R279). Where its instruction gives it a result as it wakes, `d` names the register, and `flag` the completion
flag that a COLLW holds (R75); the wake word keeps neither. -/
inductive Wake where
  /-- 0x01: BAR or BARW, until the phase of the barrier completes. -/
  | bar (n : BitVec 4) (phase : Word)
  /-- 0x02: WAITM, until the reply of the watch. -/
  | waitm (acc : Nat)
  /-- 0x03: WAITF, until the masked flags are clear. -/
  | waitf (mask : BitVec 12)
  /-- 0x04: RGET, until the ring has a free slot. -/
  | rget (r : BitVec 3) (d : Option (BitVec 6))
  /-- 0x05: RTAKE, until the ring has a filled slot. -/
  | rtake (r : BitVec 3) (d : Option (BitVec 6))
  /-- 0x08: SVC, until the reply; none until the call record is written. -/
  | svc (call : Option Word)
  /-- 0x09: JOIN. -/
  | join (j : BitVec 3)
  /-- 0x0A: VGROW. -/
  | vgrow (target : Nat)
  /-- 0x0B: LWAIT. -/
  | lwait (id : Word) (d : Option (BitVec 6))
  /-- 0x0C: COLLW. -/
  | collw (num : Word) (d : Option (BitVec 6)) (flag : Nat)
  /-- 0x0D: OPWAIT. -/
  | opwait (cmd : Nat)
  /-- 0x0E with an entry number: a memory instruction reached with accesses of the thread in the operand log (R268). -/
  | log
  /-- 0x0E with 0xF: the operand log is full (R269). -/
  | logfull
  /-- 0x0E with 0xE: a fault at instruction fetch (R416). -/
  | fetch
  /-- WFI (R256). -/
  | wfi
  /-- An instruction that holds its thread until its own effect is complete: ERRPOP, OPGRANT and the privileged instructions
  that write D (R255, R256, R216). -/
  | effect (id : Nat)
deriving DecidableEq, Repr

/-- The condition of a thread (R24). Whether a running thread is ready or waiting is computed from the interlocks. -/
inductive Cond where
  | run
  | blocked (w : Wake)
  | trapped (t : Trap)
  | exited
deriving DecidableEq, Repr

/-- The clause of a thread (R74): the wait mask still to be met, and the flags its long-latency instructions set (12 to 15: none). -/
structure Clause where
  mask : BitVec 12
  fa   : BitVec 4
  fb   : BitVec 4
deriving DecidableEq, Repr

/-- A thread (R25). Flag fn is set while flags[n], the number of outstanding operations attached to it, is not zero (R75); p0 is
constant and not kept. -/
structure Thread where
  pc     : DWord
  v      : Vector Reg 48
  /-- Bit n − 1 is pn. -/
  preds  : BitVec 3
  flags  : Vector Nat 12
  lnk    : DWord
  rgnpc  : DWord
  rgncnt : Word
  fpstat : Word
  errstat : Word
  cond   : Cond
  /-- The store counter of R30. -/
  stores : Nat
  clause : Clause
  /-- The phase of the last arrival on each barrier (R180). -/
  barPhase : Vector (Option Word) 16
  /-- CYCLE at the last change of condition (R275), and the CYCLE at which the watchdog of the JOIN it waits in ends, 0 for none; while
  its wave is saved, the cycles left (R42, R135). -/
  since  : Nat
  limit  : Nat
  /-- The PC that a trap of the instruction it blocks at reports: that of the first prefix (R71). -/
  rep    : DWord := 0
deriving DecidableEq, Repr

/-! ## Waves (R31 to R36, R129) -/

/-- A prefix that awaits its target (R69 to R71): the threads that issued it, the HMOD fields, the HIMM payload, whether the last
word was an HMOD, and the address of the first prefix. -/
structure Pfx where
  mask    : BitVec 32
  rnd     : BitVec 3
  sat     : BitVec 2
  cp      : BitVec 2
  himm    : Option (BitVec 22)
  firstPc : DWord
deriving DecidableEq, Repr

/-- The turn of a wave at a live PC (R129): the followed PC, the instructions left of its quantum, and its tier (R337). -/
structure Turn where
  pc    : DWord
  left  : Nat
  tier1 : Bool
deriving DecidableEq, Repr

/-- A save request (R275, R276): when the forced save is due, whether the taking of traps asks for it, and whether it follows a
reclaim notice (R347). -/
structure SaveReq where
  deadline : Nat
  traps    : Bool
  reclaim  : Bool
  /-- The KIND of the save once its point is reached: the wave has stopped and its stores drain (R276, R277). -/
  kind     : Option Nat
  /-- The lack of room in the save area has been reported (R384). -/
  told     : Bool
  /-- The place of its traps in the order of taking (R271). -/
  order    : Nat
  /-- The wave was stopped for a forced full save (R276, R348). -/
  forced   : Bool := false
deriving DecidableEq, Repr

/-- Runahead-invalid marks of one thread's overlay (R284): v registers, predicates and LNK. -/
structure Marks where
  v     : BitVec 48
  preds : BitVec 3
  lnk   : Bool
  /-- An HCLS that did not wait was reached: every later load is invalid (R76). -/
  hcls  : Bool
  /-- The thread no longer runs ahead (R139: EXIT, an invalid target). -/
  stop  : Bool
deriving DecidableEq, Repr

/-- A fumarole episode (R283 to R286): the checkpoint, the marks of the overlay, the instructions issued, the limit and the load
that started it. -/
structure Episode where
  threads : List Thread
  k       : Vector Reg 15
  marks   : List Marks
  kmarks  : BitVec 15
  issued  : Nat
  limit   : Nat
  load    : Nat
  /-- The prefix that the wave's next issue awaits at the checkpoint (R71). -/
  pfx     : Option Pfx
deriving DecidableEq, Repr

/-- Where a wave is: on a lane, a Vent hardware thread, or saved in an image at a local physical address (R36, R278). -/
inductive Loc where
  | lane (cl core lane : Nat)
  | vent (proc hw : Nat)
  | saved (image : Nat)
  /-- Ended or killed: it holds no granules and no entry (R128, R288). -/
  | gone
deriving DecidableEq, Repr

/-- The role a wave runs (R220); a Vent hardware thread has none. -/
inductive Role where
  | vector | copy | vent
deriving DecidableEq, Repr

/-- A record of a service queue as QNEXT hands it out (R387): VD, ring, slot, its order of posting, and whether tier 1 chose it (R344). -/
structure HeldRec where
  vd   : Nat
  ring : Nat
  slot : Nat
  order : Nat
  tier1 : Bool
deriving DecidableEq, Repr

/-- A block barrier (R180). -/
structure Bar where
  phase  : Word
  count  : Nat
  expect : Nat
  /-- The count register of the phase's first arrival was k15. -/
  all    : Bool
  /-- The CYCLE at which the watchdog of the phase ends, 0 for none (R181). -/
  limit  : Nat
deriving DecidableEq, Repr

/-- A wave (R31). A Vent hardware thread is a wave of one thread (R49). -/
structure Wave where
  /-- The wave number of R201. -/
  id     : Nat
  loc    : Loc
  role   : Role
  /-- The block, by name; 0 for a Vent thread. -/
  block  : Nat
  wid    : Nat
  vd     : Nat
  ctx    : Nat
  threads : List Thread
  k      : Vector Reg 15
  j      : Vector Word 8
  quant  : Word
  rahctl : Word
  /-- Allocated vector registers (R37). -/
  alloc  : Nat
  /-- Target of a pending VGROW, 0 for none, and the age of the request (R137, R138). -/
  vgt    : Nat
  vgAge  : Nat
  /-- Allocation a VSHRINK leaves once no load to a freed register is outstanding, 0 for none (R137). -/
  vshr   : Nat
  /-- Residence order (R31). -/
  age    : Nat
  turn   : Option Turn
  /-- The leader at which the previous turn began (R129). -/
  lastLeader : Option Nat
  /-- CYCLE since which the wave waits for a turn (R337). -/
  waitSince : Nat
  /-- The CYCLE at which the wave, blocked without a break, becomes eligible for a save, 0 for none (R275). -/
  waitLimit : Nat
  pfx    : Option Pfx
  saveReq : Option SaveReq
  episode : Option Episode
  /-- The traps of the wave are taken and its image awaits CTXREST (R270). -/
  trapsTaken : Bool
  /-- Level, bound service queue, VD served and record held, of a Vent thread (R49, R387). -/
  level  : Level
  queue  : Nat
  serves : Nat
  held   : Option HeldRec
  /-- Stopped by HALT or by a trap at M (R256, R257). -/
  halted : Bool
  /-- The barriers of a Vent thread, which is a block of one wave (R180, R293); none on a compute core. -/
  vbars  : List Bar
deriving DecidableEq, Repr

/-! ## Blocks (R182, R221, R222) -/

/-- A ring index: a slot and a phase bit (R182). -/
structure RIdx where
  i  : Nat
  ph : Bool
deriving DecidableEq, Repr

/-- A stage ring (R182). -/
structure Ring where
  n : Nat
  b : Nat
  o : Nat
  free   : Nat
  filled : Nat
  g : RIdx
  u : RIdx
  k : RIdx
  e : RIdx
deriving DecidableEq, Repr

/-- An entry of a tile sequencer's window (R223): its place in dynamic order, the word and its address, and whether it has issued;
an issued command keeps the q operands it read and how far it has got. -/
structure SeqEntry where
  no     : Nat
  word   : Word
  addr   : DWord
  issued : Bool
  qa     : DWord
  qb     : DWord
  prog   : Nat
  /-- The command number of a TACOPY or TSIG (R201). -/
  cmdNo  : Nat
deriving DecidableEq, Repr

/-- A tile sequencer (R222). `next` is the number of the next entry in dynamic order; `hold`: fetch waits for a control transfer. -/
structure Seq where
  pc    : DWord
  q     : Vector DWord 32
  sc    : DWord
  win   : List SeqEntry
  next  : Nat
  hold  : Bool
  ended : Bool
deriving DecidableEq, Repr

/-- The life of a block (R331, R335, R250). -/
inductive BlockSt where
  | resident
  | saving
  | saved
  /-- Saved by CTXSAVE: it awaits CTXREST (R262). -/
  | parked
  /-- Killed by a PAGE or RDW fault of its sequencer, which the service is to repair (R231): the stream word, the address and the class. -/
  | faulted (pc va : DWord) (cls : TrapClass)
  /-- To be placed anew from its launch record (R231). -/
  | relaunch
  | ended (trapped : Bool)
deriving DecidableEq, Repr

/-- A block (R23, R331). Scratch holds (offset, byte) pairs in canonical form over zero; acc holds (row × 1024 + column, element)
pairs in canonical form over +0 with poison clear. -/
structure Block where
  id     : Nat
  launch : Nat
  blkid  : Nat
  vd     : Nat
  ctx    : Nat
  /-- The KeyID of its protected world, 0 for none (R390). -/
  keyid  : Nat
  cl     : Nat
  core   : Nat
  ssize  : Nat
  /-- Where its scratch begins in the core's (R331). -/
  sofs   : Nat := 0
  scratch : List Host.Cell
  /-- The words of the scratch, by offset over 4, under an uncorrectable error (R309). -/
  smarks : List Nat := []
  bars   : List Bar
  rings  : List Ring
  seq    : Option Seq
  arows  : Nat
  acols  : Nat
  acc    : List (Nat × Reg)
  st     : BlockSt
  /-- Possible lock holder (R348). -/
  holder : Bool
  /-- Order in which it was saved (R335) and its block image. -/
  savedNo : Nat
  image  : Nat
  /-- The lack of room for it in the save area has been reported (R384). -/
  told   : Bool := false
deriving DecidableEq, Repr

/-! ## Memory and caches (R307, R414) -/

/-- Memory: (local physical address, byte) pairs, rising, none equal to Config.emptyByte; the 32-bit words under an uncorrectable
error (R414), by address over 4, rising. A line held under a key stands here sealed (R392). -/
structure Memory where
  cells : List Host.Cell
  marks : List Nat
deriving DecidableEq, Repr

/-- What a way of an L2 slice is used for while it is not shared (R311): locked for the operator store, for operators without a key or under one
(R198), or reserved by a protected world (R392). -/
inductive WayUse where
  | store (keyid : Nat)
  | world (keyid : Nat)
deriving DecidableEq, Repr

/-- A line held by an L2 slice, most recently used first in the list (R307, R312): its slice, way and local address over 64, the VD whose access
filled it, whether it is dirty, and whether it is marked first to evict (R167). Its data stand in the memory, which holds what the home holds. -/
structure L2Line where
  slice : Nat
  way   : Nat
  line  : Nat
  vd    : Nat
  dirty : Bool
  first : Bool
deriving DecidableEq, Repr

/-- A clean line of a core's L1 or remote-read path, newest first in the list (R292, R314). -/
structure CLine where
  core  : Nat
  rr    : Bool
  line  : Nat
  keyid : Nat
  data  : BitVec 512
  marks : BitVec 16
  first : Bool
deriving DecidableEq, Repr

/-! ## Translation (R318 to R326) -/

/-- Where a translation is held (R321, R322). -/
inductive TlbPlace where
  | last (lane : Nat)
  | core (core : Nat)
  | cluster (cl : Nat)
deriving DecidableEq, Repr

/-- A translation entry: its tags, the base address and size of its page, the leaf, and whether it is speculative (R285). -/
structure TlbEntry where
  place : TlbPlace
  vd    : Nat
  ctx   : Nat
  base  : Nat
  size  : Nat
  leaf  : DWord
  spec  : Bool
deriving DecidableEq, Repr

/-- A non-leaf entry in a cluster's walker cache (R322): the table entry's physical address and its value. -/
structure WalkEntry where
  cl    : Nat
  vd    : Nat
  ctx   : Nat
  addr  : Nat
  entry : DWord
deriving DecidableEq, Repr

/-- A walk under way for a prefetch (R185, R285). -/
structure Walk where
  id   : Nat
  acc  : Nat
  spec : Bool
deriving DecidableEq, Repr

/-- A fault request (R325): its fields, and where it stands in the fault ring once posted. -/
structure FaultReq where
  seq   : Nat
  kind  : Nat
  cls   : TrapClass
  vd    : Nat
  ctx   : Nat
  va    : DWord
  tag   : Word
  ring  : Option Nat
deriving DecidableEq, Repr

/-! ## Accesses and engine commands (R166, R233) -/

/-- Atomic operations (R177). -/
inductive AtOp where
  | add | sub | mins | minz | maxs | maxz | and | or | xor | xch | inc | fadd | fmin | fmax | cas
deriving DecidableEq, Repr

/-- What an outstanding access is. -/
inductive AccKind where
  /-- LDB to LDQ. -/
  | load
  /-- LDA with its scope code. -/
  | lda (scope : Nat)
  /-- TLD: element index, rounding mode and saturation (R153); TLDH. -/
  | tld (i : Nat) (md : BitVec 2) (sat : Bool)
  | tldh
  /-- STB to STQ, STL, TSTW. -/
  | store
  /-- TSTE: element index, rounding mode and saturation at issue (R158). -/
  | tste (i : Nat) (md : BitVec 2) (sat : Bool)
  /-- An atomic: operation, whether it returns the old value, scope code. -/
  | atomic (op : AtOp) (rt : Bool) (scope : Nat)
  /-- WAITM: condition code. -/
  | watch (cond : Nat)
  | pref
  /-- The read of a descriptor by the thread of a command (R196, R238, R415). -/
  | desc (cmd : Nat)
  /-- A read, write or addition of a command's engine at a home on another package, or of its writes to an operator window here (R234, R235). -/
  | engRead (cmd : Nat)
  | engWrite (cmd : Nat)
  /-- An engine's ATADD.w64: SIG of a collective, the event word of a launch (R244, R250). -/
  | engAtom (cmd : Nat)
deriving DecidableEq, Repr

/-- How far an access has got. -/
inductive AccStage where
  /-- Issued; the next event is its arrival at its home. -/
  | issued
  /-- Performed at its home; the reply is on its way. -/
  | performed
  /-- Completed as refused by an operator window with the reason of R206; the acknowledgement is on its way. -/
  | refused (reason : Nat)
  /-- Completed as failed (R52, R170, R404); the acknowledgement is on its way. -/
  | failed (cls : TrapClass) (info : Nat)
  /-- Held back by an earlier access of its thread to the same bytes that travels in another class (R169, R298). -/
  | held
  /-- In the operand log, under the entry number (R267). -/
  | logged (entry : Nat) (cls : TrapClass)
  /-- Sent over the fabric; the entry of the remote request table (R317). -/
  | remote (entry : Nat)
  /-- A watch registered at the home, or one that found no place there and is evaluated again every microsecond (R179). -/
  | watching
  | polled
  /-- A WAIT-mode load of a slot that is not ready, with its deadline, 0 for none (R211). -/
  | unready (deadline : Nat)
  /-- A store that completed an input vector and waits for the fire (R205). -/
  | firing
  /-- A prefetch whose translation walk is under way. -/
  | walking
deriving DecidableEq, Repr

/-- An outstanding access of a thread (R166, R268). `mask` names the threads whose flag is attached; `data` is the datum of a store
or atomic and then the data the reply carries; `psn` marks the poisoned words of a reply. -/
structure Access where
  id    : Nat
  wave  : Nat
  tid   : Nat
  mask  : BitVec 32
  vd    : Nat
  ctx   : Nat
  /-- The instruction word and the PC a later trap of the access reports. -/
  word  : Word
  pc    : DWord
  kind  : AccKind
  va    : DWord
  pa    : Nat
  keyid : Nat
  size  : Nat
  data  : BitVec 512
  cmp   : BitVec 64
  psn   : BitVec 16
  /-- First destination register and how many (0 for none). -/
  dst   : Nat
  nreg  : Nat
  /-- The flag it holds set in each thread it is attached to (R75). -/
  flags : List (Nat × Nat)
  /-- Cache policy (R167): 1 .ca, 2 .cg, 3 .cs. -/
  cp    : Nat
  core  : Nat
  /-- The fill must not be kept: an invalidation passed while the load was in flight (R172). -/
  nokeep : Bool
  stage : AccStage
  /-- FPSTAT bits the acknowledgement sets (R177) and the reason a reply gives. -/
  fp    : BitVec 5
  /-- Its operand-log entry, until it completes (R267, R268). -/
  entry : Option Nat
  /-- Its writer tag (R201). -/
  wtag  : Word
  /-- The threads a trap of it is raised in (R21, R157). -/
  tmask : BitVec 32
  /-- The access whose request it travels with: its own number, or that of the first of its bundle in its line (R165). -/
  req   : Nat
  /-- Its data came from beyond the L2 slices (R24, R283). -/
  far   : Bool
  /-- The register group each thread gave a logged TSTW (R157, R278). -/
  group : List (Nat × BitVec 128)
  /-- The size of the page it translated through, 0 for none (R258). -/
  page  : Nat := 0
  /-- The block whose command an engine makes it for, 0 for none (R231, R250). -/
  block : Nat := 0
deriving DecidableEq, Repr

/-- The engines of R201 and R233. -/
inductive Engine where
  | copy (cl : Nat)
  | sysCopy
  | shadow
  | coll
  | launch
  | oe
deriving DecidableEq, Repr

/-- What an engine command does. -/
inductive CmdOp where
  | cpy (dkind : Nat) | cpyw | gath | scat | bind | free | publish (scope : Nat) | coll | mcast | launch (queue : Nat)
  /-- A part of another package's multicast (R246), and the event word of a launch (R250). -/
  | mcastIn | evinc (uid : Nat)
  /-- An inbound request of a root port (R403): the port, whether it reads, whether it is posted. -/
  | portIn (port : Nat) (rd posted : Bool)
  | opinst | opfree | opswap | opqry | opfire | opdrop | opgrant | opwait
  /-- A tile command at work: cluster and entry (R223). -/
  | tile (cl entry : Nat)
  /-- ERRPOP and the privileged instructions that complete later (R255, R256). -/
  | errpop | tlbinv (kind : Nat) | tfence | keyload | keyrevoke | ctxsave | ctxrest | ctxkill | pgsplit | partctl (op : Nat)
deriving DecidableEq, Repr

/-- How far an engine command has got. -/
inductive CmdStage where
  | queued
  /-- Waiting for a fault request (R235). -/
  | faulted (va : DWord) (cls : TrapClass) (write : Bool)
  /-- Waiting for messages of peers, fires or limits. -/
  | waiting
deriving DecidableEq, Repr

/-- An engine command of a thread, or another effect that completes later (R233, R235). `a`, `b` are its operands, `bytes` the
descriptor it copied, `dst` the register it writes (64 for none), `prog` the next unit of its work, `status` a failure met so far. -/
structure Cmd where
  id    : Nat
  no    : Nat
  eng   : Engine
  wave  : Nat
  tid   : Nat
  mask  : BitVec 32
  vd    : Nat
  ctx   : Nat
  block : Nat
  core  : Nat
  flags : List (Nat × Nat)
  op    : CmdOp
  a     : DWord
  b     : DWord
  bytes : List Byte
  dst   : Nat
  prog  : Nat
  status : Nat
  deadline : Nat
  stage : CmdStage
  /-- Data read and not yet written, with the poison of their words. -/
  buf   : Option (List Byte × BitVec 16)
  wtag  : Word
  /-- The PC a trap of its descriptor's read reports (R163), and the information and the address of a failure that it has noted (R265, R397). -/
  pc    : DWord := 0
  info  : Word := 0
  bad   : DWord := 0
  /-- The level of the Vent thread that issued it (R233, R381). -/
  level : Level := .u
deriving DecidableEq, Repr

/-- A shadowed range (R56, R241): the frames of its 4 KiB pages in both backings. -/
structure Shadow where
  handle : Nat
  vd    : Nat
  ctx   : Nat
  vbase : Nat
  hbase : Nat
  keyid : Nat
  x     : List Nat
  y     : List Nat
  gen   : Word
deriving DecidableEq, Repr

/-- A collective command on this package (R245, R370): the members whose commands have matched, this package among them once its own
descriptor is accepted; the data at hand as (byte offset, rank, words), a result still to be written under its sender's rank and 1,000; and
the members that have sent BACK, this package among them once its own data are sent. -/
structure Coll where
  /-- Its collective number, 2^32 for a MCAST, and its engine's command number (R201, R245). -/
  num   : Nat
  no    : Nat
  cmd   : Nat
  vd    : Nat
  ctx   : Nat
  tag   : Word
  met   : List (BitVec 7)
  parts : List (Nat × Nat × List Reg)
  acks  : List (BitVec 7)
  /-- What its senders have announced: rank, command number there, bytes in all. -/
  peers : List (Nat × Nat × Nat)
  status : Option Nat
deriving DecidableEq, Repr

/-! ## Operators (R191 to R211) -/

/-- States of an input-window slot (R204). -/
inductive IwSt where
  | empty | claimed | firing | abandoned
deriving DecidableEq, Repr

/-- An input-window slot that is not in its first state. -/
structure IwSlot where
  slot : Nat
  st   : IwSt
  tag  : Word
  vd   : Nat
  deadline : Nat
  bytes : List Byte
  mask  : List Bool
deriving DecidableEq, Repr

/-- An output-window slot that has been written: ready, generation, contents, poison, and the blocks that loads have covered. -/
structure OwSlot where
  slot  : Nat
  ready : Bool
  gen   : Word
  bytes : List Byte
  psn   : Bool
  seen  : List Nat
deriving DecidableEq, Repr

/-- An installed operator (R191 to R199): descriptor snapshot, owner, lead cluster, bound physical 64-byte blocks of its windows, the
active bank (false: A), the blocks of the banks' rows in order with the marks of their bytes (R112, R196), permissions, slots. `old`: a bank swapped
out is still in use by a running computation (R200). -/
structure Operator where
  /-- Name in the model. -/
  uid   : Nat
  handle : Nat
  vd    : Nat
  ctx   : Nat
  lead  : Nat
  desc  : List Byte
  iw    : List Nat
  ow    : List Nat
  bank  : Bool
  bankA : Option (List Byte)
  bankB : Option (List Byte)
  perm  : List Word
  ins   : List IwSlot
  outs  : List OwSlot
  old   : Bool
deriving DecidableEq, Repr

/-- A unit of OE work (R208): a member's part of a fire of a slot of an operator (R209), or a vector of a tile command with its input; `res` is the result
of the whole fire once a part of it runs, one element per output with its poison. `done`: the part is complete and waits for the others; `old`: it
uses a bank that has been swapped out (R200). Input blocks stand with the marks of their bytes (Sys2Proof/Machine/Blocks.lean). -/
structure Fire where
  oe    : Nat
  op    : Nat
  slot  : Nat
  running : Bool
  tile  : Option Nat
  input : List Byte
  res   : List Reg
  done  : Bool := false
  old   : Bool := false
deriving DecidableEq, Repr

/-! ## Launches, services, VDs (R248 to R254, R40, R342, R398) -/

/-- A launch record (R248). -/
structure LaunchRec where
  ventry : DWord
  coff   : Word
  soff   : Word
  evaddr : DWord
  pred0  : Word
  pred1  : Word
  grid   : Nat
  vwaves : Nat
  vthr   : Nat
  cwaves : Nat
  cthr   : Nat
  regs   : Nat
  flags  : BitVec 8
  scratch : Nat
  arows  : Nat
  acols  : Nat
  minres : Nat
  keyh   : Nat
  rings  : List (Nat × Nat)
  kargs  : List Word
  qargs  : List DWord
deriving DecidableEq, Repr

/-- A launch posted and not yet completed (R249, R330). -/
structure Launch where
  /-- Name in the model; `id` is the launch id of its VD. -/
  uid    : Nat
  id     : Word
  vd     : Nat
  queue  : Nat
  ctx    : Nat
  recd   : LaunchRec
  dispatched : Bool
  placed : Nat
  ended  : Nat
  keyid  : Nat
  trapped : Bool
  killed : Bool
  /-- Order in which it was parked (R350), 0 while it is not. -/
  parked : Nat
  /-- The status of a launch that places nothing: FIELD, PREDFAIL or NOFIT (R249, R332, R384); else 0. -/
  status : Nat
  /-- Its event word has been incremented, or cannot be (R250). -/
  evDone : Bool
  /-- The place of its first block among those of other launches (R335), 0 while none has been placed. -/
  order  : Nat := 0
deriving DecidableEq, Repr

/-- An SVC call outstanding (R252). -/
structure Call where
  callid : Word
  wave   : Nat
  tid    : Nat
  dst    : Nat
deriving DecidableEq, Repr

/-- A call ring as hardware sees it (R387): the next slot to post, the unserved slots in order, each with its
place in the order of posting, and the slots held by threads. -/
structure CallRing where
  next   : Nat
  unserved : List (Nat × Nat)
  held   : List Nat
deriving DecidableEq, Repr

/-- An entry of an error ring (R397). -/
structure ErrEntry where
  cls    : TrapClass
  sev    : Nat
  reason : Nat
  part   : Nat
  vd     : Nat
  pkg    : Nat
  phys   : Bool
  dropped : Bool
  tag    : Word
  info   : Word
  addr   : DWord
  time   : DWord
deriving DecidableEq, Repr

/-- A VD's own registers (R40). -/
structure VdCtl where
  preemptto : Word
  jointo : Word
  barto  : Word
  waitto : Word
  optrap : Word
  lattol : Word
  tqhead : Word
  tqtail : Word
deriving DecidableEq, Repr

/-- A VD's error registers (R398) and error ring (R397). -/
structure VdErr where
  uesta : Word
  uemsk : Word
  uesev : Word
  cesta : Word
  cemsk : Word
  errcap : Word
  hdrlog : BitVec 128
  ring  : List ErrEntry
  dropped : Bool
deriving DecidableEq, Repr

/-- A VD's rate registers of one class (R342, R343), with the high words a read of a low word latched. -/
structure Rate where
  rate   : Word
  depth  : Word
  weight : Word
  g1 : DWord
  g2 : DWord
  l1 : Word
  l2 : Word
deriving DecidableEq, Repr

/-- A sealed-key handle of a VD (R389). -/
structure KeyHandle where
  handle : Nat
  keyid  : Nat
  vd     : Nat
  blob   : List Byte
deriving DecidableEq, Repr

/-- A trap record held because the trap queue had no room (R271): its place in the order of trapping, and its bytes. -/
structure TrapRec where
  order : Nat
  bytes : List Byte
deriving DecidableEq, Repr

/-- A virtual device. -/
structure VD where
  ctl   : VdCtl
  err   : VdErr
  rates : Vector Rate 6
  clguar : Word
  reclaimto : Word
  heldTraps : List TrapRec
  /-- The copy of the VD table entry that hardware holds (R385). -/
  entry : Option (List Byte)
  nextLaunch : Word
  /-- Statuses of completed launches, newest first (R250). -/
  statuses : List (Word × Nat)
  calls : List Call
  callSeq : Nat
  rings : Vector CallRing 8
  /-- Fumarole episodes begun and prefetches issued in episodes (R411, PERF). -/
  episodes : DWord
  prefetches : DWord
deriving DecidableEq, Repr

/-! ## Partitions, queues, keys (R379 to R394) -/

/-- A partition descriptor (R380). -/
structure PartDesc where
  quads : BitVec 32
  lpch  : BitVec 16
  vent  : BitVec 16
  pch   : BitVec 256
  vds   : BitVec 64
  netrp : Nat
  storrp : Nat
  sysvd : Nat
  fabsh : Nat
  imglen : Nat
  entry : Nat
  raw   : List Byte
deriving DecidableEq, Repr

/-- A partition (R379, R383). -/
structure Partition where
  desc   : Option PartDesc
  pstate : Nat
  vdtab  : DWord
  fring  : DWord
  fringctl : Word
  netctx : Word
  storctx : Word
  vduse  : DWord
  /-- Index of the next fault-ring entry that hardware writes (R325). -/
  findex : Nat
  /-- Measurement of the image (R395). -/
  digest : BitVec 256
  /-- Quads that leave once their blocks and stripe members are gone, and the command that waits for it (R381). -/
  leaving : BitVec 32
deriving DecidableEq, Repr

/-- A service queue (R386). -/
structure SvcQueue where
  pend : Word
  own  : Word
deriving DecidableEq, Repr

/-- A live protected world (R390): its KeyID, its VD, its two keys and the cores that have run it. -/
structure World where
  keyid : Nat
  vd    : Nat
  dkey  : BitVec 128
  tkey  : BitVec 128
  cores : List Nat
deriving DecidableEq, Repr

/-- The key slots (R389 to R394): handles, live worlds, and, in PS3, the sleep key and the wrapped slots. -/
structure Keys where
  handles : List KeyHandle
  worlds  : List World
  sleepKey : Option (BitVec 128)
  wrapped : List (Nat × Nat × List Byte)
deriving DecidableEq, Repr

/-- A cluster (R310, R333, R345, R347): hot, its droops, being retired, the spares that have taken its number (newest first), its owner, notice given, command
numbers of its copy engine and its sequencer (R201). -/
structure Cluster where
  hot   : Bool
  droops : List Nat
  retiring : Bool
  spares : List Nat
  owner : Option Nat
  notice : Bool
  copyNo : Nat
  seqNo : Nat
deriving DecidableEq, Repr

/-! ## Fabric (R351 to R374) -/

/-- A message of the fabric on its way out or held (R355, R357): its header fields, its route and its payload bytes. -/
structure Msg where
  src  : BitVec 7
  dst  : BitVec 7
  cls  : Nat
  kind : Nat
  hop  : Nat
  via  : BitVec 7
  seq  : BitVec 24
  vd   : Nat
  pay  : List Byte
  /-- Words of a BULK's data that come from a line under an uncorrectable error, which the layout of R357 has no place for (log 17). -/
  psn  : List Nat := []
deriving DecidableEq, Repr

/-- A message on its way to a window (R358, R368): the slot and the plane of the hop it waits for, none while it has no route; whether it is on its
second hop, from the relay reserve; whether it is marked cut-through eligible (R359); the CYCLE since which it waits; its flits already sent. -/
structure Outgoing where
  msg   : Msg
  hop   : Option (Nat × Nat)
  relay : Bool
  elig  : Bool
  since : Nat
  sent  : Nat
deriving DecidableEq, Repr

/-- A flit handed to a plane (model: the port to the other packages): its slot, its plane, the sides it is sent on, and its message with FIDX. -/
structure Sent where
  slot  : Nat
  plane : Nat
  a     : Bool
  b     : Bool
  msg   : Msg
  fidx  : Nat
deriving DecidableEq, Repr

/-- What a plane has sent in the slot in progress (R352): up to which place each side's part of the window is filled, in flits, and whether the plane
has carried a flit. -/
structure PlaneUse where
  plane : Nat
  a     : Nat
  b     : Nat
  busy  : Bool
deriving DecidableEq, Repr

/-- A message held for another package (R359, R360): the slot of its arrival, whether it came less than 0.4 µs before that slot's window closed,
and the place of its first flit in its source's part of the relay reserve. -/
structure Relayed where
  msg   : Msg
  slot  : Nat
  late  : Bool
  place : Nat
deriving DecidableEq, Repr

/-- The wavelengths of one fibre of a plane, transmit or receive (R351, R374): active ones and spares left. Fibres 0 to 3 run to side A, 4 to 7 to
side B. -/
structure Fibre where
  plane : Nat
  fibre : Nat
  tx    : Bool
  active : Nat
  spares : Nat
deriving DecidableEq, Repr

/-- An access of another package that waits at an operator here (R205, R211). -/
structure RemoteWait where
  op    : Nat
  slot  : Nat
  hdr   : MsgHdr
  entry : Nat
  addr  : Nat
  size  : Nat
  deadline : Nat
deriving DecidableEq, Repr

/-- A watch of another package at a home here (R179): its header and entry, address, condition and comparand, and whether it has a place. -/
structure RemoteWatch where
  hdr   : MsgHdr
  entry : Nat
  addr  : Nat
  cond  : Nat
  cmp   : Word
  placed : Bool
  /-- The thread of its request whose watch it is (R165). -/
  nth   : Nat := 0
deriving DecidableEq, Repr

/-- The fabric end of the package. Sequence numbers are kept by (peer, class); a peer or fibre not listed has its first values. -/
structure Fabric where
  slotnow : DWord
  /-- CYCLE at which the slot in progress began. -/
  slotAt  : Nat
  locked  : Bool
  mark    : Option SlotMark
  /-- The maps of the last two guard intervals agree on bit q where `lastMap` and `present` decide (R372). -/
  lastMap : BitVec 128
  present : BitVec 128
  nlog    : Nat
  pkg     : Nat
  /-- PODCFG has been set by a lock (R410). -/
  podcfg  : Bool
  missed  : Nat
  sent    : List ((BitVec 7 × Nat) × Nat)
  expect  : List ((BitVec 7 × Nat) × Nat)
  /-- Messages held, by class, until a gap before them is filled (R362); under 2, those of collectives whose command is not posted (R369). -/
  held    : List (Nat × Event)
  /-- C2 messages delivered beyond the next expected one; SEQ values to acknowledge and to ask for again, by (peer, class) (R362, R364, R365). -/
  seen    : List (BitVec 7 × Nat)
  acks    : List ((BitVec 7 × Nat) × Nat)
  retries : List ((BitVec 7 × Nat) × Nat)
  unacked : List Msg
  /-- Flits of relay reserve spent at each relay (R360). -/
  spent   : List (BitVec 7 × Nat)
  /-- Flits of the relay reserve sent on here, to give back to each source (R360). -/
  owed    : List (BitVec 7 × Nat)
  relayed : List Relayed
  down    : BitVec 8
  fibres  : List Fibre
  /-- Wavelengths whose retraining has failed: plane, fibre, transmit, and the slot in whose guard interval a spare replaces them (R374). -/
  sparing : List (Nat × Nat × Bool × Nat)
  /-- Messages that wait for room under the limits of R362 and R365; those that wait for their window; and what the planes have sent in this slot. -/
  waiting : List Msg
  queue   : List Outgoing
  uses    : List PlaneUse
  /-- Flits handed to the planes, oldest first (model: the port to the other packages). -/
  outbox  : List Sent
  /-- Flits received whose message is not whole yet (R352, R355). -/
  flits   : List (List Byte)
  /-- Stores of other packages that wait for a fire, and loads of other packages that wait for a slot (R205, R211). -/
  firing  : List RemoteWait
  unready : List RemoteWait
  /-- Watches of other packages at homes here (R179, R373). -/
  watches : List RemoteWatch
  /-- Bytes performed for incoming bulk commands by (peer, command) (R364). -/
  bulk    : List ((BitVec 7 × Word) × Nat)
deriving DecidableEq, Repr

/-! ## Management, ports, power (R401 to R413) -/

/-- The vectors and frames of a Vent processor (R411, VENTV). -/
structure VentV where
  svec   : DWord
  mvec   : DWord
  sframe : DWord
  mframe : DWord
deriving DecidableEq, Repr

/-- The management registers (R411). -/
structure Mgmt where
  maxps  : Nat
  wakeat : DWord
  ptol   : Vector Word 8
  rfmlock : Bool
  rfm    : Vector (DWord × DWord) 64
  ventv  : Vector VentV 16
  ksrc   : DWord
  kdst   : DWord
  kstat  : Nat
  kbind  : Nat
  keyrdy : Bool
  mlogbase : DWord
  mlogsize : Word
  mloghead : Word
  mlogtail : Word
  mlogdrop : Bool
  /-- Vent processors that have failed (R388). -/
  failed : BitVec 16
deriving DecidableEq, Repr

/-- Ports, power and the sideband. -/
structure Platform where
  /-- Root ports whose link is up (R404). -/
  up     : BitVec 16
  pscur  : Nat
  /-- An exit under way ends at this CYCLE (R408). -/
  exitAt : Option Nat
  /-- Power has been removed (PS4, R406). -/
  off    : Bool
  /-- Requests to root ports: port, kind (0 read, 1 write, 2 completion, 3 unsupported request), address, bytes. -/
  portOut : List (Nat × Nat × Nat × List Byte)
  /-- Answers of the sideband port. -/
  sbOut  : List (List Byte)
deriving DecidableEq, Repr

/-- A request that waits at a memory controller (R339, R340): class, instance, VD, line, the CYCLE since which it waits, and the event that goes on
once it is granted. -/
structure MemReq where
  cls   : Nat
  inst  : Nat
  vd    : Nat
  line  : Nat
  since : Nat
  ev    : Event
deriving DecidableEq, Repr

/-- Arbiter state of R340: levels by (class, instance, VD), in 1/1,024 token, and tier-2 pointers by (class, instance) with the
grants left; what is not listed is 0. -/
structure Arbiters where
  levels : List ((Nat × Nat × Nat) × Int)
  ptrs   : List ((Nat × Nat) × (Nat × Nat))
  /-- CYCLE up to which the buckets of each class are refilled. -/
  filled : Vector Nat 6
  /-- Requests at the memory controllers; when each controller is free again, by (class, instance), in 1/25 cycle; the (VD, line) of requests that
  have been granted and are not performed yet. -/
  queue  : List MemReq
  next   : List ((Nat × Nat) × Nat)
  granted : List (Nat × Nat)
deriving DecidableEq, Repr

/-! ## The machine -/

/-- Which agent a step issues from (model): a wave by number, or the tile sequencer of a cluster. -/
inductive Agent where
  | wave (id : Nat)
  | seq (cl : Nat)
deriving DecidableEq, Repr

/-- The instruction in progress (model): the wave and the active threads of its bundle (R32), the effective S bits, the prefixes it
issues with, the word, the PC of the word and the PC a trap reports (R71); for a tile command, the cluster and the entry. -/
structure Issue where
  wave  : Nat
  mask  : BitVec 32
  s     : BitVec 2
  rnd   : BitVec 3
  sat   : BitVec 2
  cp    : BitVec 2
  himm  : Option (BitVec 22)
  word  : Word
  pc    : DWord
  repPc : DWord
  cl    : Nat
  entry : Nat
deriving DecidableEq, Repr

/-- One package of a pod. -/
structure State where
  waves   : List Wave
  blocks  : List Block
  launches : List Launch
  mem     : Memory
  caches  : List CLine
  /-- The L2 slices: their lines, the ways that are not shared by (slice, way), the pinned lines by the command that pins them (R313), and the
  slices that refused a world's reservation by KeyID (R392). -/
  l2      : List L2Line
  ways    : List ((Nat × Nat) × WayUse)
  pins    : List (Nat × Nat)
  refusals : List (Nat × Nat)
  /-- Lines that the system cache holds, newest first (R310). -/
  sysCache : List Nat
  /-- Lines whose copy in the memory devices is under an uncorrectable error that has not reached the home slice yet (R309, R414). -/
  badLines : List Nat
  tlb     : List TlbEntry
  wcache  : List WalkEntry
  walks   : List Walk
  faults  : List FaultReq
  faultSeq : Nat
  accs    : List Access
  cmds    : List Cmd
  shadows : List Shadow
  colls   : List Coll
  /-- Command number of the collective engine (R201), and collectives issued (R245). -/
  collNo  : Nat
  collCount : Nat
  /-- Command number of the system copy engine (R201). -/
  sysNo   : Nat
  /-- TAGs marked by an ABORT that came before the member's command (R289): VD, context, TAG. -/
  aborts  : List (Nat × Nat × Word)
  ops     : List Operator
  /-- Operators freed whose fires still run: the ways of their store stay locked (R198, R199). -/
  freed   : List Operator
  fires   : List Fire
  vds     : Vector VD 64
  parts   : Vector Partition 8
  queues  : Vector SvcQueue 256
  keys    : Keys
  clusters : Vector Cluster 128
  arb     : Arbiters
  fab     : Fabric
  mgmt    : Mgmt
  plat    : Platform
  /-- CYCLE (R46). -/
  cycle   : Nat
  /-- model: the events due, first first; who issues next; the instruction in progress; names and free values used so far. -/
  agenda  : List Event
  /-- The event in progress. -/
  ev      : Event
  sel     : Agent
  issue   : Issue
  nextId  : Nat
  freeCtr : Nat
deriving DecidableEq, Repr

/-- Reasons for the machine to stop. -/
inductive Fault where
  /-- Raised by step while power is removed (PS4, R406): nothing runs until a package reset is due. Safe. -/
  | powerOff
deriving DecidableEq, Repr

/-- Reasons for an operation to be refused. -/
inductive Refusal where
  /-- Raised by exec for an operation that has no meaning in the model yet. Safe. -/
  | notModelled (mnemonic : String)
deriving DecidableEq, Repr

/-! ## Values at launch and at reset -/

/-- A register at launch: 0, poison clear (R25). -/
def Reg.zero : Reg := ⟨0, false⟩

/-- A thread at launch (R25, R74, R180), at an entry address. -/
def Thread.init (entry : DWord) : Thread :=
  { pc := entry, v := Vector.replicate 48 Reg.zero, preds := 0, flags := Vector.replicate 12 0, lnk := 0, rgnpc := entry,
    rgncnt := 0, fpstat := 0, errstat := 0, cond := .run, stores := 0, clause := ⟨0, 15, 15⟩,
    barPhase := Vector.replicate 16 none, since := 0, limit := 0 }

/-- A Vent hardware thread that starts at a level and an address (R49, R381, R409). Its registers start as at launch, and its bound
queue is 0: the spec states neither (DESIGN CHOICE, logs 7 and 13). -/
def Wave.vent (id proc hw : Nat) (lv : Level) (pc : DWord) (vd : Nat) : Wave :=
  { id := id, loc := .vent proc hw, role := .vent, block := 0, wid := 0, vd := vd, ctx := 0, threads := [Thread.init pc],
    k := Vector.replicate 15 Reg.zero, j := Vector.replicate 8 0, quant := 0x40, rahctl := 0x020007D0, alloc := 48, vgt := 0,
    vgAge := 0, vshr := 0, age := 0, turn := none, lastLeader := none, waitSince := 0, waitLimit := 0, pfx := none, saveReq := none, episode := none,
    trapsTaken := false, level := lv, queue := 0, serves := vd, held := none, halted := false,
    vbars := List.replicate 16 ⟨0, 0, 0, false, 0⟩ }

/-- The wave number of a Vent hardware thread: above those of compute waves (log 13). -/
def ventId (proc hw : Nat) : Nat := 0x70000 + 64 * proc + hw

/-- Rate registers at partition reset (R342). -/
def Rate.reset : Rate := ⟨0, 0, 1, 0, 0, 0, 0⟩

/-- A VD's registers at reset (R40, R342, R346, R398). -/
def VD.reset : VD :=
  { ctl := ⟨0x14, 0x2710, 0x2710, 0x64, 0, 0, 0, 0⟩, err := ⟨0, 0, 0x2000, 0, 0xF, 0, 0, [], false⟩,
    rates := Vector.replicate 6 Rate.reset, clguar := 0, reclaimto := 0x32, heldTraps := [],
    entry := none, nextLaunch := 0, statuses := [], calls := [], callSeq := 0, rings := Vector.replicate 8 ⟨0, [], []⟩,
    episodes := 0, prefetches := 0 }

/-- An unassigned partition (R383). -/
def Partition.reset : Partition := ⟨none, 0, 0, 0, 0, 0, 0, 0, 0, 0, 0⟩

/-- No instruction in progress (model). -/
def Issue.none : Issue := ⟨0, 0, 0, 0, 0, 0, Option.none, 0, 0, 0, 0, 0⟩

/-- The fabric end at reset: no lock, so SLOTNOW reads all ones (R46, R410). -/
def Fabric.reset : Fabric :=
  { slotnow := 0xFFFFFFFFFFFFFFFF, slotAt := 0, locked := false, mark := none, lastMap := 0, present := 0, nlog := 0, pkg := 0, podcfg := false,
    missed := 0, sent := [], expect := [], held := [], seen := [], acks := [], retries := [], unacked := [], spent := [], owed := [], relayed := [], down := 0, fibres := [],
    sparing := [], waiting := [], queue := [], uses := [], outbox := [], flits := [], firing := [], unready := [], watches := [], bulk := [] }

/-- The management registers at reset (R411). -/
def Mgmt.reset : Mgmt :=
  { maxps := 0, wakeat := 0, ptol := Vector.replicate 8 0, rfmlock := false, rfm := Vector.replicate 64 (0, 0),
    ventv := Vector.replicate 16 ⟨0, 0, 0, 0⟩, ksrc := 0, kdst := 0, kstat := 0, kbind := 0, keyrdy := false, mlogbase := 0,
    mlogsize := 0, mloghead := 0, mlogtail := 0, mlogdrop := false, failed := 0 }

/-- The package right after reset (R409 step 1): every register at its reset value, memory with nothing listed, CYCLE 0, and the
boot thread, Vent processor 0 hardware thread 0, at M in the boot ROM. Root-port links start down (DESIGN CHOICE, log 20). -/
def State.reset : State :=
  { waves := [Wave.vent (ventId 0 0) 0 0 .m (BitVec.ofNat 64 Config.bootPc) 0], blocks := [], launches := [], mem := ⟨[], []⟩,
    caches := [], l2 := [], ways := [], pins := [], refusals := [], sysCache := [], badLines := [], tlb := [], wcache := [], walks := [], faults := [], faultSeq := 0, accs := [], cmds := [], shadows := [],
    colls := [], collNo := 0, collCount := 0, sysNo := 0, aborts := [], ops := [], freed := [], fires := [], vds := Vector.replicate 64 VD.reset,
    parts := Vector.replicate 8 Partition.reset, queues := Vector.replicate 256 ⟨0, 0⟩, keys := ⟨[], [], none, []⟩,
    clusters := Vector.replicate 128 ⟨false, [], false, [], none, false, 0, 0⟩, arb := ⟨[], [], Vector.replicate 6 0, [], [], []⟩, fab := Fabric.reset,
    mgmt := Mgmt.reset, plat := ⟨0, 0, none, false, [], []⟩, cycle := 0, agenda := [], ev := ⟨.slotStart, 0, 0, 0, 0, false, 0, [], .launch, none, none, ⟨0, 0, 0, 0⟩, 0, 0, 0, 0, 0, 0, 0, 0, []⟩, sel := .wave (ventId 0 0),
    issue := Issue.none, nextId := 1, freeCtr := 0 }

end Sys2Proof.Machine
end

