-- ==== Sys2Proof/Machine/Mem.lean ====
section
/-!
DEFINITION. Sparse maps in one canonical form, bytes and little-endian values (R22), local memory with the marks of uncorrectable
errors (R414), and the local address map (R53).
-/

namespace Sys2Proof.Machine

/-! ## Sparse maps: (key, value) pairs, keys rising, no value equal to the default -/

/-- The value at a key; the default where it is not listed. -/
def sget {α : Type} (d : α) : List (Nat × α) → Nat → α
  | [], _ => d
  | (k, x) :: t, a => if a = k then x else sget d t a

/-- The map with a value stored at a key; the default value is not listed. -/
def sput {α : Type} [DecidableEq α] (d : α) : List (Nat × α) → Nat → α → List (Nat × α)
  | [], a, y => if y = d then [] else [(a, y)]
  | (k, x) :: t, a, y =>
    if a < k then (if y = d then (k, x) :: t else (a, y) :: (k, x) :: t)
    else if a = k then (if y = d then t else (a, y) :: t)
    else (k, x) :: sput d t a y

/-- Keys all above a bound and rising, and no value equal to the default. -/
def swfFrom {α : Type} [DecidableEq α] (d : α) : Option Nat → List (Nat × α) → Bool
  | _, [] => true
  | lo, (k, x) :: t => (match lo with | none => true | some l => decide (l < k)) && decide (x ≠ d) && swfFrom d (some k) t

/-- The canonical form of a sparse map. -/
def swf {α : Type} [DecidableEq α] (d : α) (m : List (Nat × α)) : Bool := swfFrom d none m

/-- A number put in a rising list, once. -/
def insertRising (x : Nat) : List Nat → List Nat
  | [] => [x]
  | y :: t => if x < y then x :: y :: t else if x = y then y :: t else y :: insertRising x t

/-! ## Little-endian values -/

/-- The number whose bytes stand in address order, the least significant first (R22). -/
def leVal : List Byte → Nat
  | [] => 0
  | b :: t => b.toNat + 256 * leVal t

/-- The n bytes of a number in address order. -/
def leBytes : Nat → Nat → List Byte
  | 0, _ => []
  | n + 1, x => BitVec.ofNat 8 x :: leBytes n (x / 256)

/-- The little-endian field of n bytes at an offset of a record. -/
def field (bs : List Byte) (off n : Nat) : Nat := leVal ((bs.drop off).take n)

/-- n zero bytes. -/
def zeros (n : Nat) : List Byte := List.replicate n 0

/-! ## Local memory -/

/-- One byte of local memory. -/
def Memory.byte (m : Memory) (a : Nat) : Byte := sget Config.emptyByte m.cells a

/-- n bytes of local memory from an address. -/
def Memory.bytes (m : Memory) (a : Nat) : Nat → List Byte
  | 0 => []
  | n + 1 => m.byte a :: Memory.bytes m (a + 1) n

/-- Bytes stored one after another, with no effect on marks. -/
def Memory.poke (m : Memory) (a : Nat) : List Byte → Memory
  | [] => m
  | b :: t => Memory.poke { m with cells := sput Config.emptyByte m.cells a b } (a + 1) t

/-- A store of bytes: the marks of the words it writes whole are cleared (R414). -/
def Memory.store (m : Memory) (a : Nat) (bs : List Byte) : Memory :=
  let m' := m.poke a bs
  { m' with marks := m'.marks.filter fun w => !(decide (a ≤ 4 * w) && decide (4 * w + 4 ≤ a + bs.length)) }

/-- A store of the bytes that are given, one after another from an address; a word all of whose bytes are given loses its mark. -/
def Memory.storeMasked (m : Memory) (a : Nat) : List (Option Byte) → Memory
  | some b0 :: some b1 :: some b2 :: some b3 :: t =>
    if a % 4 = 0 then Memory.storeMasked (m.store a [b0, b1, b2, b3]) (a + 4) t
    else Memory.storeMasked (m.poke a [b0]) (a + 1) (some b1 :: some b2 :: some b3 :: t)
  | some b :: t => Memory.storeMasked (m.poke a [b]) (a + 1) t
  | none :: t => Memory.storeMasked m (a + 1) t
  | [] => m

/-- Whether the word that holds an address is marked as poisoned at its home. -/
def Memory.marked (m : Memory) (a : Nat) : Bool := m.marks.contains (a / 4)

/-- The poison of the words of n bytes at an address, bit i for the i-th word (R111). -/
def Memory.poison (m : Memory) (a n : Nat) : BitVec 16 :=
  (List.range ((n + 3) / 4)).foldl (fun acc i => if m.marked (a + 4 * i) then acc ||| (1#16 <<< i) else acc) 0

/-- A number of n bytes in local memory. -/
def Memory.val (m : Memory) (a n : Nat) : Nat := leVal (m.bytes a n)

/-- The canonical form of memory. -/
def Memory.wf (m : Memory) : Bool := swf Config.emptyByte m.cells

/-! ## The local address map (R53) -/

/-- The ranges of R53. -/
inductive Region where
  | hbm | relay | lpddr | unassigned | port (n : Nat) | device
deriving DecidableEq, Repr

/-- The range a local address lies in (R53). -/
def regionOf (a : Nat) : Region :=
  if a < 0x7FC0000000 then .hbm
  else if a < 0x8000000000 then .relay
  else if a < 0x20000000000 then .unassigned
  else if a < 0x40000000000 then .lpddr
  else if a < 0x100000000000 then .unassigned
  else if a < 0x180000000000 then .port ((a - 0x100000000000) / 0x8000000000)
  else if a < 0x1F0000000000 then .unassigned
  else .device

/-- Memory of the package that pages may map: HBM4E or LPDDR-6. -/
def isMemory (a : Nat) : Bool := regionOf a = .hbm || regionOf a = .lpddr

/-- The package and the local address of a pod physical address (R52). -/
def pkgOf (pa : Nat) : Nat := pa / 2 ^ 45 % 128
def localOf (pa : Nat) : Nat := pa % 2 ^ 45

/-- Exclusive or of the n-bit fields of a number. -/
def xorFields (n : Nat) : Nat → Nat → Nat
  | 0, _ => 0
  | f + 1, x => (x % 2 ^ n) ^^^ xorFields n f (x / 2 ^ n)

/-- The home slice of a byte of HBM4E or LPDDR-6 (R310). -/
def homeSlice (a : Nat) : Nat :=
  if regionOf a = .lpddr then
    let b := a - 0x20000000000
    8 * (b / 2 ^ 37 % 16) + xorFields 3 4 (b / 64 % 2 ^ 12)
  else 16 * (a / 2 ^ 36 % 8) + xorFields 4 7 (a % 2 ^ 36 / 64 % 2 ^ 28)

end Sys2Proof.Machine
end

