-- ==== Sys2Proof/Machine/Crypto.lean ====
section
/-!
DEFINITION. The cipher and digest that the spec names by their standards: SM4 (GB/T 32907), its XTS mode (R392), the key-wrap mode of
NIST SP 800-38F (R389) and SM3 (GB/T 32905, R395). Their tables and steps are those of the published standards (PRESUMED: log 10).
-/

namespace Sys2Proof.Machine

/-- The S-box of SM4, sixteen bytes a row. -/
def sm4Box : List Nat :=
  [0xd6,0x90,0xe9,0xfe,0xcc,0xe1,0x3d,0xb7,0x16,0xb6,0x14,0xc2,0x28,0xfb,0x2c,0x05] ++
  [0x2b,0x67,0x9a,0x76,0x2a,0xbe,0x04,0xc3,0xaa,0x44,0x13,0x26,0x49,0x86,0x06,0x99] ++
  [0x9c,0x42,0x50,0xf4,0x91,0xef,0x98,0x7a,0x33,0x54,0x0b,0x43,0xed,0xcf,0xac,0x62] ++
  [0xe4,0xb3,0x1c,0xa9,0xc9,0x08,0xe8,0x95,0x80,0xdf,0x94,0xfa,0x75,0x8f,0x3f,0xa6] ++
  [0x47,0x07,0xa7,0xfc,0xf3,0x73,0x17,0xba,0x83,0x59,0x3c,0x19,0xe6,0x85,0x4f,0xa8] ++
  [0x68,0x6b,0x81,0xb2,0x71,0x64,0xda,0x8b,0xf8,0xeb,0x0f,0x4b,0x70,0x56,0x9d,0x35] ++
  [0x1e,0x24,0x0e,0x5e,0x63,0x58,0xd1,0xa2,0x25,0x22,0x7c,0x3b,0x01,0x21,0x78,0x87] ++
  [0xd4,0x00,0x46,0x57,0x9f,0xd3,0x27,0x52,0x4c,0x36,0x02,0xe7,0xa0,0xc4,0xc8,0x9e] ++
  [0xea,0xbf,0x8a,0xd2,0x40,0xc7,0x38,0xb5,0xa3,0xf7,0xf2,0xce,0xf9,0x61,0x15,0xa1] ++
  [0xe0,0xae,0x5d,0xa4,0x9b,0x34,0x1a,0x55,0xad,0x93,0x32,0x30,0xf5,0x8c,0xb1,0xe3] ++
  [0x1d,0xf6,0xe2,0x2e,0x82,0x66,0xca,0x60,0xc0,0x29,0x23,0xab,0x0d,0x53,0x4e,0x6f] ++
  [0xd5,0xdb,0x37,0x45,0xde,0xfd,0x8e,0x2f,0x03,0xff,0x6a,0x72,0x6d,0x6c,0x5b,0x51] ++
  [0x8d,0x1b,0xaf,0x92,0xbb,0xdd,0xbc,0x7f,0x11,0xd9,0x5c,0x41,0x1f,0x10,0x5a,0xd8] ++
  [0x0a,0xc1,0x31,0x88,0xa5,0xcd,0x7b,0xbd,0x2d,0x74,0xd0,0x12,0xb8,0xe5,0xb4,0xb0] ++
  [0x89,0x69,0x97,0x4a,0x0c,0x96,0x77,0x7e,0x65,0xb9,0xf1,0x09,0xc5,0x6e,0xc6,0x84] ++
  [0x18,0xf0,0x7d,0xec,0x3a,0xdc,0x4d,0x20,0x79,0xee,0x5f,0x3e,0xd7,0xcb,0x39,0x48]

/-- The S-box on each byte of a word. -/
def sm4Tau (x : Word) : Word :=
  let f (k : Nat) : Nat := sm4Box.getD (x.toNat / 256 ^ k % 256) 0 * 256 ^ k
  BitVec.ofNat 32 (f 0 + f 1 + f 2 + f 3)

/-- The linear maps of the rounds and of the key schedule. -/
def sm4L (b : Word) : Word := b ^^^ b.rotateLeft 2 ^^^ b.rotateLeft 10 ^^^ b.rotateLeft 18 ^^^ b.rotateLeft 24
def sm4LKey (b : Word) : Word := b ^^^ b.rotateLeft 13 ^^^ b.rotateLeft 23

/-- The constant of round i: byte j is 7 × (4i + j). -/
def sm4Ck (i : Nat) : Word :=
  BitVec.ofNat 32 ((28 * i % 256) * 2 ^ 24 + ((28 * i + 7) % 256) * 2 ^ 16 + ((28 * i + 14) % 256) * 2 ^ 8 + (28 * i + 21) % 256)

/-- The 32-bit words of a 128-bit block, most significant first. -/
def words4 (x : BitVec 128) : Word × Word × Word × Word :=
  (x.extractLsb' 96 32, x.extractLsb' 64 32, x.extractLsb' 32 32, x.extractLsb' 0 32)

/-- n round keys from round i on. -/
def sm4Keys : Nat → Nat → Word × Word × Word × Word → List Word
  | 0, _, _ => []
  | n + 1, i, (a, b, c, d) =>
    let k := a ^^^ sm4LKey (sm4Tau (b ^^^ c ^^^ d ^^^ sm4Ck i))
    k :: sm4Keys n (i + 1) (b, c, d, k)

/-- The round keys of a key. -/
def sm4Schedule (key : BitVec 128) : List Word :=
  let (a, b, c, d) := words4 key
  sm4Keys 32 0 (a ^^^ 0xA3B1BAC6, b ^^^ 0x56AA3350, c ^^^ 0x677D9197, d ^^^ 0xB27022DC)

/-- The rounds over a list of round keys, and the final reversal. -/
def sm4Rounds : List Word → Word × Word × Word × Word → BitVec 128
  | [], (a, b, c, d) => d ++ c ++ b ++ a
  | k :: ks, (a, b, c, d) => sm4Rounds ks (b, c, d, a ^^^ sm4L (sm4Tau (b ^^^ c ^^^ d ^^^ k)))

/-- SM4 on one block. -/
def sm4Enc (key x : BitVec 128) : BitVec 128 := sm4Rounds (sm4Schedule key) (words4 x)
def sm4Dec (key x : BitVec 128) : BitVec 128 := sm4Rounds (sm4Schedule key).reverse (words4 x)

/-- A 16-byte block of memory as a 128-bit value, the first byte most significant, and back. -/
def blockOf (bs : List Byte) : BitVec 128 := BitVec.ofNat 128 (leVal (bs.take 16).reverse)
def ofBlock (x : BitVec 128) : List Byte := (leBytes 16 x.toNat).reverse

/-- The next tweak: multiplication by the generator of the field of XTS, on the little-endian value. -/
def xtsNext (t : Nat) : Nat := (if 2 ^ 127 ≤ t then (2 * t) ^^^ 0x87 else 2 * t) % 2 ^ 128

/-- n blocks of one XTS data unit under a block function, from a tweak value. -/
def xtsBlocks (f : BitVec 128 → BitVec 128) : Nat → Nat → List Byte → List Byte
  | 0, _, _ => []
  | n + 1, t, bs =>
    let tb := blockOf (leBytes 16 t)
    ofBlock (f (blockOf bs ^^^ tb) ^^^ tb) ++ xtsBlocks f n (xtsNext t) (bs.drop 16)

/-- The tweak of a line: bits [51:6] of its pod physical address in place (R392), enciphered under the tweak key. -/
def lineTweak (tkey : BitVec 128) (pa : Nat) : Nat :=
  leVal (ofBlock (sm4Enc tkey (blockOf (leBytes 16 (pa / 64 * 64)))))

/-- A 64-byte line sealed and unsealed (R392). -/
def sealLine (w : World) (pa : Nat) (bs : List Byte) : List Byte := xtsBlocks (sm4Enc w.dkey) 4 (lineTweak w.tkey pa) bs
def unsealLine (w : World) (pa : Nat) (bs : List Byte) : List Byte := xtsBlocks (sm4Dec w.dkey) 4 (lineTweak w.tkey pa) bs

/-- One pass of the key wrap over semiblocks R1 to Rn, counting from t. -/
def kwPass (key : BitVec 128) : Nat → BitVec 64 → List (BitVec 64) → BitVec 64 × List (BitVec 64)
  | _, a, [] => (a, [])
  | t, a, r :: rs =>
    let b := sm4Enc key (a ++ r)
    let (a', rs') := kwPass key (t + 1) (b.extractLsb' 64 64 ^^^ BitVec.ofNat 64 t) rs
    (a', b.extractLsb' 0 64 :: rs')

/-- One pass of the unwrap, over the semiblocks in reverse order, counting down from t. -/
def kwBack (key : BitVec 128) : Nat → BitVec 64 → List (BitVec 64) → BitVec 64 × List (BitVec 64)
  | _, a, [] => (a, [])
  | t, a, r :: rs =>
    let b := sm4Dec key ((a ^^^ BitVec.ofNat 64 t) ++ r)
    let (a', rs') := kwBack key (t - 1) (b.extractLsb' 64 64) rs
    (a', b.extractLsb' 0 64 :: rs')

/-- Six passes of the wrap. -/
def kwWrapN (key : BitVec 128) (n : Nat) : Nat → Nat → BitVec 64 → List (BitVec 64) → BitVec 64 × List (BitVec 64)
  | 0, _, a, rs => (a, rs)
  | k + 1, t, a, rs => let (a', rs') := kwPass key t a rs; kwWrapN key n k (t + n) a' rs'

def kwUnwrapN (key : BitVec 128) (n : Nat) : Nat → Nat → BitVec 64 → List (BitVec 64) → BitVec 64 × List (BitVec 64)
  | 0, _, a, rs => (a, rs)
  | k + 1, t, a, rs => let (a', rs') := kwBack key t a rs; kwUnwrapN key n k (t - n) a' rs'

/-- n big-endian semiblocks of a byte list, and back. -/
def semis : Nat → List Byte → List (BitVec 64)
  | 0, _ => []
  | n + 1, bs => BitVec.ofNat 64 (leVal (bs.take 8).reverse) :: semis n (bs.drop 8)
def unsemis (rs : List (BitVec 64)) : List Byte := rs.flatMap fun r => (leBytes 8 r.toNat).reverse

/-- 32 bytes of keys wrapped into 40 (R389), and back; none when the integrity check fails. -/
def keyWrap (key : BitVec 128) (bs : List Byte) : List Byte :=
  let (a, rs) := kwWrapN key 4 6 1 0xA6A6A6A6A6A6A6A6 (semis 4 bs)
  unsemis (a :: rs)
def keyUnwrap (key : BitVec 128) (bs : List Byte) : Option (List Byte) :=
  let (a, rs) := kwUnwrapN key 4 6 24 (BitVec.ofNat 64 (leVal (bs.take 8).reverse)) (semis 4 (bs.drop 8)).reverse
  if a = 0xA6A6A6A6A6A6A6A6 then some (unsemis rs.reverse) else none

/-! ## SM3 -/

/-- The state words of SM3. -/
structure Sm3 where
  a : Word
  b : Word
  c : Word
  d : Word
  e : Word
  f : Word
  g : Word
  h : Word

/-- Message expansion: n further words appended to a list of at least 16. -/
def sm3Expand : Nat → List Word → List Word
  | 0, w => w
  | n + 1, w =>
    let k := w.length
    let x := w.getD (k - 16) 0 ^^^ w.getD (k - 9) 0 ^^^ (w.getD (k - 3) 0).rotateLeft 15
    sm3Expand n (w ++ [(x ^^^ x.rotateLeft 15 ^^^ x.rotateLeft 23) ^^^ (w.getD (k - 13) 0).rotateLeft 7 ^^^ w.getD (k - 6) 0])

/-- n rounds of compression from round j on. -/
def sm3Rounds (w : List Word) : Nat → Nat → Sm3 → Sm3
  | 0, _, s => s
  | n + 1, j, s =>
    let t : Word := if j < 16 then 0x79CC4519 else 0x7A879D8A
    let ss1 := (s.a.rotateLeft 12 + s.e + t.rotateLeft (j % 32)).rotateLeft 7
    let ff := if j < 16 then s.a ^^^ s.b ^^^ s.c else (s.a &&& s.b) ||| (s.a &&& s.c) ||| (s.b &&& s.c)
    let gg := if j < 16 then s.e ^^^ s.f ^^^ s.g else (s.e &&& s.f) ||| (~~~s.e &&& s.g)
    let tt1 := ff + s.d + (ss1 ^^^ s.a.rotateLeft 12) + (w.getD j 0 ^^^ w.getD (j + 4) 0)
    let tt2 := gg + s.h + ss1 + w.getD j 0
    sm3Rounds w n (j + 1)
      { a := tt1, b := s.a, c := s.b.rotateLeft 9, d := s.c,
        e := tt2 ^^^ tt2.rotateLeft 9 ^^^ tt2.rotateLeft 17, f := s.e, g := s.f.rotateLeft 19, h := s.g }

/-- n big-endian words of a byte list. -/
def beWords : Nat → List Byte → List Word
  | 0, _ => []
  | n + 1, bs => BitVec.ofNat 32 (leVal (bs.take 4).reverse) :: beWords n (bs.drop 4)

/-- Compression of one 64-byte block. -/
def sm3Block (s : Sm3) (bs : List Byte) : Sm3 :=
  let r := sm3Rounds (sm3Expand 52 (beWords 16 bs)) 64 0 s
  ⟨s.a ^^^ r.a, s.b ^^^ r.b, s.c ^^^ r.c, s.d ^^^ r.d, s.e ^^^ r.e, s.f ^^^ r.f, s.g ^^^ r.g, s.h ^^^ r.h⟩

/-- n blocks. -/
def sm3Blocks : Nat → List Byte → Sm3 → Sm3
  | 0, _, s => s
  | n + 1, bs, s => sm3Blocks n (bs.drop 64) (sm3Block s (bs.take 64))

/-- The SM3 digest of a byte string (R395). -/
def sm3 (bs : List Byte) : BitVec 256 :=
  let pad := (55 + 64 - bs.length % 64) % 64
  let msg := bs ++ [0x80] ++ zeros pad ++ (leBytes 8 (8 * bs.length)).reverse
  let s := sm3Blocks (msg.length / 64) msg
    ⟨0x7380166F, 0x4914B2B9, 0x172442D7, 0xDA8A0600, 0xA96F30BC, 0x163138AA, 0xE38DEE4D, 0xB0FB0E4E⟩
  s.a ++ s.b ++ s.c ++ s.d ++ s.e ++ s.f ++ s.g ++ s.h

end Sys2Proof.Machine
end

