-- ==== Sys2Proof/Machine/Records.lean ====
section
/-!
DEFINITION. The records of the state by name, threads and registers as instructions and replies see them (R21, R25), writer tags
(R201), and local memory under a key (R391, R392).
-/

namespace Sys2Proof.Machine

/-! ## Records by name -/

/-- A list with the elements at the numbers from n replaced. -/
def mapFrom {α : Type} (f : Nat → α → α) : Nat → List α → List α
  | _, [] => []
  | n, x :: t => f n x :: mapFrom f (n + 1) t

/-- A list with every element that a test names replaced. -/
def mapIf {α : Type} (p : α → Bool) (f : α → α) (l : List α) : List α := l.map fun x => if p x then f x else x

/-- The block holds its core: it is placed and has not left. -/
def Block.onCore (b : Block) : Bool := match b.st with | .resident | .saving => true | _ => false

def State.wave? (s : State) (id : Nat) : Option Wave := s.waves.find? fun w => w.id == id
def State.mapWave (s : State) (id : Nat) (f : Wave → Wave) : State := { s with waves := mapIf (fun w => w.id == id) f s.waves }
def State.block? (s : State) (id : Nat) : Option Block := s.blocks.find? fun b => b.id == id
def State.mapBlock (s : State) (id : Nat) (f : Block → Block) : State := { s with blocks := mapIf (fun b => b.id == id) f s.blocks }
def State.launch? (s : State) (uid : Nat) : Option Launch := s.launches.find? fun l => l.uid == uid
def State.mapLaunch (s : State) (uid : Nat) (f : Launch → Launch) : State :=
  { s with launches := mapIf (fun l => l.uid == uid) f s.launches }
def State.acc? (s : State) (id : Nat) : Option Access := s.accs.find? fun a => a.id == id
def State.mapAcc (s : State) (id : Nat) (f : Access → Access) : State := { s with accs := mapIf (fun a => a.id == id) f s.accs }
def State.dropAcc (s : State) (id : Nat) : State := { s with accs := s.accs.filter fun a => a.id != id }
def State.cmd? (s : State) (id : Nat) : Option Cmd := s.cmds.find? fun c => c.id == id
def State.mapCmd (s : State) (id : Nat) (f : Cmd → Cmd) : State := { s with cmds := mapIf (fun c => c.id == id) f s.cmds }
/-- A command is gone, and with it the lines it pinned (R313). -/
def State.dropCmd (s : State) (id : Nat) : State := { s with cmds := s.cmds.filter (fun c => c.id != id), pins := s.pins.filter fun x => x.1 != id }

/-- The VD of a number (R40); there are 64. -/
def State.vd (s : State) (v : Nat) : VD := s.vds[v]?.getD VD.reset
def State.mapVd (s : State) (v : Nat) (f : VD → VD) : State := { s with vds := s.vds.set! v (f (s.vd v)) }
def State.part (s : State) (p : Nat) : Partition := s.parts[p]?.getD Partition.reset
def State.mapPart (s : State) (p : Nat) (f : Partition → Partition) : State := { s with parts := s.parts.set! p (f (s.part p)) }
def State.queue (s : State) (q : Nat) : SvcQueue := s.queues[q]?.getD ⟨0, 0⟩
def State.mapQueue (s : State) (q : Nat) (f : SvcQueue → SvcQueue) : State := { s with queues := s.queues.set! q (f (s.queue q)) }
def State.cluster (s : State) (c : Nat) : Cluster := s.clusters[c]?.getD ⟨false, [], false, [], none, false, 0, 0⟩
def State.mapCluster (s : State) (c : Nat) (f : Cluster → Cluster) : State :=
  { s with clusters := s.clusters.set! c (f (s.cluster c)) }

/-- The partition that owns a VD (R380). -/
def State.partOf (s : State) (v : Nat) : Option Nat :=
  (List.range 8).find? fun p => match (s.part p).desc with | some d => d.vds.getLsbD v | none => false

/-- The partition of a Vent processor (R380). -/
def State.partOfProc (s : State) (n : Nat) : Option Nat :=
  (List.range 8).find? fun p => match (s.part p).desc with | some d => d.vent.getLsbD n | none => false

/-- The SYSVD of a partition (R380). -/
def State.sysvd (s : State) (p : Nat) : Nat := match (s.part p).desc with | some d => d.sysvd | none => 0

/-- Events put at the end of the agenda (model: log 3). -/
def State.due (s : State) (evs : List Event) : State := { s with agenda := s.agenda ++ evs }

/-- An event that names one thing. -/
def evn (row : Instr) (n : Nat) : Event := { row := row, n := n }

/-- A fresh name (model). -/
def State.fresh (s : State) : Nat × State := (s.nextId, { s with nextId := s.nextId + 1 })

/-! ## Threads and registers (R21, R25) -/

def Wave.th (w : Wave) (t : Nat) : Thread := w.threads[t]?.getD (Thread.init 0)

/-- A wave with one thread changed. -/
def Wave.mapTh (w : Wave) (t : Nat) (f : Thread → Thread) : Wave :=
  { w with threads := mapFrom (fun n th => if n = t then f th else th) 0 w.threads }

/-- A wave with the threads of a mask changed. -/
def Wave.mapMask (w : Wave) (m : BitVec 32) (f : Thread → Thread) : Wave :=
  { w with threads := mapFrom (fun n th => if m.getLsbD n then f th else th) 0 w.threads }

/-- The threads of a mask in increasing order, and the lowest. -/
def tids (m : BitVec 32) : List Nat := (List.range 32).filter fun t => m.getLsbD t
def lowest (m : BitVec 32) : Nat := (tids m).headD 0

/-- The mask of the threads a test names. -/
def maskOf (p : Nat → Bool) : BitVec 32 := (List.range 32).foldl (fun m t => if p t then m ||| (1#32 <<< t) else m) 0
def Wave.maskBy (w : Wave) (p : Thread → Bool) : BitVec 32 := maskOf fun t => match w.threads[t]? with | some th => p th | none => false

def getV (th : Thread) (n : Nat) : Reg := th.v[n]?.getD Reg.zero
def setV (th : Thread) (n : Nat) (r : Reg) : Thread := { th with v := th.v.setIfInBounds n r }
def getK (k : Vector Reg 15) (n : Nat) : Reg := k[n]?.getD Reg.zero
def setK (k : Vector Reg 15) (n : Nat) (r : Reg) : Vector Reg 15 := k.setIfInBounds n r

/-- Read of R21: a v register, a k register, or k15, which reads zero. -/
def readReg (w : Wave) (th : Thread) (f : Nat) : Reg :=
  if f < 48 then getV th f else if f < 63 then getK w.k (f - 48) else Reg.zero

/-- Predicate n of a thread; p0 is constant true (R25). -/
def Thread.pred (th : Thread) (n : BitVec 2) : Bool := n == 0 || th.preds.getLsbD (n.toNat - 1)

/-- A predicate written; index 0 discards (R64). -/
def Thread.setPred (th : Thread) (n : BitVec 2) (b : Bool) : Thread :=
  if n = 0 then th
  else
    let m : BitVec 3 := 1#3 <<< (n.toNat - 1)
    { th with preds := if b then th.preds ||| m else th.preds &&& ~~~m }

/-- A register written for one thread outside its instruction: a reply, a completion. In a fumarole episode it goes to the
checkpoint (R284). A k register belongs to the wave; k15 ignores writes. -/
def Wave.deliver (w : Wave) (t : Nat) (f : Nat) (r : Reg) : Wave :=
  if f < 48 then
    match w.episode with
    | some e => { w with episode := some { e with threads := mapFrom (fun n th => if n = t then setV th f r else th) 0 e.threads } }
    | none => w.mapTh t fun th => setV th f r
  else if f < 63 then
    match w.episode with
    | some e => { w with episode := some { e with k := setK e.k (f - 48) r } }
    | none => { w with k := setK w.k (f - 48) r }
  else w

/-- The thread state that replies change: the checkpoint in an episode, else the thread. -/
def Wave.mapArch (w : Wave) (m : BitVec 32) (f : Thread → Thread) : Wave :=
  match w.episode with
  | some e =>
    { w with episode := some { e with threads := mapFrom (fun n th => if m.getLsbD n then f th else th) 0 e.threads } }
  | none => w.mapMask m f

/-- Every thread as replies see it. -/
def Wave.mapArchAll (w : Wave) (f : Thread → Thread) : Wave := w.mapArch (BitVec.allOnes 32) f

/-- A thread's state as replies see it. -/
def Wave.arch (w : Wave) (t : Nat) : Thread :=
  match w.episode with | some e => e.threads[t]?.getD (Thread.init 0) | none => w.th t

/-- The end of a fumarole episode: the overlay is dropped and the checkpoint resumes, with the prefix that stood there (R71, R286). -/
def Wave.endEpisode (w : Wave) : Wave :=
  match w.episode with | some e => { w with threads := e.threads, k := e.k, pfx := e.pfx, turn := none, episode := none } | none => w

/-- Whether the wave runs on a Vent hardware thread (R49). -/
def Wave.isVent (w : Wave) : Bool := match w.role with | .vent => true | _ => false

/-- The privilege at which a wave reaches privileged opcodes and privileged pages: its level on a Vent thread, U elsewhere (R48). -/
def Wave.isPriv (w : Wave) : Bool := w.isVent && (match w.level with | .u => false | _ => true)

/-- The VD a wave is charged to and admitted under: its own, or the one a Vent thread serves (R49, R202). -/
def Wave.agentVd (w : Wave) : Nat := if w.isVent then w.serves else w.vd

/-- The lane of a wave, numbered in the package, when it is on one. -/
def Wave.lane? (w : Wave) : Option Nat :=
  match w.loc with | .lane cl core lane => some ((4 * cl + core) * 16 + lane) | _ => none

/-- The core of a wave, numbered in the package; Vent processors follow the compute cores. -/
def Wave.coreNo (w : Wave) : Nat :=
  match w.loc with | .lane cl core _ => 4 * cl + core | .vent proc _ => 512 + proc | .saved _ | .gone => 1024

/-- The KeyID of the protected world an agent's launch belongs to, 0 for none (R390). -/
def State.keyOf (s : State) (w : Wave) : Nat := match s.block? w.block with | some b => b.keyid | none => 0

/-- A block's scratch size as its launch gave it, 0 for a Vent thread (R51). -/
def State.ssize (s : State) (w : Wave) : Nat := match s.block? w.block with | some b => b.ssize | none => 0

/-- The writer tag of a thread (R201). -/
def threadTag (pkg wave tid : Nat) : Word :=
  BitVec.ofNat 32 (pkg % 128 * 2 ^ 25 + wave / 2 ^ 15 % 16 * 2 ^ 20 + wave / 2 ^ 8 % 128 * 2 ^ 13 + wave % 256 * 32 + tid % 32)

/-- The writer tag of an engine or a port: class, cluster or port, command number (R201). -/
def engineTag (pkg cls unit no : Nat) : Word :=
  BitVec.ofNat 32 (pkg % 128 * 2 ^ 25 + 2 ^ 24 + cls % 16 * 2 ^ 20 + unit % 128 * 2 ^ 13 + no % 8192)

/-! ## Memory under a key (R391, R392) -/

def State.world? (s : State) (k : Nat) : Option World := if k = 0 then none else s.keys.worlds.find? fun w => w.keyid == k

/-- The pod physical address of a local address of this package (R52). -/
def State.podAddr (s : State) (a : Nat) : Nat := s.fab.pkg * 2 ^ 45 + a

/-- A 64-byte line of local memory as an agent under a key sees it: unsealed under a live world's key, else as it stands. -/
def State.lineBytes (s : State) (key l : Nat) : List Byte :=
  match s.world? key with
  | some w => unsealLine w (s.podAddr (64 * l)) (s.mem.bytes (64 * l) 64)
  | none => s.mem.bytes (64 * l) 64

/-- n bytes of local memory under a key. -/
def State.getBytes (s : State) (key a n : Nat) : List Byte :=
  match s.world? key with
  | none => s.mem.bytes a n
  | some _ =>
    (((List.range ((a % 64 + n + 63) / 64)).flatMap fun i => s.lineBytes key (a / 64 + i)).drop (a % 64)).take n

/-- Bytes given or kept, laid over old bytes. -/
def overlay : List (Option Byte) → List Byte → List Byte
  | _, [] => []
  | [], old => old
  | x :: xs, o :: os => (match x with | some b => b | none => o) :: overlay xs os

/-- The marks cleared by a masked store: words all of whose bytes are given (R414). -/
def clearMarks (m : Memory) (a : Nat) (bs : List (Option Byte)) : Memory :=
  { m with marks := m.marks.filter fun w =>
      !((List.range 4).all fun i => decide (a ≤ 4 * w + i) && (match bs[4 * w + i - a]? with | some (some _) => true | _ => false)) }

/-- Whole lines stored under a key, from line l, n of them. -/
def State.putLines (s : State) (w : World) (l : Nat) : Nat → List (Option Byte) → State
  | 0, _ => s
  | n + 1, bs =>
    let old := unsealLine w (s.podAddr (64 * l)) (s.mem.bytes (64 * l) 64)
    let new := overlay (bs.take 64) old
    State.putLines { s with mem := s.mem.poke (64 * l) (sealLine w (s.podAddr (64 * l)) new) } w (l + 1) n (bs.drop 64)

/-- Bytes, given or kept, stored in local memory under a key: plain where no live world has the key. A word whose four bytes are all
given loses its mark of an uncorrectable error (R414). -/
def State.putMasked (s : State) (key a : Nat) (bs : List (Option Byte)) : State :=
  match s.world? key with
  | none => { s with mem := clearMarks (s.mem.storeMasked a bs) a bs }
  | some w =>
    let s' := State.putLines s w (a / 64) ((a % 64 + bs.length + 63) / 64) (List.replicate (a % 64) none ++ bs)
    { s' with mem := clearMarks s'.mem a bs }

/-- Bytes stored in local memory under a key. -/
def State.putBytes (s : State) (key a : Nat) (bs : List Byte) : State := s.putMasked key a (bs.map some)
end Sys2Proof.Machine
end

