-- ==== Sys2Proof/Machine/Rates.lean ====
section
/-!
DEFINITION. The buckets of guaranteed rates and the choice of tier 2 (R339, R340, R342), the memory controllers as arbiters, the calendar
(R353), flits (R355, R356), the choice of a route (R358 to R360), and the sending of a message through the windows of the planes (R352, R362,
R363, R365, R368).
-/

namespace Sys2Proof.Machine

/-! ## Buckets (R339, R340) -/

/-- The level of a VD at an arbiter. Instance 0 of the table stands for every instance not listed, instance n + 1 for n. -/
def State.level (s : State) (cls inst vd : Nat) : Int :=
  match s.arb.levels.find? fun x => x.1 == (cls, inst + 1, vd) with
  | some x => x.2
  | none => match s.arb.levels.find? fun x => x.1 == (cls, 0, vd) with | some x => x.2 | none => 0

/-- A level set. -/
def State.setLevel (s : State) (cls inst vd : Nat) (v : Int) : State :=
  { s with arb := { s.arb with levels := ((cls, inst + 1, vd), v) :: s.arb.levels.filter fun x => !(x.1 == (cls, inst + 1, vd)) } }

/-- The rate registers of a VD in a class. -/
def State.rate (s : State) (vd cls : Nat) : Rate := (s.vd vd).rates[cls]?.getD Rate.reset
def State.mapRate (s : State) (vd cls : Nat) (f : Rate → Rate) : State :=
  s.mapVd vd fun v => { v with rates := v.rates.setIfInBounds cls (f (v.rates[cls]?.getD Rate.reset)) }

/-- A grant of tier 1 or tier 2, with its cost in grant units: what it takes from the level, and the counters of R342. -/
def State.grantTier (s : State) (tier1 : Bool) (cls inst vd cost : Nat) : State :=
  if tier1 then
    (s.setLevel cls inst vd (s.level cls inst vd - 1024 * cost)).mapRate vd cls fun r => { r with g1 := r.g1 + BitVec.ofNat 64 cost }
  else s.mapRate vd cls fun r => { r with g2 := r.g2 + BitVec.ofNat 64 cost }

/-- One cycle's or one slot's refill of a class, k times (R340). -/
def State.refill (s : State) (cls k : Nat) : State :=
  let unit : Nat := if cls = 4 then 1024 else 1
  let listed : List ((Nat × Nat × Nat) × Int) := s.arb.levels.map fun x => if x.1.1 = cls then
      let r := s.rate x.1.2.2 cls
      (x.1, min (x.2 + unit * r.rate.toNat * k) (1024 * r.depth.toNat)) else x
  let more := (List.range 64).filterMap fun v =>
    if (s.rate v cls).rate = 0 ∨ s.arb.levels.any (fun x => x.1 == (cls, 0, v)) then none
    else some ((cls, 0, v), min ((unit * (s.rate v cls).rate.toNat * k : Nat) : Int) (1024 * (s.rate v cls).depth.toNat))
  { s with arb := { s.arb with levels := listed ++ more } }

/-- The buckets of a class refilled up to now: once a cycle, of Vent time once a Vent cycle, three in four (R8, R340). -/
def State.refillNow (s : State) (cls : Nat) : State :=
  let n := s.cycle - s.arb.filled[cls]?.getD 0
  if cls = 1 ∨ cls = 4 then s
  else
    let (k, used) := if cls = 5 then (3 * (n / 4), 4 * (n / 4)) else (n, n)
    let s := if (List.range 64).any fun v => (s.rate v cls).rate != 0 then s.refill cls k else s
    { s with arb := { s.arb with filled := s.arb.filled.setIfInBounds cls (s.arb.filled[cls]?.getD 0 + used) } }

/-- The VD that tier 2 serves among those with a waiting request, and the grants left to it after this one (R340). -/
def State.tier2 (s : State) (arb : Nat × Nat) (vds : List Nat) : Option (Nat × Nat) :=
  let ok (v : Nat) : Bool := vds.contains v && (s.rate v arb.1).weight &&& 0xFF != 0
  let (v0, left) := match s.arb.ptrs.find? fun x => x.1 == arb with | some x => x.2 | none => (63, 0)
  if left ≠ 0 ∧ ok v0 then some (v0, left - 1)
  else
    ((List.range 64).map fun n => (v0 + 1 + n) % 64).find? ok |>.map fun v => (v, ((s.rate v arb.1).weight &&& 0xFF).toNat - 1)

/-- The pointer of tier 2 at an arbiter, moved where its choice moved it. -/
def State.movePtr (s : State) (arb : Nat × Nat) : Option (Nat × Nat) → State
  | some x => { s with arb := { s.arb with ptrs := (arb, x) :: s.arb.ptrs.filter fun y => y.1 != arb } }
  | none => s

/-- The oldest of some requests, the lowest VD on a tie (R340); a request is its age, its VD and itself. -/
def oldest {α : Type} : List (Nat × Nat × α) → Option (Nat × Nat × α)
  | [] => none
  | x :: t => match oldest t with | some y => if y.1 < x.1 ∨ (y.1 = x.1 ∧ y.2.1 < x.2.1) then some y else some x | none => some x

/-- The request that an arbiter of classes 2 to 4 serves (R340): the oldest of a VD with a token, by tier 1; else the oldest of the VD that tier 2
serves, with its pointer. -/
def State.pickRequest {α : Type} (s : State) (cls inst : Nat) (l : List (Nat × Nat × α)) : Option (α × Bool × Option (Nat × Nat)) :=
  match oldest (l.filter fun x => decide (1024 ≤ s.level cls inst x.2.1)) with
  | some x => some (x.2.2, true, none)
  | none => (s.tier2 (cls, inst) (l.map (·.2.1))).bind fun p => (oldest (l.filter fun x => x.2.1 == p.1)).map fun x => (x.2.2, false, some p)

/-! ## The memory controllers (R307, R339, R341) -/

/-- What one request of 64 bytes takes of a controller, in 1/25 cycle: 100 GB/s of HBM4E is 25 bytes a cycle, 128 GB/s of LPDDR-6 is 32. -/
def memCost (cls : Nat) : Nat := if cls = 2 then 64 else 50

/-- The controller of a class can grant another request. -/
def State.memFree (s : State) (cls inst : Nat) : Bool :=
  decide (((s.arb.next.find? fun x => x.1 == (cls, inst)).elim 0 (·.2)) ≤ 25 * s.cycle)

/-- A controller is busy with a request. -/
def State.memBook (s : State) (cls inst : Nat) : State :=
  let n := (s.arb.next.find? fun x => x.1 == (cls, inst)).elim 0 (·.2)
  { s with arb := { s.arb with next := ((cls, inst), max n (25 * s.cycle) + memCost cls) :: s.arb.next.filter fun x => x.1 != (cls, inst) } }

/-- The grant of a request that does not wait: by tier 1 when its VD holds a token. The request of a walk, of a fetch, of a message from another
package, of a hardware unit, and a write-back, are granted in the step that makes them (log 78). -/
def State.grant (s : State) (cls inst vd : Nat) : State :=
  let s := s.refillNow cls
  (s.grantTier (decide (1024 ≤ s.level cls inst vd)) cls inst vd 1).memBook cls inst

/-- A request of a VD would wait at a controller: another waits there, the controller is busy, or the VD holds no token and is never served in
tier 2. -/
def State.memWaits (s : State) (cls inst vd : Nat) : Bool :=
  s.arb.queue.any (fun x => x.cls == cls && x.inst == inst) || !s.memFree cls inst ||
    (let s := s.refillNow cls
     decide (s.level cls inst vd < 1024) && (s.rate vd cls).weight &&& 0xFF == 0)

/-- The controllers serve the requests that wait at them, each one as soon as it is free; the event of a request that is granted is due. -/
def State.serveMemory (s : State) : State :=
  ((s.arb.queue.map fun x => (x.cls, x.inst)).eraseDups).foldl (fun s k =>
    if !s.memFree k.1 k.2 then s
    else
      let s := s.refillNow k.1
      match s.pickRequest k.1 k.2 ((s.arb.queue.filter fun x => x.cls == k.1 && x.inst == k.2).map fun x => (x.since, x.vd, x)) with
      | none => s
      | some (x, t1, p) =>
        let s := ((s.movePtr k p).grantTier t1 k.1 k.2 x.vd 1).memBook k.1 k.2
        State.due { s with arb := { s.arb with queue := s.arb.queue.erase x, granted := (x.vd, x.line) :: s.arb.granted } } [x.ev]) s

/-! ## The calendar (R353, R372) -/

/-- A peer takes messages: it is present (R52, R372). -/
def State.peerUp (s : State) (p : Nat) : Bool := s.fab.present.getLsbD p && decide (p ≠ s.fab.pkg)

/-- Packages of the pod and slots of its cycle. -/
def Fabric.size (f : Fabric) : Nat := 8 * 2 ^ f.nlog
def Fabric.cycle (f : Fabric) : Nat := 2 ^ f.nlog

/-- Microseconds in cycles of 4 GHz (R46). -/
def usCycles (n : Nat) : Nat := 4000 * n

/-- A package of the pod other than this one, while SLOTNOW counts. -/
def State.isPeer (s : State) (q : Nat) : Bool :=
  decide (q < s.fab.size) && decide (q ≠ s.fab.pkg) && s.fab.slotnow != 0xFFFFFFFFFFFFFFFF

/-- The offset d from package i to package j (R353, R358): its plane is d mod 8, its slot position d div 8. -/
def Fabric.offset (f : Fabric) (i j : Nat) : Nat := (j + 2 * f.size - i - 1) % f.size

/-- The least slot from k on at a position. -/
def Fabric.slotFrom (f : Fabric) (k pos : Nat) : Nat := k + (pos + f.cycle - k % f.cycle) % f.cycle

/-- The package that plane p of package i is joined to at a slot position (R353). -/
def Fabric.joined (f : Fabric) (i p pos : Nat) : Nat := (i + 1 + p + 8 * pos) % f.size

/-- Plane p of this package carries traffic (R374). -/
def Fabric.lit (f : Fabric) (p : Nat) : Bool := !f.down.getLsbD p

/-! ## Flits (R355, R356) -/

/-- One bit of CRC-64 with the ECMA-182 polynomial, most significant bit first. -/
def crcBit (c : BitVec 64) (b : Bool) : BitVec 64 := if (c.getLsbD 63) != b then (c <<< 1) ^^^ 0x42F0E1EBA9EA3693 else c <<< 1
def crcByte (c : BitVec 64) (b : Byte) : BitVec 64 := [7, 6, 5, 4, 3, 2, 1, 0].foldl (fun c n => crcBit c (b.getLsbD n)) c
/-- The CRC of bytes 0 to 119 of a flit. -/
def crcOf (bs : List Byte) : BitVec 64 := ~~~(bs.foldl crcByte (BitVec.allOnes 64))

/-- The flits of a message: 112 payload bytes in each (R355). -/
def Msg.flits (m : Msg) : Nat := max 1 ((m.pay.length + 111) / 112)

/-- The header word of a flit of a message (R355). -/
def Msg.header (m : Msg) (fidx : Nat) : Nat :=
  m.src.toNat * 2 ^ 57 + m.dst.toNat * 2 ^ 50 + m.cls % 4 * 2 ^ 48 + m.kind % 16 * 2 ^ 44 + m.hop % 4 * 2 ^ 42 + m.via.toNat * 2 ^ 35 +
    m.seq.toNat * 2 ^ 11 + fidx % 32 * 2 ^ 6 + m.vd % 64

/-- The 128 bytes of a flit of a message: its header, its part of the payload, and the CRC of both. -/
def Msg.flit (m : Msg) (fidx : Nat) : List Byte :=
  let part := (m.pay.drop (112 * fidx)).take 112
  let b := leBytes 8 (m.header fidx) ++ part ++ zeros (112 - part.length)
  b ++ leBytes 8 (crcOf b).toNat

/-- The bytes of a flit on a plane. -/
def Sent.bytes (x : Sent) : List Byte := x.msg.flit x.fidx

/-! ## Routes (R358 to R361) -/

/-- A route (R358): its arrival slot, the relay, the plane it leaves on, and the slots until its two hops. -/
structure Route where
  arrive : Nat
  via    : Option Nat
  plane  : Nat
  a      : Nat
deriving DecidableEq, Repr

/-- Flits of relay reserve a source may hold at one relay (R360). -/
def Fabric.share (f : Fabric) : Nat := 768 * 2 ^ 20 / (128 * (f.size - 1))

/-- Flits of a slot's window on one side of a plane (R352, R374): 27,900 with every wavelength of its four transmit fibres active. -/
def Fabric.sideCap (f : Fabric) (p : Nat) (b : Bool) : Nat :=
  let lit := (List.range 4).foldl (fun n k =>
    n + (match f.fibres.find? fun x => x.tx && x.plane == p && x.fibre == (if b then k + 4 else k) with | some x => x.active | none => 124)) 0
  if f.lit p then 27900 * lit / 496 else 0

/-- Flits of a slot's window on a plane. -/
def Fabric.planeCap (f : Fabric) (p : Nat) : Nat := f.sideCap p false + f.sideCap p true

/-- What a plane has sent in this slot. -/
def Fabric.use (f : Fabric) (p : Nat) : PlaneUse := (f.uses.find? fun x => x.plane == p).getD ⟨p, 0, 0, false⟩

/-- The part of this slot's window of 1.8 µs that has passed at a CYCLE, in cycles (R354). -/
def Fabric.passed (f : Fabric) (now : Nat) : Nat := min 7200 (now - f.slotAt)

/-- This package holds relay credit at a package for a number of flits. -/
def Fabric.credit (f : Fabric) (m flits : Nat) : Bool :=
  let used := match f.spent.find? fun x => x.1.toNat == m with | some x => x.2 | none => 0
  decide (used + flits ≤ f.share)

/-- The last of some flits that become ready now leaves on a plane at least 0.9 µs before the window of this slot closes, behind the flits that wait
for that window (R354, R359). -/
def State.eligible (s : State) (p flits : Nat) : Bool :=
  let f := s.fab
  let cap := f.planeCap p
  let u := f.use p
  let ahead := (f.queue.filter fun q => q.hop == some (f.slotnow.toNat, p)).foldl (fun n q => n + (q.msg.flits - q.sent)) 0
  decide (7200 * (max (u.a + u.b) (cap * f.passed s.cycle / 7200) + ahead + flits) ≤ 3600 * cap)

/-- The relay routes to j whose hops fall a and b slots after slot k. -/
def State.relays (s : State) (j flits k a b : Nat) : List Route :=
  let f := s.fab
  let i := f.pkg
  (List.range 8).filterMap fun p =>
      let m := f.joined i p ((k + a) % f.cycle)
      if m = i ∨ m = j ∨ !s.peerUp m ∨ !f.credit m flits ∨ !f.lit p ∨ (a = 0 ∧ b = 0 ∧ !s.eligible p flits) then none
      else if (List.range 8).any fun p' => f.joined m p' ((k + b) % f.cycle) == j then some ⟨k + b, some m, p, a⟩
      else none

/-- The better of two routes: the earlier, then the direct one, then the lower relay, then the lesser a. -/
def Route.better (x y : Route) : Bool :=
  decide (x.arrive < y.arrive) ||
    (x.arrive == y.arrive &&
      (match x.via, y.via with
       | none, _ => true
       | some _, none => false
       | some m, some n => decide (m < n) || (m == n && decide (x.a ≤ y.a))))

def bestRoute : List Route → Option Route
  | [] => none
  | x :: t => match bestRoute t with | some y => if x.better y then some x else some y | none => some x

/-- The chosen route to package j for a message of some flits that is ready now (R358); none to an absent package. -/
def State.chooseRoute (s : State) (j flits : Nat) : Option Route :=
  if !s.isPeer j ∨ !s.peerUp j then none
  else
    let k := s.fab.slotnow.toNat
    let d := s.fab.offset s.fab.pkg j
    let direct : List Route := if s.fab.lit (d % 8) then [⟨s.fab.slotFrom k (d / 8), none, d % 8, 0⟩] else []
    bestRoute (direct ++ (List.range s.fab.cycle).flatMap fun b => (List.range (b + 1)).flatMap fun a => s.relays j flits k a b)

/-! ## Sending (R355, R362, R365, R368) -/

/-- Flits in the retransmit store. -/
def Fabric.stored (f : Fabric) : Nat := f.unacked.foldl (fun n m => n + m.flits) 0

/-- A further message of some flits to a destination in a class has no room: 4,096 of them are not acknowledged yet, or the retransmit store of 256 MiB
is full (R362, R365). -/
def Fabric.full (f : Fabric) (dst : BitVec 7) (cls flits : Nat) : Bool :=
  decide (4096 ≤ (f.unacked.filter fun x => x.dst == dst && x.cls == cls).length) || decide (2 ^ 21 < f.stored + flits)

/-- A message put on its route (R358): HOP and VIA, the relay credit it spends (R360), and the window it waits for; without a route it waits for one,
which is looked for again as each slot begins. -/
def State.routed (s : State) (m : Msg) (since : Nat) : Outgoing × State :=
  match s.chooseRoute m.dst.toNat m.flits with
  | none => (⟨m, none, false, false, since, 0⟩, s)
  | some r =>
    let k := s.fab.slotnow.toNat
    let hop := match r.via with | none => r.arrive | some _ => k + r.a
    let elig := decide (hop ≠ k) || s.eligible r.plane m.flits
    match r.via with
    | none => (⟨{ m with hop := 0, via := 0 }, some (hop, r.plane), false, elig, since, 0⟩, s)
    | some q =>
      let v := BitVec.ofNat 7 q
      let used := match s.fab.spent.find? fun x => x.1 == v with | some x => x.2 | none => 0
      (⟨{ m with hop := 1, via := v }, some (hop, r.plane), false, elig, since, 0⟩,
        { s with fab := { s.fab with spent := (v, used + m.flits) :: s.fab.spent.filter fun x => x.1 != v } })

/-- A message given the next sequence number of its destination and class and put on its route; it is kept until its delivery is acknowledged. -/
def State.sendNow (s : State) (m : Msg) : State :=
  let k := (m.dst, m.cls)
  let n := match s.fab.sent.find? fun x => x.1 == k with | some x => x.2 | none => 0
  let (q, s) := s.routed { m with seq := BitVec.ofNat 24 n } s.cycle
  { s with fab := { s.fab with
      sent := (k, (n + 1) % 2 ^ 24) :: s.fab.sent.filter (fun x => x.1 != k), queue := s.fab.queue ++ [q], unacked := s.fab.unacked ++ [q.msg] } }

/-- Messages of a destination and class wait for room. -/
def Fabric.waits (f : Fabric) (dst : BitVec 7) (cls : Nat) : Bool := f.waiting.any fun x => x.dst == dst && x.cls == cls

/-- A message is sent: one to a package that is not present has no route and is discarded (R358, R373); one that finds no room waits, behind those of
its destination and class (R362, R365). -/
def State.send (s : State) (m : Msg) : State :=
  if !s.peerUp m.dst.toNat then s
  else if s.fab.waits m.dst m.cls || s.fab.full m.dst m.cls m.flits then { s with fab := { s.fab with waiting := s.fab.waiting ++ [m] } }
  else s.sendNow m

/-- The messages that wait are sent as far as there is room, each destination and class in order. -/
def State.pump (s : State) : State :=
  if s.fab.waiting.isEmpty then s
  else s.fab.waiting.foldl State.send { s with fab := { s.fab with waiting := [] } }

/-- The data bytes that the first flits of a BULK hold, behind its 24 bytes of fields (R357). -/
def bulkSent (flits : Nat) : Nat := 112 * flits - 24

/-- What is left of a BULK whose first flits have been sent: a message for the bytes from there on. -/
def Msg.rest (m : Msg) (flits : Nat) : Msg :=
  let n := bulkSent flits
  { m with pay := m.pay.take 8 ++ leBytes 8 (field m.pay 8 8 + n) ++ (m.pay.drop 16).take 8 ++ m.pay.drop (24 + n),
           psn := (m.psn.filter fun w => decide (n ≤ 4 * w)).map fun w => w - n / 4 }

/-- The flits of a message that have been sent, as a message. -/
def Msg.part (m : Msg) (flits : Nat) : Msg := { m with pay := m.pay.take (112 * flits), psn := m.psn.filter fun w => decide (4 * w < bulkSent flits) }

/-! ## The windows of the planes (R352, R354, R363, R368) -/

/-- The place in a side's part of the window that a flit which waits since a CYCLE takes, where it has come to by now; none while no place is left. -/
def Fabric.spot (f : Fabric) (p : Nat) (b : Bool) (since now : Nat) : Option Nat :=
  let cap := f.sideCap p b
  let n := max (if b then (f.use p).b else (f.use p).a) (cap * f.passed since / 7200)
  if n < cap * f.passed now / 7200 then some n else none

/-- The places left in a plane's window for a message that waits since a CYCLE. -/
def Fabric.left (f : Fabric) (p since : Nat) : Nat :=
  let side (b : Bool) := f.sideCap p b - max (if b then (f.use p).b else (f.use p).a) (f.sideCap p b * f.passed since / 7200)
  side false + side true

/-- A message may go on in its window: a BULK of this package's own may be cut off by the window's end, any other message begins only where all of it
fits (log 79). -/
def Fabric.mayBegin (f : Fabric) (p : Nat) (q : Outgoing) : Bool :=
  (q.msg.kind == 8 && !q.relay) || decide (q.sent ≠ 0) || decide (q.msg.flits ≤ f.left p q.since)

/-- The message whose flit a plane sends next (R368): the oldest with C0 flits, then the oldest relayed one, then the package's own by the tiers of
R340. -/
def State.nextFlit (s : State) (p : Nat) : Option (Outgoing × Option (Bool × Option (Nat × Nat))) :=
  let f := s.fab
  let l := f.queue.filter fun q => q.hop == some (f.slotnow.toNat, p) && decide (q.sent < q.msg.flits) &&
    ((f.spot p false q.since s.cycle).isSome || (f.spot p true q.since s.cycle).isSome) && f.mayBegin p q
  let first (t : Outgoing → Bool) : Option Outgoing := (oldest ((l.filter t).map fun q => (q.since, 0, q))).map (·.2.2)
  match first fun q => q.msg.cls == 0 with
  | some q => if q.relay then some (q, none) else some (q, some (decide (1024 ≤ s.level 4 p q.msg.vd), none))
  | none =>
    match first (·.relay) with
    | some q => some (q, none)
    | none => (s.pickRequest 4 p (l.map fun q => (q.since, q.msg.vd, q))).map fun x => (x.1, some x.2)

/-- Two messages are copies of one: source, destination, class and SEQ (R362). -/
def Msg.twin (m n : Msg) : Bool := m.src == n.src && m.dst == n.dst && m.cls == n.cls && m.seq == n.seq

/-- Flits of the relay reserve to give back to a source (R360). -/
def Fabric.owing (f : Fabric) (q : BitVec 7) : Nat := match f.owed.find? fun x => x.1 == q with | some x => x.2 | none => 0

/-- Some more flits to give back to a source. -/
def Fabric.owe (f : Fabric) (q : BitVec 7) (n : Nat) : Fabric := { f with owed := (q, f.owing q + n) :: f.owed.filter fun x => x.1 != q }

/-- A flit of a message is sent: its places on the sides, on both for C0 (R363), and its charge, once, to the VD of the originating agent (R339, R344). A
relayed message that is sent whole leaves the relay reserve, and its source is to have its credits back (R360, R365). -/
def State.sendFlit (s : State) (p : Nat) (q : Outgoing) (g : Option (Bool × Option (Nat × Nat))) : State :=
  let f := s.fab
  let u := f.use p
  let (a, b) : Option Nat × Option Nat := match f.spot p false q.since s.cycle, f.spot p true q.since s.cycle with
    | some x, some y => if q.msg.cls = 0 then (some x, some y) else if y < x then (none, some y) else (some x, none)
    | x, y => (x, y)
  let q' := { q with sent := q.sent + 1 }
  let over_ := decide (q.msg.flits ≤ q.sent + 1)
  let s := match g with | some (t1, ptr) => (s.movePtr (4, p) ptr).grantTier t1 4 p q.msg.vd 1 | none => s
  let s := { s with fab := { s.fab with
    uses := ⟨p, a.elim u.a (· + 1), b.elim u.b (· + 1), true⟩ :: s.fab.uses.filter (fun x => x.plane != p),
    outbox := s.fab.outbox ++ [⟨f.slotnow.toNat, p, a.isSome, b.isSome, q.msg, q.sent⟩],
    queue := if over_ then s.fab.queue.erase q else mapIf (fun x => x == q) (fun _ => q') s.fab.queue,
    relayed := if over_ && q.relay then s.fab.relayed.filter (fun x => !x.msg.twin q.msg) else s.fab.relayed } }
  if over_ && q.relay then { s with fab := s.fab.owe q.msg.src q.msg.flits } else s

/-- A plane fills its window up to now, a flit at a time. -/
def State.servePlane (s : State) (p : Nat) : Nat → State
  | 0 => s
  | n + 1 => match s.nextFlit p with | some (q, g) => (s.sendFlit p q g).servePlane p n | none => s

/-- The messages that wait for room are sent where it has come, and the planes fill their windows up to now. -/
def State.serveFabric (s : State) : State :=
  let s := s.pump
  if s.fab.queue.isEmpty then s
  else
    let n := s.fab.queue.foldl (fun n q => n + (q.msg.flits - q.sent)) 0
    (List.range 8).foldl (fun s p => s.servePlane p n) s

/-- The next slot from now on, this one among them where `now`, that joins a lit plane of this package to a peer, and the plane. -/
def Fabric.nextJoined (f : Fabric) (q : Nat) (now : Bool) : Option (Nat × Nat) :=
  (List.range (f.cycle + 1)).findSome? fun n =>
    if n = 0 ∧ !now then none
    else
      let k := f.slotnow.toNat + n
      ((List.range 8).find? fun p => f.lit p && f.joined f.pkg p (k % f.cycle) == q).map fun p => (k, p)

/-- Relay credit of a message that does not go through its relay after all, for some of its flits (R360). -/
def State.giveBack (s : State) (m : Msg) (n : Nat) : State :=
  if m.hop = 1 then { s with fab := { s.fab with spent := s.fab.spent.map fun x => if x.1 = m.via then (x.1, x.2 - n) else x } } else s

/-- What missed its window, as a slot begins (R368): a message that has sent none of its flits is routed again; the rest of a BULK is routed again as
a new message with a SEQ value of its own; a relayed message waits for the next slot joined to its destination. -/
def State.reroute (s : State) : State :=
  let k := s.fab.slotnow.toNat
  s.fab.queue.foldl (fun s q =>
    if (match q.hop with | some (j, _) => decide (k ≤ j) | none => false) then { s with fab := { s.fab with queue := s.fab.queue ++ [q] } }
    else if q.relay then { s with fab := { s.fab with queue := s.fab.queue ++ [{ q with hop := s.fab.nextJoined q.msg.dst.toNat true, sent := 0 }] } }
    else if q.sent ≠ 0 then
      let s := s.giveBack q.msg (q.msg.flits - q.sent)
      State.send { s with fab := { s.fab with unacked := mapIf (fun x => x == q.msg) (fun m => m.part q.sent) s.fab.unacked } } (q.msg.rest q.sent)
    else
      let (r, s) := (s.giveBack q.msg q.msg.flits).routed q.msg q.since
      { s with fab := { s.fab with queue := s.fab.queue ++ [r], unacked := mapIf (fun x => x == q.msg) (fun _ => r.msg) s.fab.unacked } })
    { s with fab := { s.fab with queue := [] } }

end Sys2Proof.Machine
end

