-- ==== Sys2Proof/Machine/VdTable.lean ====
section
/-!
DEFINITION. The entries of the VD table (R384, R385) and the memory of a partition (R315, R379, R383).
-/

namespace Sys2Proof.Machine

/-! ## VD table entries and partitions (R380, R384, R385) -/

/-- The HBM4E pseudo-channel or LPDDR-6 channel of a local address (R315). -/
def pseudoChannel (a : Nat) : Nat := a / 2 ^ 36 * 32 + a % 2 ^ 36 / 2 ^ 31
def lpChannel (a : Nat) : Nat := (a - 0x20000000000) / 2 ^ 37

/-- A local address lies in the memory of a partition (R379). -/
def PartDesc.owns (d : PartDesc) (a : Nat) : Bool :=
  match regionOf a with
  | .hbm => d.pch.getLsbD (pseudoChannel a)
  | .lpddr => d.lpch.getLsbD (lpChannel a)
  | _ => false

/-- The partition whose memory holds a local address. -/
def State.ownerOf (s : State) (a : Nat) : Option Nat :=
  (List.range 8).find? fun p => match (s.part p).desc with | some d => d.owns a | none => false

/-- The local address of a VD's table entry, where its partition has a table; one in another partition's memory is beyond it (R379, log 26). -/
def State.entryAt (s : State) (v : Nat) : Option Nat :=
  match s.partOf v with
  | some p =>
    let a := (s.part p).vdtab.toNat + 1024 * v
    if (s.part p).vdtab = 0 then none else match s.ownerOf a with | some o => if o = p then some a else none | none => some a
  | none => none

/-- A field of a VD's table entry: from the copy that VTREF took, else from the table in memory. -/
def State.vdField (s : State) (v off n : Nat) : Nat :=
  match (s.vd v).entry with
  | some bs => field bs off n
  | none => match s.entryAt v with | some a => s.mem.val (a + off) n | none => 0

/-- The root table page of a context, when its CTXROOT is valid. -/
def State.ctxRoot (s : State) (v c : Nat) : Option Nat :=
  let r := s.vdField v (8 * (c % 16)) 8
  if r % 2 = 1 then some (r / 2 ^ 12 % 2 ^ 40 * 2 ^ 12) else none

/-- Hardware that uses a VD's table entry without a copy takes one (R385). -/
def State.latch (s : State) (v : Nat) : State :=
  s.mapVd v fun d => { d with entry := match d.entry, s.entryAt v with | none, some a => some (s.mem.bytes a 1024) | e, _ => e }

/-- The control block of a partition (R383). -/
def partBlock (p : Nat) : Nat := 0x1F0000008000 + p * 0x1000

end Sys2Proof.Machine
end

