-- ==== Sys2Proof/Machine/Slices.lean ====
section
/-!
DEFINITION. The L2 slices and the system cache (R307, R310 to R313, R344, R392): the use of ways, their owners, the choice of a victim,
pinned lines, the reservations of protected worlds, and the errors a slice meets (R309, R414). A line's data stand in the memory, which holds
what the home holds.
-/

namespace Sys2Proof.Machine

/-! ## The memory controllers (R339) -/

/-- The memory controller behind a local address: its class and its number (R315, R339). -/
def controllerOf (a : Nat) : Option (Nat × Nat) :=
  match regionOf a with
  | .hbm | .relay => some (2, pseudoChannel a)
  | .lpddr => some (3, lpChannel a)
  | _ => none

/-- The grant of a memory controller: one request. One that the controller has granted before is not charged again. -/
def State.chargeMemory (s : State) (vd a : Nat) : State :=
  if s.arb.granted.contains (vd, a / 64) then { s with arb := { s.arb with granted := s.arb.granted.erase (vd, a / 64) } }
  else match controllerOf a with | some k => s.grant k.1 k.2 vd | none => s

/-- The dirty lines among some that leave their slice are written back, charged to their fillers; the copy in the memory devices is then written whole, and
an error that had struck it is gone (R414). -/
def State.writeBack (s : State) (l : List L2Line) : State :=
  (l.filter (·.dirty)).foldl (fun s x =>
    let s := match controllerOf (64 * x.line) with | some k => s.grant k.1 k.2 x.vd | none => s
    { s with badLines := s.badLines.erase x.line }) s

/-! ## Ways (R311, R344) -/

/-- The use of a way that is not shared. -/
def State.wayUse (s : State) (sl way : Nat) : Option WayUse := (s.ways.find? fun x => x.1 == (sl, way)).map (·.2)

/-- The shared ways of a slice, rising. -/
def State.sharedWays (s : State) (sl : Nat) : List Nat := (List.range 16).filter fun w => (s.wayUse sl w).isNone

/-- The ways of a slice with a use. -/
def State.waysOf (s : State) (sl : Nat) (u : WayUse) : List Nat := (List.range 16).filter fun w => s.wayUse sl w == some u

/-- The partition that holds a cluster, and with it the slice of that number (R380). -/
def State.partOfSlice (s : State) (sl : Nat) : Option Nat :=
  (List.range 8).find? fun p => match (s.part p).desc with | some d => d.quads.getLsbD (sl / 4) | none => false

/-- The guaranteed ways of the VDs of a slice's partition, by rising VD (R344). The partition's share of a slice's shared ways is all of them
where the slice is one of its clusters' (log 61). -/
def State.guarantees (s : State) (sl : Nat) : List (Nat × Nat) :=
  match s.partOfSlice sl with
  | some p => ((List.range 64).filter fun v => match (s.part p).desc with | some d => d.vds.getLsbD v | none => false).map fun v => (v, (s.rate v 1).rate.toNat)
  | none => []

/-- The VD whose guarantee covers the n-th way of a share. -/
def ownerAt : List (Nat × Nat) → Nat → Option Nat
  | [], _ => none
  | (v, r) :: t, n => if n < r then some v else ownerAt t (n - r)

/-- The owner of a shared way (R312, R344). -/
def State.wayOwner (s : State) (sl way : Nat) : Option Nat :=
  ((s.sharedWays sl).findIdx? fun w => w == way).bind (ownerAt (s.guarantees sl))

/-- The sum of the class-1 rates of a slice's partition. -/
def State.guaranteed (s : State) (sl : Nat) : Nat := (s.guarantees sl).foldl (fun n x => n + x.2) 0

/-- A line is pinned (R313). -/
def State.pinned (s : State) (line : Nat) : Bool := s.pins.any fun x => x.2 == line

/-- A way of a slice holds a pinned line. -/
def State.wayPinned (s : State) (sl way : Nat) : Bool := s.l2.any fun x => x.slice == sl && x.way == way && s.pinned x.line

/-- n more ways may leave shared use (R311, R344): two shared ways stay, and the share keeps the guaranteed ones. -/
def State.mayTake (s : State) (sl n : Nat) : Bool := decide (max 2 (s.guaranteed sl) + n ≤ (s.sharedWays sl).length)

/-- n ways taken out of shared use, the highest first, their dirty lines written back and their clean lines dropped; none while a pinned line
lies in one of them (R311). Which ways are taken is the model's choice (log 61). -/
def State.takeWays (s : State) (sl : Nat) (u : WayUse) (n : Nat) : Option State :=
  let l := ((s.sharedWays sl).filter fun w => !s.wayPinned sl w).reverse.take n
  if l.length < n then none
  else
    let out (x : L2Line) : Bool := x.slice == sl && l.contains x.way
    some (State.writeBack { s with ways := l.map (fun w => ((sl, w), u)) ++ s.ways, l2 := s.l2.filter fun x => !out x } (s.l2.filter out))

/-- Ways of a use returned to shared use empty, the lowest first, until n are left. -/
def State.freeWays (s : State) (sl : Nat) (u : WayUse) (n : Nat) : State :=
  let l := (s.waysOf sl u).reverse.drop n
  let out (x : L2Line) : Bool := x.slice == sl && l.contains x.way
  State.writeBack { s with ways := s.ways.filter fun x => !(x.1.1 == sl && l.contains x.1.2), l2 := s.l2.filter fun x => !out x } (s.l2.filter out)

/-! ## Victims (R312, R313) -/

/-- The last element of a list that a test names. -/
def lastWhere {α : Type} (p : α → Bool) (l : List α) : Option α := (l.filter p).getLast?

/-- The way in which a line is placed among some ways of its set: an invalid way, else that of the least recently used line that may go, one
marked first to evict before the others. -/
def State.victimIn (s : State) (set : List L2Line) (ways : List Nat) (may : L2Line → Bool) : Option Nat :=
  match ways.find? fun w => !set.any fun x => x.way == w with
  | some w => some w
  | none =>
    let may' (x : L2Line) : Bool := ways.contains x.way && !s.pinned x.line && may x
    match lastWhere (fun x => may' x && x.first) set with
    | some x => some x.way
    | none => (lastWhere may' set).map (·.way)

/-- The victim way for an access of VD v among the shared ways (R312). Whether an owner's miss may evict a line that it filled in its own way is said in two
ways: step 3 leaves such lines out for every miss, and "Protected lines" excepts the owner. The model follows step 3: no miss evicts them, and an owner
whose set holds nothing else bypasses (DESIGN CHOICE, log 80). -/
def State.victim (s : State) (sl v : Nat) (set : List L2Line) : Option Nat :=
  let ways := s.sharedWays sl
  match ways.find? fun w => !set.any fun x => x.way == w with
  | some w => some w
  | none =>
    match lastWhere (fun x => s.wayOwner sl x.way == some v && ways.contains x.way && x.vd != v && !s.pinned x.line) set with
    | some x => some x.way
    | none => s.victimIn set ways fun x => s.wayOwner sl x.way != some x.vd

/-- The lines of the set of a line. -/
def State.l2Set (s : State) (sl line : Nat) : List L2Line := s.l2.filter fun x => x.slice == sl && x.line % 32768 == line % 32768

/-- A line is held by its slice. -/
def State.inL2 (s : State) (line : Nat) : Bool := s.l2.any fun x => x.line == line

/-- A line put in a way of its slice, most recently used; what stood there leaves, written back before if it is dirty (R312). -/
def State.l2Put (s : State) (x : L2Line) : State :=
  let out (y : L2Line) : Bool := y.slice == x.slice && y.way == x.way && y.line % 32768 == x.line % 32768
  let s := s.writeBack (s.l2.filter out)
  { s with l2 := x :: s.l2.filter fun y => !out y }

/-! ## Worlds (R392) -/

/-- The ways the world of a KeyID reserves in each slice, KWAYS of its VD: 1 to 4, 0 for 1 (R384). -/
def State.kways (s : State) (key : Nat) : Nat :=
  match s.world? key with | some w => min 4 (max 1 (s.vdField w.vd 0x9C 4 % 8)) | none => 1

/-- A world reserves its ways in a slice the first time it fills a line there; a refusal stands. While a pinned line lies in a way it would
take, the line goes to a shared way. -/
def State.reserve (s : State) (sl key : Nat) : State :=
  let n := s.kways key
  if key = 0 ∨ !(s.waysOf sl (.world key)).isEmpty ∨ s.refusals.contains (key, sl) then s
  else if !s.mayTake sl n then { s with refusals := (key, sl) :: s.refusals }
  else (s.takeWays sl (.world key) n).getD s

/-- The ways of a world returned, its dirty lines sealed and written back (R393). -/
def State.releaseWorld (s : State) (key : Nat) : State :=
  let l := (s.ways.filter fun x => x.2 == .world key).map (·.1)
  let s := s.writeBack (s.l2.filter fun x => l.contains (x.slice, x.way))
  { s with ways := s.ways.filter (fun x => !(x.2 == .world key)), l2 := s.l2.filter (fun x => !l.contains (x.slice, x.way)),
           refusals := s.refusals.filter fun x => x.1 != key }

/-! ## Accesses at a slice -/

/-- A line that comes from the memory devices under an uncorrectable error: the slice marks each of its 16 words (R414). -/
def State.arriveBad (s : State) (line : Nat) : State :=
  if s.badLines.contains line then
    { s with badLines := s.badLines.erase line,
             mem := { s.mem with marks := (List.range 16).foldl (fun m i => insertRising (16 * line + i) m) s.mem.marks } }
  else s

/-- The counters of class 1: a fill of a VD in a way it owns, or elsewhere (R342, R344). -/
def State.countFill (s : State) (sl way v : Nat) : State :=
  s.mapRate v 1 fun r => if s.wayOwner sl way == some v then { r with g1 := r.g1 + 1 } else { r with g2 := r.g2 + 1 }

/-- An access of VD v under a key at a line's home slice (R312, R313, R167): a hit makes the line the most recently used; a miss brings it in, in a way
that the rules give or in none, and is one request of the memory's controller (R339). `wr`: it writes; `first`: it marks the line first to evict. Memory outside HBM4E, LPDDR-6
and the relay reserve has no slice. -/
def State.l2Use (s : State) (v key line : Nat) (wr first : Bool) : State :=
  match regionOf (64 * line) with
  | .hbm | .relay | .lpddr =>
    let sl := homeSlice (64 * line)
    match s.l2.find? fun x => x.line == line with
    | some x => { s with l2 := { x with dirty := x.dirty || wr } :: s.l2.filter fun y => y.line != line }
    | none =>
      let s := ((s.arriveBad line).chargeMemory v (64 * line)).reserve sl key
      let set := s.l2Set sl line
      let own := if key = 0 then [] else s.waysOf sl (.world key)
      match (if own.isEmpty then s.victim sl v set else s.victimIn set own fun _ => true) with
      | some w => (s.l2Put ⟨sl, w, line, v, wr, first⟩).countFill sl w v
      | none => s
  | _ => s

/-- A request of VD v for a line has to wait at its memory controller: the slice does not hold the line, the controller has not granted it yet, and it does not
serve it now (R339, R340); the controller. -/
def State.mustWait (s : State) (v line : Nat) : Option (Nat × Nat) :=
  if s.inL2 line || s.arb.granted.contains (v, line) then none
  else (controllerOf (64 * line)).filter fun k => s.memWaits k.1 k.2 v

/-- A request waits at a controller; once it is granted, an event goes on with it. -/
def State.waitMemory (s : State) (k : Nat × Nat) (v line : Nat) (e : Event) : State :=
  if s.arb.queue.any fun x => x.vd == v && x.line == line && x.ev == e then s
  else { s with arb := { s.arb with queue := s.arb.queue ++ [⟨k.1, k.2, v, line, s.cycle, e⟩] } }

/-- The system cache drops a line before its home performs a write to it (R310). -/
def State.sysDrop (s : State) (line : Nat) : State := if s.sysCache.contains line then { s with sysCache := s.sysCache.erase line } else s

/-- A line that a Vent thread read is held in the system cache: 16 ways, in sets of the low bits of the line (log 61). -/
def State.sysKeep (s : State) (line : Nat) : State :=
  let l := s.sysCache.filter fun x => x != line
  let l := if (l.filter fun x => x % 65536 == line % 65536).length < 16 then l
    else match lastWhere (fun x => x % 65536 == line % 65536) l with | some y => l.erase y | none => l
  { s with sysCache := line :: l }

/-- A read of a line at its home slice, for a Vent thread by the system cache where that holds it (R310, R312). -/
def State.sliceRead (s : State) (vd key line : Nat) (vent first : Bool) : State :=
  if vent then (if s.sysCache.contains line then s else s.l2Use vd key line false first).sysKeep line else s.l2Use vd key line false first

/-- A write of a line at its home slice, once the system cache has dropped the line (R310, R312); it is no longer pinned for its command (R313). -/
def State.sliceWrite (s : State) (vd key line : Nat) (first : Bool) : State := (s.sysDrop line).l2Use vd key line true first

end Sys2Proof.Machine
end

