-- ==== Sys2Proof/Machine/Homes.lean ====
section
/-!
DEFINITION. Writes at their home here: the slices, the bytes, and the watches of the line, which every write by any agent wakes (R179,
R310, R312).
-/

namespace Sys2Proof.Machine

/-- The condition of a watch (R179). -/
def watchCond (c : Nat) (word cmp : Word) : Bool :=
  match c with
  | 0 => word == cmp | 1 => word != cmp | 2 => decide (cmp.toNat ≤ word.toNat) | _ => decide (word.toNat < cmp.toNat)

/-! ## Writes at a home -/

/-- The word a watch of this package waits for, and whether it is satisfied. -/
def State.watchSeen (s : State) (a : Access) : Option Word :=
  match a.kind with
  | .watch c =>
    let word := BitVec.ofNat 32 (leVal (s.getBytes a.keyid (localOf a.pa) 4))
    if watchCond c word (BitVec.ofNat 32 a.cmp.toNat) then some word else none
  | _ => none

/-- The word a watch of another package waits for, when it is satisfied. -/
def State.remoteSeen (s : State) (x : RemoteWatch) : Option Word :=
  let word := BitVec.ofNat 32 (leVal (s.getBytes 0 x.addr 4))
  if watchCond x.cond word x.cmp then some word else none

/-- A watch of this package has been satisfied by a word: its reply is due. -/
def State.watchDone (s : State) (id : Nat) (word : Word) : State :=
  (s.mapAcc id fun a => { a with data := word.zeroExtend 512, stage := .performed }).due [evn .waitmReply id]

/-- A watch of another package has been satisfied by a word: it ends with its reply (R179, R357). -/
def State.remoteWatchDone (s : State) (x : RemoteWatch) (word : Word) : State :=
  State.send { s with fab := { s.fab with watches := s.fab.watches.erase x } }
    { src := BitVec.ofNat 7 s.fab.pkg, dst := x.hdr.src, cls := 0, kind := 7, hop := 0, via := 0, seq := 0, vd := x.hdr.vd.toNat,
      pay := leBytes 2 x.entry ++ leBytes 1 0 ++ leBytes 1 x.nth ++ zeros 4 ++ leBytes 4 word.toNat }

/-- A place is free among the 4,096 watches of the slice of a local address (R179). -/
def State.watchRoom (s : State) (la : Nat) : Bool :=
  let same (b : Nat) : Bool := homeSlice b == homeSlice la
  decide ((s.accs.filter fun a => (match a.stage with | .watching => true | _ => false) && same (localOf a.pa)).length +
    (s.fab.watches.filter fun x => x.placed && same x.addr).length < 4096)

/-- After a write to a line, every watch on it is evaluated, on the word as the write left it, and replies where it is satisfied (R179): those of
this package, and those of others. A fault request whose DONE lies in the line is looked at again (R326). -/
def State.wakeWatches (s : State) (l : Nat) : State :=
  let mine := s.accs.filter fun a => (match a.stage with | .watching => true | _ => false) && a.pa / 64 == (s.podAddr 0) / 64 + l
  let s := mine.foldl (fun s a => match s.watchSeen a with | some x => s.watchDone a.id x | none => s) s
  let s := (s.fab.watches.filter fun x => x.placed && x.addr / 64 == l).foldl (fun s x =>
    match s.remoteSeen x with | some y => s.remoteWatchDone x y | none => s) s
  s.due (s.faults.filterMap fun f => match f.ring with | some a => if (a + 32) / 64 = l then some (evn .faultDone f.seq) else none | none => none)

/-- The lines of n bytes from an address. -/
def linesOf (a n : Nat) : List Nat := (List.range ((a % 64 + n + 63) / 64)).map fun i => a / 64 + i

/-- Bytes, given or kept, written for a VD at their home here, in local memory: the slices, the write, and the watches of its lines. -/
def State.homeWriteMasked (s : State) (vd key a : Nat) (first : Bool) (bs : List (Option Byte)) : State :=
  let ls := linesOf a bs.length
  ls.foldl State.wakeWatches ((ls.foldl (fun s l => s.sliceWrite vd key l first) s).putMasked key a bs)

def State.homeWrite (s : State) (vd key a : Nat) (bs : List Byte) : State := s.homeWriteMasked vd key a false (bs.map some)

/-- The VD that stands for none: what a unit without a VD fills and asks for is charged to no VD (log 61). -/
def noVd : Nat := 64

end Sys2Proof.Machine
end

