-- ==== Sys2Proof/Machine/Operands.lean ====
section
/-!
DEFINITION. The register operands of every instruction (R60, R61, R67, and the forms tables of chapters 05 to 09): which field names
a register, a pair or a group, what is read and what is written. The interlocks (R24), the allocation check (R38), the alignment
check (R61), the uniformity of an instruction (R62) and the runahead marks (R284) all follow from it.
-/

namespace Sys2Proof

/-- A register operand: the field, the registers of its group (its alignment too), how many of them are read and how many are
written, and the operand position POISON reports (R265: 0 D, 1 A, 2 B). -/
structure RegUse where
  f   : BitVec 6
  n   : Nat
  rd  : Nat
  wr  : Nat
  pos : Nat
deriving DecidableEq, Repr

/-- Registers of a block group (R155). -/
def groupSize (f : BitVec 6) : Nat :=
  if f = 5 ∨ f = 7 then 4 else if f = 3 ∨ f = 4 ∨ f = 6 then 2 else 1

/-- Elements of a register group by the format selector of TSTW and TSCL (R155): a position at or beyond them is not read. -/
def groupCount (f : BitVec 6) : Nat :=
  if f = 0 then 15 else if f = 1 ∨ f = 2 then 31 else if f = 3 ∨ f = 4 ∨ f = 6 then 62 else if f = 5 then 80 else 124

/-- Registers of a scratch access by its width code (R164, R175). -/
def scratchRegs (w : BitVec 3) : Nat := if w = 4 then 4 else if w = 3 then 2 else 1

/-- The register operands of an instruction; none for a tile command or an event. -/
def Instr.regs : Instr → List RegUse
  | .iadd d a b => [⟨d, 1, 0, 1, 0⟩, ⟨a, 1, 1, 0, 1⟩, ⟨b, 1, 1, 0, 2⟩]
  | .iaddi d a _ => [⟨d, 1, 0, 1, 0⟩, ⟨a, 1, 1, 0, 1⟩]
  | .isub d a b => [⟨d, 1, 0, 1, 0⟩, ⟨a, 1, 1, 0, 1⟩, ⟨b, 1, 1, 0, 2⟩]
  | .iadds d a b _ => [⟨d, 1, 0, 1, 0⟩, ⟨a, 1, 1, 0, 1⟩, ⟨b, 1, 1, 0, 2⟩]
  | .imul d a b => [⟨d, 1, 0, 1, 0⟩, ⟨a, 1, 1, 0, 1⟩, ⟨b, 1, 1, 0, 2⟩]
  | .imulh d a b _ => [⟨d, 1, 0, 1, 0⟩, ⟨a, 1, 1, 0, 1⟩, ⟨b, 1, 1, 0, 2⟩]
  | .imad d a b => [⟨d, 1, 1, 1, 0⟩, ⟨a, 1, 1, 0, 1⟩, ⟨b, 1, 1, 0, 2⟩]
  | .imadw d a b _ => [⟨d, 2, 2, 2, 0⟩, ⟨a, 1, 1, 0, 1⟩, ⟨b, 1, 1, 0, 2⟩]
  | .idiv d a b _ => [⟨d, 1, 0, 1, 0⟩, ⟨a, 1, 1, 0, 1⟩, ⟨b, 1, 1, 0, 2⟩]
  | .irem d a b _ => [⟨d, 1, 0, 1, 0⟩, ⟨a, 1, 1, 0, 1⟩, ⟨b, 1, 1, 0, 2⟩]
  | .imin d a b _ => [⟨d, 1, 0, 1, 0⟩, ⟨a, 1, 1, 0, 1⟩, ⟨b, 1, 1, 0, 2⟩]
  | .imax d a b _ => [⟨d, 1, 0, 1, 0⟩, ⟨a, 1, 1, 0, 1⟩, ⟨b, 1, 1, 0, 2⟩]
  | .iabs d a => [⟨d, 1, 0, 1, 0⟩, ⟨a, 1, 1, 0, 1⟩]
  | .ineg d a => [⟨d, 1, 0, 1, 0⟩, ⟨a, 1, 1, 0, 1⟩]
  | .lea d a b _ => [⟨d, 2, 0, 2, 0⟩, ⟨a, 2, 2, 0, 1⟩, ⟨b, 1, 1, 0, 2⟩]
  | .and d a b => [⟨d, 1, 0, 1, 0⟩, ⟨a, 1, 1, 0, 1⟩, ⟨b, 1, 1, 0, 2⟩]
  | .or d a b => [⟨d, 1, 0, 1, 0⟩, ⟨a, 1, 1, 0, 1⟩, ⟨b, 1, 1, 0, 2⟩]
  | .xor d a b => [⟨d, 1, 0, 1, 0⟩, ⟨a, 1, 1, 0, 1⟩, ⟨b, 1, 1, 0, 2⟩]
  | .andn d a b => [⟨d, 1, 0, 1, 0⟩, ⟨a, 1, 1, 0, 1⟩, ⟨b, 1, 1, 0, 2⟩]
  | .not d a => [⟨d, 1, 0, 1, 0⟩, ⟨a, 1, 1, 0, 1⟩]
  | .andi d a _ => [⟨d, 1, 0, 1, 0⟩, ⟨a, 1, 1, 0, 1⟩]
  | .ori d a _ => [⟨d, 1, 0, 1, 0⟩, ⟨a, 1, 1, 0, 1⟩]
  | .xori d a _ => [⟨d, 1, 0, 1, 0⟩, ⟨a, 1, 1, 0, 1⟩]
  | .shl d a b => [⟨d, 1, 0, 1, 0⟩, ⟨a, 1, 1, 0, 1⟩, ⟨b, 1, 1, 0, 2⟩]
  | .shrl d a b => [⟨d, 1, 0, 1, 0⟩, ⟨a, 1, 1, 0, 1⟩, ⟨b, 1, 1, 0, 2⟩]
  | .shra d a b => [⟨d, 1, 0, 1, 0⟩, ⟨a, 1, 1, 0, 1⟩, ⟨b, 1, 1, 0, 2⟩]
  | .shli d a _ => [⟨d, 1, 0, 1, 0⟩, ⟨a, 1, 1, 0, 1⟩]
  | .shrli d a _ => [⟨d, 1, 0, 1, 0⟩, ⟨a, 1, 1, 0, 1⟩]
  | .shrai d a _ => [⟨d, 1, 0, 1, 0⟩, ⟨a, 1, 1, 0, 1⟩]
  | .rotl d a b => [⟨d, 1, 0, 1, 0⟩, ⟨a, 1, 1, 0, 1⟩, ⟨b, 1, 1, 0, 2⟩]
  | .bfx d a b _ => [⟨d, 1, 0, 1, 0⟩, ⟨a, 1, 1, 0, 1⟩, ⟨b, 1, 1, 0, 2⟩]
  | .bfi d a b => [⟨d, 1, 1, 1, 0⟩, ⟨a, 1, 1, 0, 1⟩, ⟨b, 1, 1, 0, 2⟩]
  | .popc d a => [⟨d, 1, 0, 1, 0⟩, ⟨a, 1, 1, 0, 1⟩]
  | .clz d a => [⟨d, 1, 0, 1, 0⟩, ⟨a, 1, 1, 0, 1⟩]
  | .brev d a => [⟨d, 1, 0, 1, 0⟩, ⟨a, 1, 1, 0, 1⟩]
  | .pdot4 d a b _ => [⟨d, 1, 1, 1, 0⟩, ⟨a, 1, 1, 0, 1⟩, ⟨b, 1, 1, 0, 2⟩]
  | .padd4 d a b => [⟨d, 1, 0, 1, 0⟩, ⟨a, 1, 1, 0, 1⟩, ⟨b, 1, 1, 0, 2⟩]
  | .padd4Ss d a b => [⟨d, 1, 0, 1, 0⟩, ⟨a, 1, 1, 0, 1⟩, ⟨b, 1, 1, 0, 2⟩]
  | .padd4Us d a b => [⟨d, 1, 0, 1, 0⟩, ⟨a, 1, 1, 0, 1⟩, ⟨b, 1, 1, 0, 2⟩]
  | .ldi d _ => [⟨d, 1, 0, 1, 0⟩]
  | .mov d a => [⟨d, 1, 0, 1, 0⟩, ⟨a, 1, 1, 0, 1⟩]
  | .sel d a b _ => [⟨d, 1, 0, 1, 0⟩, ⟨a, 1, 1, 0, 1⟩, ⟨b, 1, 1, 0, 2⟩]
  | .icmp _ _ a b => [⟨a, 1, 1, 0, 1⟩, ⟨b, 1, 1, 0, 2⟩]
  | .icmpi _ _ a _ => [⟨a, 1, 1, 0, 1⟩]
  | .plog _ _ _ _ _ => []
  | .wredAdd d a => [⟨d, 1, 0, 1, 0⟩, ⟨a, 1, 1, 0, 1⟩]
  | .wredMin d a => [⟨d, 1, 0, 1, 0⟩, ⟨a, 1, 1, 0, 1⟩]
  | .wredMax d a => [⟨d, 1, 0, 1, 0⟩, ⟨a, 1, 1, 0, 1⟩]
  | .wredOr d a => [⟨d, 1, 0, 1, 0⟩, ⟨a, 1, 1, 0, 1⟩]
  | .pmovToReg d => [⟨d, 1, 0, 1, 0⟩]
  | .pmovToPreds a => [⟨a, 1, 1, 0, 1⟩]
  | .movs d i => [⟨d, (if i = 0x0C ∨ i = 0x0D then 2 else 1), 0, (if i = 0x0C ∨ i = 0x0D then 2 else 1), 0⟩]
  | .movcRead d i => [⟨d, (if i = 0x20 ∨ i = 0x21 then 2 else 1), 0, (if i = 0x20 ∨ i = 0x21 then 2 else 1), 0⟩]
  | .movcWrite a i => [⟨a, (if i = 0x20 then 2 else 1), (if i = 0x20 then 2 else 1), 0, 1⟩]
  | .bra _ => []
  | .brp _ _ _ => []
  | .jmpi a => [⟨a, 2, 2, 0, 1⟩]
  | .call _ => []
  | .calli a => [⟨a, 2, 2, 0, 1⟩]
  | .ret => []
  | .exit => []
  | .jset _ => []
  | .join _ => []
  | .jdrop _ => []
  | .yield => []
  | .rgn => []
  | .vgrow _ => []
  | .vshrink _ => []
  | .voteAny d a => [⟨d, 1, 0, 1, 0⟩, ⟨a, 1, 1, 0, 1⟩]
  | .voteAll d a => [⟨d, 1, 0, 1, 0⟩, ⟨a, 1, 1, 0, 1⟩]
  | .voteBallot d a => [⟨d, 1, 0, 1, 0⟩, ⟨a, 1, 1, 0, 1⟩]
  | .shflIdx d a b => [⟨d, 1, 0, 1, 0⟩, ⟨a, 1, 1, 0, 1⟩, ⟨b, 1, 1, 0, 2⟩]
  | .shflUp d a b => [⟨d, 1, 0, 1, 0⟩, ⟨a, 1, 1, 0, 1⟩, ⟨b, 1, 1, 0, 2⟩]
  | .shflDown d a b => [⟨d, 1, 0, 1, 0⟩, ⟨a, 1, 1, 0, 1⟩, ⟨b, 1, 1, 0, 2⟩]
  | .shflXor d a b => [⟨d, 1, 0, 1, 0⟩, ⟨a, 1, 1, 0, 1⟩, ⟨b, 1, 1, 0, 2⟩]
  | .fadd d a b => [⟨d, 1, 0, 1, 0⟩, ⟨a, 1, 1, 0, 1⟩, ⟨b, 1, 1, 0, 2⟩]
  | .fsub d a b => [⟨d, 1, 0, 1, 0⟩, ⟨a, 1, 1, 0, 1⟩, ⟨b, 1, 1, 0, 2⟩]
  | .fmul d a b => [⟨d, 1, 0, 1, 0⟩, ⟨a, 1, 1, 0, 1⟩, ⟨b, 1, 1, 0, 2⟩]
  | .ffma d a b => [⟨d, 1, 1, 1, 0⟩, ⟨a, 1, 1, 0, 1⟩, ⟨b, 1, 1, 0, 2⟩]
  | .fmin d a b => [⟨d, 1, 0, 1, 0⟩, ⟨a, 1, 1, 0, 1⟩, ⟨b, 1, 1, 0, 2⟩]
  | .fmax d a b => [⟨d, 1, 0, 1, 0⟩, ⟨a, 1, 1, 0, 1⟩, ⟨b, 1, 1, 0, 2⟩]
  | .fabs d a => [⟨d, 1, 0, 1, 0⟩, ⟨a, 1, 1, 0, 1⟩]
  | .fneg d a => [⟨d, 1, 0, 1, 0⟩, ⟨a, 1, 1, 0, 1⟩]
  | .fcmp _ _ a b => [⟨a, 1, 1, 0, 1⟩, ⟨b, 1, 1, 0, 2⟩]
  | .fclass d a => [⟨d, 1, 0, 1, 0⟩, ⟨a, 1, 1, 0, 1⟩]
  | .fdiv d a b => [⟨d, 1, 0, 1, 0⟩, ⟨a, 1, 1, 0, 1⟩, ⟨b, 1, 1, 0, 2⟩]
  | .fsqrt d a => [⟨d, 1, 0, 1, 0⟩, ⟨a, 1, 1, 0, 1⟩]
  | .frcp d a => [⟨d, 1, 0, 1, 0⟩, ⟨a, 1, 1, 0, 1⟩]
  | .frsq d a => [⟨d, 1, 0, 1, 0⟩, ⟨a, 1, 1, 0, 1⟩]
  | .fex2 d a => [⟨d, 1, 0, 1, 0⟩, ⟨a, 1, 1, 0, 1⟩]
  | .flg2 d a => [⟨d, 1, 0, 1, 0⟩, ⟨a, 1, 1, 0, 1⟩]
  | .fsinp d a => [⟨d, 1, 0, 1, 0⟩, ⟨a, 1, 1, 0, 1⟩]
  | .fcosp d a => [⟨d, 1, 0, 1, 0⟩, ⟨a, 1, 1, 0, 1⟩]
  | .ftanh d a => [⟨d, 1, 0, 1, 0⟩, ⟨a, 1, 1, 0, 1⟩]
  | .fscale d a b => [⟨d, 1, 0, 1, 0⟩, ⟨a, 1, 1, 0, 1⟩, ⟨b, 1, 1, 0, 2⟩]
  | .frnd d a => [⟨d, 1, 0, 1, 0⟩, ⟨a, 1, 1, 0, 1⟩]
  | .f2i d a _ => [⟨d, 1, 0, 1, 0⟩, ⟨a, 1, 1, 0, 1⟩]
  | .i2f d a _ => [⟨d, 1, 0, 1, 0⟩, ⟨a, 1, 1, 0, 1⟩]
  | .fcvto d a _ => [⟨d, 1, 0, 1, 0⟩, ⟨a, 1, 1, 0, 1⟩]
  | .fcvti d a _ => [⟨d, 1, 0, 1, 0⟩, ⟨a, 1, 1, 0, 1⟩]
  | .hadd2 d a b => [⟨d, 1, 0, 1, 0⟩, ⟨a, 1, 1, 0, 1⟩, ⟨b, 1, 1, 0, 2⟩]
  | .hmul2 d a b => [⟨d, 1, 0, 1, 0⟩, ⟨a, 1, 1, 0, 1⟩, ⟨b, 1, 1, 0, 2⟩]
  | .hfma2 d a b => [⟨d, 1, 1, 1, 0⟩, ⟨a, 1, 1, 0, 1⟩, ⟨b, 1, 1, 0, 2⟩]
  | .badd2 d a b => [⟨d, 1, 0, 1, 0⟩, ⟨a, 1, 1, 0, 1⟩, ⟨b, 1, 1, 0, 2⟩]
  | .bmul2 d a b => [⟨d, 1, 0, 1, 0⟩, ⟨a, 1, 1, 0, 1⟩, ⟨b, 1, 1, 0, 2⟩]
  | .bfma2 d a b => [⟨d, 1, 1, 1, 0⟩, ⟨a, 1, 1, 0, 1⟩, ⟨b, 1, 1, 0, 2⟩]
  | .hdot2F16 d a b => [⟨d, 1, 1, 1, 0⟩, ⟨a, 1, 1, 0, 1⟩, ⟨b, 1, 1, 0, 2⟩]
  | .hdot2Bf16 d a b => [⟨d, 1, 1, 1, 0⟩, ⟨a, 1, 1, 0, 1⟩, ⟨b, 1, 1, 0, 2⟩]
  | .tld d a _ => [⟨d, 1, 1, 1, 0⟩, ⟨a, 2, 2, 0, 1⟩]
  | .tldh d a _ => [⟨d, 1, 0, 1, 0⟩, ⟨a, 2, 2, 0, 1⟩]
  | .tstw d a f _ => [⟨d, (groupSize f), (groupSize f), 0, 0⟩, ⟨a, 2, 2, 0, 1⟩]
  | .tscl d a f => [⟨d, 1, 0, 1, 0⟩, ⟨a, (groupSize f), (groupSize f), 0, 1⟩]
  | .tste d a b => [⟨d, 1, 1, 0, 0⟩, ⟨a, 2, 2, 0, 1⟩, ⟨b, 1, 1, 0, 2⟩]
  | .psnq d a => [⟨d, 1, 0, 1, 0⟩, ⟨a, 1, 1, 0, 1⟩]
  | .psns d a => [⟨d, 1, 0, 1, 0⟩, ⟨a, 1, 1, 0, 1⟩]
  | .psnc d a => [⟨d, 1, 0, 1, 0⟩, ⟨a, 1, 1, 0, 1⟩]
  | .ldb d a _ => [⟨d, 1, 0, 1, 0⟩, ⟨a, 2, 2, 0, 1⟩]
  | .ldh d a _ => [⟨d, 1, 0, 1, 0⟩, ⟨a, 2, 2, 0, 1⟩]
  | .ldw d a _ => [⟨d, 1, 0, 1, 0⟩, ⟨a, 2, 2, 0, 1⟩]
  | .ldd d a _ => [⟨d, 2, 0, 2, 0⟩, ⟨a, 2, 2, 0, 1⟩]
  | .ldq d a _ => [⟨d, 4, 0, 4, 0⟩, ⟨a, 2, 2, 0, 1⟩]
  | .stb d a _ => [⟨d, 1, 1, 0, 0⟩, ⟨a, 2, 2, 0, 1⟩]
  | .sth d a _ => [⟨d, 1, 1, 0, 0⟩, ⟨a, 2, 2, 0, 1⟩]
  | .stw d a _ => [⟨d, 1, 1, 0, 0⟩, ⟨a, 2, 2, 0, 1⟩]
  | .std d a _ => [⟨d, 2, 2, 0, 0⟩, ⟨a, 2, 2, 0, 1⟩]
  | .stq d a _ => [⟨d, 4, 4, 0, 0⟩, ⟨a, 2, 2, 0, 1⟩]
  | .lda d a w _ => [⟨d, (2 ^ w.toNat), 0, (2 ^ w.toNat), 0⟩, ⟨a, 2, 2, 0, 1⟩]
  | .stl d a w _ => [⟨d, (2 ^ w.toNat), (2 ^ w.toNat), 0, 0⟩, ⟨a, 2, 2, 0, 1⟩]
  | .fenceFull _ => []
  | .fenceAcq _ => []
  | .fenceRel _ => []
  | .lds d a w _ => [⟨d, (scratchRegs w), 0, (scratchRegs w), 0⟩, ⟨a, 1, 1, 0, 1⟩]
  | .sts d a w _ => [⟨d, (scratchRegs w), (scratchRegs w), 0, 0⟩, ⟨a, 1, 1, 0, 1⟩]
  | .atadd d a r x _ => [⟨d, (x.toNat + 1), (x.toNat + 1), (r.toNat * (x.toNat + 1)), 0⟩, ⟨a, 2, 2, 0, 1⟩]
  | .atsub d a r x _ => [⟨d, (x.toNat + 1), (x.toNat + 1), (r.toNat * (x.toNat + 1)), 0⟩, ⟨a, 2, 2, 0, 1⟩]
  | .atmins d a r x _ => [⟨d, (x.toNat + 1), (x.toNat + 1), (r.toNat * (x.toNat + 1)), 0⟩, ⟨a, 2, 2, 0, 1⟩]
  | .atminz d a r x _ => [⟨d, (x.toNat + 1), (x.toNat + 1), (r.toNat * (x.toNat + 1)), 0⟩, ⟨a, 2, 2, 0, 1⟩]
  | .atmaxs d a r x _ => [⟨d, (x.toNat + 1), (x.toNat + 1), (r.toNat * (x.toNat + 1)), 0⟩, ⟨a, 2, 2, 0, 1⟩]
  | .atmaxz d a r x _ => [⟨d, (x.toNat + 1), (x.toNat + 1), (r.toNat * (x.toNat + 1)), 0⟩, ⟨a, 2, 2, 0, 1⟩]
  | .atand d a r x _ => [⟨d, (x.toNat + 1), (x.toNat + 1), (r.toNat * (x.toNat + 1)), 0⟩, ⟨a, 2, 2, 0, 1⟩]
  | .ator d a r x _ => [⟨d, (x.toNat + 1), (x.toNat + 1), (r.toNat * (x.toNat + 1)), 0⟩, ⟨a, 2, 2, 0, 1⟩]
  | .atxor d a r x _ => [⟨d, (x.toNat + 1), (x.toNat + 1), (r.toNat * (x.toNat + 1)), 0⟩, ⟨a, 2, 2, 0, 1⟩]
  | .atxch d a r x _ => [⟨d, (x.toNat + 1), (x.toNat + 1), (r.toNat * (x.toNat + 1)), 0⟩, ⟨a, 2, 2, 0, 1⟩]
  | .atinc d a r x _ => [⟨d, (x.toNat + 1), (x.toNat + 1), (r.toNat * (x.toNat + 1)), 0⟩, ⟨a, 2, 2, 0, 1⟩]
  | .atfadd d a r _ => [⟨d, 1, 1, r.toNat, 0⟩, ⟨a, 2, 2, 0, 1⟩]
  | .atfmin d a r _ => [⟨d, 1, 1, r.toNat, 0⟩, ⟨a, 2, 2, 0, 1⟩]
  | .atfmax d a r _ => [⟨d, 1, 1, r.toNat, 0⟩, ⟨a, 2, 2, 0, 1⟩]
  | .atcas d a r _ => [⟨d, 2, 2, r.toNat, 0⟩, ⟨a, 2, 2, 0, 1⟩]
  | .atcas64 d a r _ => [⟨d, 4, 4, (2 * r.toNat), 0⟩, ⟨a, 2, 2, 0, 1⟩]
  | .bar a _ => [⟨a, 1, 1, 0, 1⟩]
  | .bara a _ => [⟨a, 1, 1, 0, 1⟩]
  | .barw _ => []
  | .waitm d a b _ => [⟨d, 1, 0, 1, 0⟩, ⟨a, 2, 2, 0, 1⟩, ⟨b, 1, 1, 0, 2⟩]
  | .pref a _ => [⟨a, 2, 2, 0, 1⟩]
  | .rget d _ => [⟨d, 1, 0, 1, 0⟩]
  | .rput _ => []
  | .rfree _ => []
  | .rtake d _ => [⟨d, 1, 0, 1, 0⟩]
  | .invl1 => []
  | .waitf a => [⟨a, 1, 1, 0, 1⟩]
  | .ackq d => [⟨d, 1, 0, 1, 0⟩]
  | .opinst d a _ => [⟨d, 1, 1, 0, 0⟩, ⟨a, 2, 2, 0, 1⟩]
  | .opfree a => [⟨a, 1, 1, 0, 1⟩]
  | .opswap a => [⟨a, 1, 1, 0, 1⟩]
  | .opqry d a b => [⟨d, 1, 0, 1, 0⟩, ⟨a, 1, 1, 0, 1⟩, ⟨b, 1, 1, 0, 2⟩]
  | .opfire a b => [⟨a, 1, 1, 0, 1⟩, ⟨b, 1, 1, 0, 2⟩]
  | .opdrop a b => [⟨a, 1, 1, 0, 1⟩, ⟨b, 1, 1, 0, 2⟩]
  | .opfence => []
  | .opgrant d a b => [⟨d, 1, 1, 0, 0⟩, ⟨a, 1, 1, 0, 1⟩, ⟨b, 1, 1, 0, 2⟩]
  | .opwait d a b => [⟨d, 1, 0, 1, 0⟩, ⟨a, 1, 1, 0, 1⟩, ⟨b, 1, 1, 0, 2⟩]
  | .opseq a => [⟨a, 1, 1, 0, 1⟩]
  | .tmul _ _ _ _ => []
  | .tmac _ _ _ _ => []
  | .tzero _ _ _ _ => []
  | .tacopy _ _ _ _ => []
  | .taload _ _ _ _ => []
  | .tring _ _ _ _ => []
  | .tsig _ _ _ _ => []
  | .tset _ _ _ _ => []
  | .taddq _ _ _ _ => []
  | .tloop _ _ _ _ => []
  | .tjmp _ _ _ _ => []
  | .twaitc _ _ _ _ => []
  | .tend _ _ _ _ => []
  | .tswap _ _ _ _ => []
  | .cpy d a k _ => [⟨d, (if k = 1 then 1 else 2), (if k = 1 then 1 else 2), 0, 0⟩, ⟨a, 2, 2, 0, 1⟩]
  | .gath a => [⟨a, 2, 2, 0, 1⟩]
  | .scat a => [⟨a, 2, 2, 0, 1⟩]
  | .cpyw a => [⟨a, 2, 2, 0, 1⟩]
  | .shdwBind d a => [⟨d, 1, 0, 1, 0⟩, ⟨a, 2, 2, 0, 1⟩]
  | .shdwFree a => [⟨a, 1, 1, 0, 1⟩]
  | .shdwGen d a => [⟨d, 1, 0, 1, 0⟩, ⟨a, 1, 1, 0, 1⟩]
  | .publish a _ => [⟨a, 1, 1, 0, 1⟩]
  | .shadowFlip => []
  | .coll d a => [⟨d, 1, 0, 1, 0⟩, ⟨a, 2, 2, 0, 1⟩]
  | .collw d a => [⟨d, 1, 0, 1, 0⟩, ⟨a, 1, 1, 0, 1⟩]
  | .mcast a => [⟨a, 2, 2, 0, 1⟩]
  | .launch d a b => [⟨d, 1, 0, 1, 0⟩, ⟨a, 2, 2, 0, 1⟩, ⟨b, 1, 1, 0, 2⟩]
  | .lwait d a => [⟨d, 1, 0, 1, 0⟩, ⟨a, 1, 1, 0, 1⟩]
  | .svc d a _ => [⟨d, 2, 0, 2, 0⟩, ⟨a, 2, 2, 0, 1⟩]
  | .trap a _ => [⟨a, 1, 1, 0, 1⟩]
  | .notify a b => [⟨a, 1, 1, 0, 1⟩, ⟨b, 1, 1, 0, 2⟩]
  | .errpop d a => [⟨d, 1, 0, 1, 0⟩, ⟨a, 2, 2, 0, 1⟩]
  | .slotqDirect d a b => [⟨d, 2, 0, 2, 0⟩, ⟨a, 1, 1, 0, 1⟩, ⟨b, 1, 1, 0, 2⟩]
  | .slotqRoute d a b => [⟨d, 2, 0, 2, 0⟩, ⟨a, 1, 1, 0, 1⟩, ⟨b, 1, 1, 0, 2⟩]
  | .svcreply d a b => [⟨d, 1, 0, 1, 0⟩, ⟨a, 1, 1, 0, 1⟩, ⟨b, 2, 2, 0, 2⟩]
  | .rtt => []
  | .tlbinvPage a b => [⟨a, 2, 2, 0, 1⟩, ⟨b, 1, 1, 0, 2⟩]
  | .tlbinvContext a b => [⟨a, 2, 2, 0, 1⟩, ⟨b, 1, 1, 0, 2⟩]
  | .tlbinvVd a b => [⟨a, 2, 2, 0, 1⟩, ⟨b, 1, 1, 0, 2⟩]
  | .tfence _ => []
  | .keyload d a b => [⟨d, 1, 0, 1, 0⟩, ⟨a, 2, 2, 0, 1⟩, ⟨b, 1, 1, 0, 2⟩]
  | .keyrevoke d a => [⟨d, 1, 0, 1, 0⟩, ⟨a, 1, 1, 0, 1⟩]
  | .qosset d a b => [⟨d, 1, 0, 1, 0⟩, ⟨a, 1, 1, 0, 1⟩, ⟨b, 2, 2, 0, 2⟩]
  | .ctxsave d a b => [⟨d, 1, 0, 1, 0⟩, ⟨a, 1, 1, 0, 1⟩, ⟨b, 1, 1, 0, 2⟩]
  | .ctxrest d a b => [⟨d, 1, 0, 1, 0⟩, ⟨a, 1, 1, 0, 1⟩, ⟨b, 1, 1, 0, 2⟩]
  | .ctxkill d a b => [⟨d, 1, 0, 1, 0⟩, ⟨a, 1, 1, 0, 1⟩, ⟨b, 1, 1, 0, 2⟩]
  | .pgsplit d a b => [⟨d, 2, 2, 1, 0⟩, ⟨a, 2, 2, 0, 1⟩, ⟨b, 1, 1, 0, 2⟩]
  | .wfi => []
  | .partctlAssign d a b => [⟨d, 1, 0, 1, 0⟩, ⟨a, 1, 1, 0, 1⟩, ⟨b, 2, 2, 0, 2⟩]
  | .partctlReset d a _ => [⟨d, 1, 0, 1, 0⟩, ⟨a, 1, 1, 0, 1⟩]
  | .partctlStop d a _ => [⟨d, 1, 0, 1, 0⟩, ⟨a, 1, 1, 0, 1⟩]
  | .quadsRetired => []
  | .sleep a => [⟨a, 1, 1, 0, 1⟩]
  | .halt => []
  | .himm _ => []
  | .hcls _ _ _ => []
  | .hmod _ _ _ => []
  | .hintReservedF6 _ _ => []
  | .hintReservedF8 _ _ => []
  | .loadDataArrival => []
  | .storeAck => []
  | .atomicReply => []
  | .waitmReply => []
  | .watchReevaluate => []
  | .homeAccess => []
  | .engineCommandComplete => []
  | .opinstComplete => []
  | .iwStoreArrival => []
  | .owLoadArrival => []
  | .fireStart => []
  | .fireComplete => []
  | .claimLimitExpiry => []
  | .unreadyLimitExpiry => []
  | .opwaitLimitExpiry => []
  | .joinRelease => []
  | .jointoExpiry => []
  | .bartoExpiry => []
  | .vgrowGrant => []
  | .vshrinkFree => []
  | .pageWalkComplete => []
  | .faultRequestPost => []
  | .faultDone => []
  | .logfullWake => []
  | .takeTraps => []
  | .trapRecordAppend => []
  | .tqtailWrite => []
  | .waveSave => []
  | .waittoExpiry => []
  | .preempttoExpiry => []
  | .waveRestore => []
  | .fumaroleEntry => []
  | .fumaroleExit => []
  | .waveEnd => []
  | .blockComplete => []
  | .launchDispatch => []
  | .blockPlace => []
  | .priorityPreempt => []
  | .launchComplete => []
  | .reclaimNotice => []
  | .reclaimtoExpiry => []
  | .coopPark => []
  | .thermalSample => []
  | .voltageDroop => []
  | .clusterSpareTakeover => []
  | .ventFailure => []
  | .collMatch => []
  | .collCombine => []
  | .worldRetire => []
  | .slotStart => []
  | .slotMark => []
  | .calendarLockLoss => []
  | .peerAbsent => []
  | .peerPresent => []
  | .read => []
  | .data => []
  | .write => []
  | .wack => []
  | .atom => []
  | .areply => []
  | .watch => []
  | .wreply => []
  | .bulk => []
  | .back => []
  | .abort => []
  | .dack => []
  | .retry => []
  | .credit => []
  | .idle => []
  | .relayForward => []
  | .wavelengthRetrain => []
  | .wavelengthSpare => []
  | .pcieInboundRead => []
  | .pcieInboundWrite => []
  | .pcieLinkDown => []
  | .pcieAerEvent => []
  | .getVersion => []
  | .getCapabilities => []
  | .negotiateAlgorithms => []
  | .getDigests => []
  | .getCertificate => []
  | .challenge => []
  | .getMeasurements => []
  | .spdmUnsupportedRequest => []
  | .sidebandPackageReset => []
  | .sidebandPartitionReset => []
  | .sidebandOtherMessage => []
  | .packageReset => []
  | .powerStateEntry => []
  | .powerStateExit => []
  | .powerExitComplete => []
  | .wakeatExpiry => []
  | .lattolWrite => []
  | .vtrefWrite => []
  | .qpendWrite => []
  | .qnextRead => []
  | .qdoneWrite => []
  | .uestaWrite => []
  | .gCounterRead => []
  | .clguarWrite => []
  | .rfmlockWrite => []
  | .kcmdGo => []
  | .registerWrite => []
  | .bucketRefill => []
  | .discardedFlit => []
  | .planeRestored => []
  | .memoryScrub => []
  | .powerRemoved => []
  | .pcieLinkUp => []
  | .keyUnitDone => []
  | .operatorCommandArrival => []
  | .tileCommandRetire => []
  | .privilegedCompletion => []

/-- Whether the rules of R62 other than the registers shut uniformity out: an instruction that reads a predicate other than p0, or
writes a predicate or a per-thread control register, or that R62 names as not uniform. -/
def Instr.perThread : Instr → Bool
  | .iadd _ _ _ => false
  | .iaddi _ _ _ => false
  | .isub _ _ _ => false
  | .iadds _ _ _ _ => false
  | .imul _ _ _ => false
  | .imulh _ _ _ _ => false
  | .imad _ _ _ => false
  | .imadw _ _ _ _ => false
  | .idiv _ _ _ _ => false
  | .irem _ _ _ _ => false
  | .imin _ _ _ _ => false
  | .imax _ _ _ _ => false
  | .iabs _ _ => false
  | .ineg _ _ => false
  | .lea _ _ _ _ => false
  | .and _ _ _ => false
  | .or _ _ _ => false
  | .xor _ _ _ => false
  | .andn _ _ _ => false
  | .not _ _ => false
  | .andi _ _ _ => false
  | .ori _ _ _ => false
  | .xori _ _ _ => false
  | .shl _ _ _ => false
  | .shrl _ _ _ => false
  | .shra _ _ _ => false
  | .shli _ _ _ => false
  | .shrli _ _ _ => false
  | .shrai _ _ _ => false
  | .rotl _ _ _ => false
  | .bfx _ _ _ _ => false
  | .bfi _ _ _ => false
  | .popc _ _ => false
  | .clz _ _ => false
  | .brev _ _ => false
  | .pdot4 _ _ _ _ => false
  | .padd4 _ _ _ => false
  | .padd4Ss _ _ _ => false
  | .padd4Us _ _ _ => false
  | .ldi _ _ => false
  | .mov _ _ => false
  | .sel _ _ _ p => p != 0
  | .icmp p _ _ _ => p != 0
  | .icmpi p _ _ _ => p != 0
  | .plog p x y z _ => p != 0 || x != 0 || y != 0 || z != 0
  | .wredAdd _ _ => false
  | .wredMin _ _ => false
  | .wredMax _ _ => false
  | .wredOr _ _ => false
  | .pmovToReg _ => true
  | .pmovToPreds _ => true
  | .movs _ _ => false
  | .movcRead _ _ => false
  | .movcWrite _ i => i == 0x20 || i == 0x23 || i == 0x24
  | .bra _ => true
  | .brp _ _ _ => true
  | .jmpi _ => false
  | .call _ => true
  | .calli _ => true
  | .ret => true
  | .exit => true
  | .jset _ => true
  | .join _ => true
  | .jdrop _ => true
  | .yield => true
  | .rgn => true
  | .vgrow _ => true
  | .vshrink _ => true
  | .voteAny _ _ => false
  | .voteAll _ _ => false
  | .voteBallot _ _ => false
  | .shflIdx _ _ _ => false
  | .shflUp _ _ _ => false
  | .shflDown _ _ _ => false
  | .shflXor _ _ _ => false
  | .fadd _ _ _ => false
  | .fsub _ _ _ => false
  | .fmul _ _ _ => false
  | .ffma _ _ _ => false
  | .fmin _ _ _ => false
  | .fmax _ _ _ => false
  | .fabs _ _ => false
  | .fneg _ _ => false
  | .fcmp p _ _ _ => p != 0
  | .fclass _ _ => false
  | .fdiv _ _ _ => false
  | .fsqrt _ _ => false
  | .frcp _ _ => false
  | .frsq _ _ => false
  | .fex2 _ _ => false
  | .flg2 _ _ => false
  | .fsinp _ _ => false
  | .fcosp _ _ => false
  | .ftanh _ _ => false
  | .fscale _ _ _ => false
  | .frnd _ _ => false
  | .f2i _ _ _ => false
  | .i2f _ _ _ => false
  | .fcvto _ _ _ => false
  | .fcvti _ _ _ => false
  | .hadd2 _ _ _ => false
  | .hmul2 _ _ _ => false
  | .hfma2 _ _ _ => false
  | .badd2 _ _ _ => false
  | .bmul2 _ _ _ => false
  | .bfma2 _ _ _ => false
  | .hdot2F16 _ _ _ => false
  | .hdot2Bf16 _ _ _ => false
  | .tld _ _ _ => false
  | .tldh _ _ _ => false
  | .tstw _ _ _ _ => false
  | .tscl _ _ _ => false
  | .tste _ _ _ => false
  | .psnq _ _ => false
  | .psns _ _ => false
  | .psnc _ _ => false
  | .ldb _ _ _ => false
  | .ldh _ _ _ => false
  | .ldw _ _ _ => false
  | .ldd _ _ _ => false
  | .ldq _ _ _ => false
  | .stb _ _ _ => false
  | .sth _ _ _ => false
  | .stw _ _ _ => false
  | .std _ _ _ => false
  | .stq _ _ _ => false
  | .lda _ _ _ _ => false
  | .stl _ _ _ _ => false
  | .fenceFull _ => true
  | .fenceAcq _ => true
  | .fenceRel _ => true
  | .lds _ _ _ _ => false
  | .sts _ _ _ _ => false
  | .atadd _ _ _ _ _ => false
  | .atsub _ _ _ _ _ => false
  | .atmins _ _ _ _ _ => false
  | .atminz _ _ _ _ _ => false
  | .atmaxs _ _ _ _ _ => false
  | .atmaxz _ _ _ _ _ => false
  | .atand _ _ _ _ _ => false
  | .ator _ _ _ _ _ => false
  | .atxor _ _ _ _ _ => false
  | .atxch _ _ _ _ _ => false
  | .atinc _ _ _ _ _ => false
  | .atfadd _ _ _ _ => false
  | .atfmin _ _ _ _ => false
  | .atfmax _ _ _ _ => false
  | .atcas _ _ _ _ => false
  | .atcas64 _ _ _ _ => false
  | .bar _ _ => false
  | .bara _ _ => false
  | .barw _ => false
  | .waitm _ _ _ _ => false
  | .pref _ _ => false
  | .rget _ _ => false
  | .rput _ => false
  | .rfree _ => false
  | .rtake _ _ => false
  | .invl1 => true
  | .waitf _ => false
  | .ackq _ => false
  | .opinst _ _ _ => false
  | .opfree _ => false
  | .opswap _ => false
  | .opqry _ _ _ => false
  | .opfire _ _ => false
  | .opdrop _ _ => false
  | .opfence => true
  | .opgrant _ _ _ => false
  | .opwait _ _ _ => false
  | .opseq _ => false
  | .tmul _ _ _ _ => true
  | .tmac _ _ _ _ => true
  | .tzero _ _ _ _ => true
  | .tacopy _ _ _ _ => true
  | .taload _ _ _ _ => true
  | .tring _ _ _ _ => true
  | .tsig _ _ _ _ => true
  | .tset _ _ _ _ => true
  | .taddq _ _ _ _ => true
  | .tloop _ _ _ _ => true
  | .tjmp _ _ _ _ => true
  | .twaitc _ _ _ _ => true
  | .tend _ _ _ _ => true
  | .tswap _ _ _ _ => true
  | .cpy _ _ _ _ => false
  | .gath _ => false
  | .scat _ => false
  | .cpyw _ => false
  | .shdwBind _ _ => false
  | .shdwFree _ => false
  | .shdwGen _ _ => false
  | .publish _ _ => false
  | .shadowFlip => true
  | .coll _ _ => false
  | .collw _ _ => false
  | .mcast _ => false
  | .launch _ _ _ => false
  | .lwait _ _ => false
  | .svc _ _ _ => false
  | .trap _ _ => false
  | .notify _ _ => false
  | .errpop _ _ => false
  | .slotqDirect _ _ _ => false
  | .slotqRoute _ _ _ => false
  | .svcreply _ _ _ => false
  | .rtt => true
  | .tlbinvPage _ _ => false
  | .tlbinvContext _ _ => false
  | .tlbinvVd _ _ => false
  | .tfence _ => true
  | .keyload _ _ _ => false
  | .keyrevoke _ _ => false
  | .qosset _ _ _ => false
  | .ctxsave _ _ _ => false
  | .ctxrest _ _ _ => false
  | .ctxkill _ _ _ => false
  | .pgsplit _ _ _ => false
  | .wfi => true
  | .partctlAssign _ _ _ => false
  | .partctlReset _ _ _ => false
  | .partctlStop _ _ _ => false
  | .quadsRetired => true
  | .sleep _ => false
  | .halt => true
  | .himm _ => true
  | .hcls _ _ _ => true
  | .hmod _ _ _ => true
  | .hintReservedF6 _ _ => true
  | .hintReservedF8 _ _ => true
  | .loadDataArrival => true
  | .storeAck => true
  | .atomicReply => true
  | .waitmReply => true
  | .watchReevaluate => true
  | .homeAccess => true
  | .engineCommandComplete => true
  | .opinstComplete => true
  | .iwStoreArrival => true
  | .owLoadArrival => true
  | .fireStart => true
  | .fireComplete => true
  | .claimLimitExpiry => true
  | .unreadyLimitExpiry => true
  | .opwaitLimitExpiry => true
  | .joinRelease => true
  | .jointoExpiry => true
  | .bartoExpiry => true
  | .vgrowGrant => true
  | .vshrinkFree => true
  | .pageWalkComplete => true
  | .faultRequestPost => true
  | .faultDone => true
  | .logfullWake => true
  | .takeTraps => true
  | .trapRecordAppend => true
  | .tqtailWrite => true
  | .waveSave => true
  | .waittoExpiry => true
  | .preempttoExpiry => true
  | .waveRestore => true
  | .fumaroleEntry => true
  | .fumaroleExit => true
  | .waveEnd => true
  | .blockComplete => true
  | .launchDispatch => true
  | .blockPlace => true
  | .priorityPreempt => true
  | .launchComplete => true
  | .reclaimNotice => true
  | .reclaimtoExpiry => true
  | .coopPark => true
  | .thermalSample => true
  | .voltageDroop => true
  | .clusterSpareTakeover => true
  | .ventFailure => true
  | .collMatch => true
  | .collCombine => true
  | .worldRetire => true
  | .slotStart => true
  | .slotMark => true
  | .calendarLockLoss => true
  | .peerAbsent => true
  | .peerPresent => true
  | .read => true
  | .data => true
  | .write => true
  | .wack => true
  | .atom => true
  | .areply => true
  | .watch => true
  | .wreply => true
  | .bulk => true
  | .back => true
  | .abort => true
  | .dack => true
  | .retry => true
  | .credit => true
  | .idle => true
  | .relayForward => true
  | .wavelengthRetrain => true
  | .wavelengthSpare => true
  | .pcieInboundRead => true
  | .pcieInboundWrite => true
  | .pcieLinkDown => true
  | .pcieAerEvent => true
  | .getVersion => true
  | .getCapabilities => true
  | .negotiateAlgorithms => true
  | .getDigests => true
  | .getCertificate => true
  | .challenge => true
  | .getMeasurements => true
  | .spdmUnsupportedRequest => true
  | .sidebandPackageReset => true
  | .sidebandPartitionReset => true
  | .sidebandOtherMessage => true
  | .packageReset => true
  | .powerStateEntry => true
  | .powerStateExit => true
  | .powerExitComplete => true
  | .wakeatExpiry => true
  | .lattolWrite => true
  | .vtrefWrite => true
  | .qpendWrite => true
  | .qnextRead => true
  | .qdoneWrite => true
  | .uestaWrite => true
  | .gCounterRead => true
  | .clguarWrite => true
  | .rfmlockWrite => true
  | .kcmdGo => true
  | .registerWrite => true
  | .bucketRefill => true
  | .discardedFlit => true
  | .planeRestored => true
  | .memoryScrub => true
  | .powerRemoved => true
  | .pcieLinkUp => true
  | .keyUnitDone => true
  | .operatorCommandArrival => true
  | .tileCommandRetire => true
  | .privilegedCompletion => true

/-- A uniform instruction (R62): every register it names is a k register, and nothing per-thread is read or written but sticky bits. -/
def Instr.uniform (i : Instr) : Bool := !i.perThread && i.regs.all (fun u => decide (48 ≤ u.f.toNat))

/-- An operand names a vector register at or beyond an allocation of n registers (R38). A pair or quad from v45 to v47 that is misaligned reaches
past v47 at an allocation of 48; the spec does not say which of the reasons 5 and 6 is reported, and the model reports 5 (DESIGN CHOICE, log 65). -/
def RegUse.beyond (n : Nat) (u : RegUse) : Bool := decide (u.f.toNat < 48) && decide (n < u.f.toNat + u.n)

/-- An operand is a pair or quad on a number that is not a multiple of its size (R61). -/
def RegUse.misaligned (u : RegUse) : Bool := u.f.toNat % u.n != 0

/-- R79 step 7: the reason of the register checks, 5 before 6. -/
def Instr.regCheck (alloc : Nat) (i : Instr) : Option UdiReason :=
  if i.regs.any (RegUse.beyond alloc) then some .beyondAlloc else if i.regs.any RegUse.misaligned then some .misaligned else none

/-- A well-formed instruction: its sub-fields are defined and its pairs and quads are aligned. -/
def Instr.wf (i : Instr) : Bool := i.fieldsOk && !i.regs.any RegUse.misaligned

/-- HIMM may precede the instruction (R69). -/
def Instr.takesHimm : Instr → Bool
  | .iaddi .. | .andi .. | .ori .. | .xori .. | .icmpi .. | .ldi .. | .ldb .. | .ldh .. | .ldw .. | .ldd .. | .ldq .. | .stb ..
  | .sth .. | .stw .. | .std .. | .stq .. | .tld .. | .tldh .. | .pref .. | .opinst .. | .lds .. | .sts .. | .bra .. | .call ..
  | .brp .. | .cpy .. => true
  | _ => false

/-- A long-latency instruction (R75). -/
def Instr.longLatency : Instr → Bool
  | .ldb .. | .ldh .. | .ldw .. | .ldd .. | .ldq .. | .stb .. | .sth .. | .stw .. | .std .. | .stq .. | .lda .. | .stl .. | .lds ..
  | .sts .. | .atadd .. | .atsub .. | .atmins .. | .atminz .. | .atmaxs .. | .atmaxz .. | .atand .. | .ator .. | .atxor .. | .atxch ..
  | .atinc .. | .atfadd .. | .atfmin .. | .atfmax .. | .atcas .. | .atcas64 .. | .pref .. | .tld .. | .tldh .. | .tstw .. | .tste ..
  | .opinst .. | .opfree .. | .opswap .. | .opqry .. | .opfire .. | .opdrop .. | .cpy .. | .gath .. | .scat .. | .cpyw ..
  | .shdwBind .. | .shdwFree .. | .publish .. | .coll .. | .collw .. | .mcast .. | .launch .. => true
  | _ => false

end Sys2Proof
end

