-- ==== Sys2Proof/Machine/Ops.lean ====
section
/-!
DEFINITION. The named operations every meaning is built from: error records (R396 to R400, R413); queue notices (R254); raising a trap, on a compute core (R270) and on a Vent thread (R257), and the
return from one; the two ways an instruction runs for its bundle (R21, R32); and the interlocks of R24.
-/

namespace Sys2Proof.Machine

/-- The outcome of a step of this machine. -/
abbrev Out := Host.Outcome State Fault Refusal

/-! ## Error records and notices (R254, R396 to R400, R413) -/

/-- An error entry as 32 bytes (R397). -/
def ErrEntry.bytes (e : ErrEntry) : List Byte :=
  leBytes 1 e.cls.code ++ leBytes 1 e.sev ++ leBytes 2 e.reason ++ leBytes 1 e.part ++ leBytes 1 e.vd ++ leBytes 1 e.pkg
    ++ leBytes 1 ((if e.phys then 1 else 0) + (if e.dropped then 2 else 0)) ++ leBytes 4 e.tag.toNat ++ leBytes 4 e.info.toNat
    ++ leBytes 8 e.addr.toNat ++ leBytes 8 e.time.toNat

/-- The entry of an event at this moment. -/
def State.entryOf (s : State) (cls : TrapClass) (sev reason part vd : Nat) (phys : Bool) (tag info : Word) (addr : DWord) : ErrEntry :=
  { cls := cls, sev := sev, reason := reason, part := part, vd := vd, pkg := s.fab.pkg, phys := phys, dropped := false, tag := tag,
    info := info, addr := addr, time := BitVec.ofNat 64 s.cycle }

/-- An entry appended to an error ring of 64; when it is full the event is dropped and UESTA.OVF set (R397). -/
def VdErr.append (e : VdErr) (x : ErrEntry) : VdErr :=
  if 64 ≤ e.ring.length then { e with dropped := true, uesta := e.uesta ||| 0x80000000 }
  else { e with ring := e.ring ++ [{ x with dropped := e.dropped }], dropped := false }

/-- The first bits of an entry as HDRLOG keeps them: bytes 0 to 15 (R398). -/
def hdrlogOf (x : ErrEntry) : BitVec 128 := BitVec.ofNat 128 (leVal (x.bytes.take 16))

/-- An uncorrectable event in the registers of its owner (R398): its UESTA bit; where its class is not masked and the ring has room,
its entry, and the first-error capture while HV is 0, which holds the entry as it stands in the ring. -/
def VdErr.log (e : VdErr) (x : ErrEntry) : VdErr :=
  let c := x.cls.code
  let e := { e with uesta := e.uesta ||| (1#32 <<< c) }
  if e.uemsk.getLsbD c then e
  else
    let full := decide (64 ≤ e.ring.length)
    let e' := e.append x
    if full || e.errcap.getLsbD 5 then e'
    else { e' with errcap := 0x20 ||| BitVec.ofNat 32 c, hdrlog := hdrlogOf { x with dropped := e.dropped } }

/-- A protected world whose launches end as a fatal error asks (R399): they are marked killed; WORLD_RETIRE does the rest. -/
def State.fatal (s : State) (key : Nat) : State :=
  { s with launches := mapIf (fun l => l.keyid == key) (fun l => { l with killed := true }) s.launches }.due [evn .worldRetire key]

/-- An entry of the management error log (R413): the layout of R397 with PART 0xFF. A full log, or one of no size, drops it. -/
def State.mlogEntry (s : State) (x : ErrEntry) : State :=
  let m := s.mgmt
  let n := (m.mlogsize.toNat % 65536)
  if n = 0 ∨ (m.mloghead.toNat + 1) % n = m.mlogtail.toNat % n then { s with mgmt := { m with mlogdrop := true } }
  else
    { s.homeWrite noVd 0 (m.mlogbase.toNat + 32 * m.mloghead.toNat) { x with part := 0xFF, dropped := m.mlogdrop }.bytes with
      mgmt := { m with mloghead := BitVec.ofNat 32 ((m.mloghead.toNat + 1) % n), mlogdrop := false } }

/-- An event of no VD in the management error log; `phys`: its address is physical. -/
def State.mlog (s : State) (cls : TrapClass) (sev reason : Nat) (info : Word) (addr : DWord) (phys : Bool) : State :=
  s.mlogEntry (s.entryOf cls sev reason 0xFF 0 phys 0 info addr)

/-- An uncorrectable event of a VD (R396 to R400): severity 1, or 2 when its class is fatal to the protected world of its agent. An event of a VD that no
partition owns goes to the management error log (R396, R413). -/
def State.logErr (s : State) (vd : Nat) (cls : TrapClass) (reason : Nat) (tag info : Word) (addr : DWord) (phys : Bool) (key : Nat) : State :=
  match s.partOf vd with
  | none => s.mlogEntry (s.entryOf cls 1 reason 0xFF vd phys tag info addr)
  | some p =>
    let fatal := decide (key ≠ 0) && (s.vd vd).err.uesev.getLsbD cls.code
    let x := s.entryOf cls (if fatal then 2 else 1) reason p vd phys tag info addr
    let s := s.mapVd vd fun v => { v with err := v.err.log x }
    if fatal then s.fatal key else s

/-- The class a correctable event's entry carries, which the spec does not state: a free value (log 24). -/
def correctableClass (n : Nat) : TrapClass :=
  match (Config.freeClass n).toNat with
  | 0 => .udi | 1 => .priv | 2 => .align | 3 => .page | 4 => .prot | 5 => .rdw | 6 => .krf | 7 => .poison | 8 => .opref
  | 9 => .opunr | 10 => .jto | 11 => .bardl | 12 => .absent | 13 => .ecc | _ => .swt

/-- A correctable event n of CESTA (R398): its bit, and an entry of severity 0 unless CEMSK masks it; of a VD that no partition owns, an entry of the
management error log. -/
def State.logCorr (s : State) (vd n : Nat) (addr : DWord) : State :=
  match s.partOf vd with
  | none => s.mlogEntry (s.entryOf (correctableClass n) 0 0 0xFF vd (n == 0) 0 0 addr)
  | some p =>
    let x := s.entryOf (correctableClass n) 0 0 p vd (n == 0) 0 0 addr
    s.mapVd vd fun v =>
      let e := { v.err with cesta := v.err.cesta ||| (1#32 <<< n) }
      { v with err := if e.cemsk.getLsbD n then e else e.append x }

/-- A thread woken after the instruction it blocked at has had its effect. -/
def Thread.wakeNext (th : Thread) (now : Nat) : Thread := { th with cond := .run, pc := th.pc + 4, since := now }

/-- A thread woken to issue the instruction it blocked at again. -/
def Thread.wakeAgain (th : Thread) (now : Nat) : Thread := { th with cond := .run, since := now }

/-- A thread blocked at a blocking point (R24): the PC stays. -/
def Thread.block (th : Thread) (w : Wake) (now : Nat) : Thread := { th with cond := .blocked w, since := now }

/-- Whether a wave is a Vent thread bound to a queue that waits in WFI. -/
def Wave.waitsOn (q : Nat) (w : Wave) : Bool :=
  w.isVent && w.queue == q && (match (w.th 0).cond with | .blocked .wfi => true | _ => false)

/-- Bits ORed into a queue's pending word; one Vent thread that waits for it in WFI is woken (R254). Which one of several the spec leaves open: the first
in the list of waves (DESIGN CHOICE, log 83). In PS3 it starts an exit (R408). -/
def State.notify (s : State) (q : Nat) (b : Word) : State :=
  let s := s.mapQueue q fun x => { x with pend := x.pend ||| b }
  let s := if s.plat.pscur = 3 then s.due [{ row := .powerStateExit, wake := .notify }] else s
  if (s.queue q).pend = 0 then s
  else
    match s.waves.find? (Wave.waitsOn q) with
    | none => s
    | some w => s.mapWave w.id fun w => w.mapTh 0 fun th => th.wakeNext s.cycle

/-! ## Taking an exception, and returning from one -/

def Level.code : Level → Nat
  | .u => 0 | .s => 1 | .m => 2
def Level.ofCode (n : Nat) : Level := match n with | 0 => .u | 1 => .s | _ => .m

/-- An address as a PC holds it: bits [1:0] are always zero (R26). -/
def pcOf (x : DWord) : DWord := x &&& ~~~3#64

/-- The vectors and frames of a Vent processor (R411). -/
def State.ventv (s : State) (proc : Nat) : VentV := s.mgmt.ventv[proc]?.getD ⟨0, 0, 0, 0⟩

/-- The frame address of a hardware thread for a level: the processor's frame base and 32 bytes a thread (R411). -/
def State.frameOf (s : State) (w : Wave) (lv : Level) : Nat :=
  match w.loc with
  | .vent proc hw =>
    let v := s.ventv proc
    (match lv with | .m => v.mframe | _ => v.sframe).toNat + 32 * hw
  | _ => 0

/-- The vector of a hardware thread for a level (R257). -/
def State.vectorOf (s : State) (w : Wave) (lv : Level) : DWord :=
  match w.loc with
  | .vent proc _ => pcOf (match lv with | .m => (s.ventv proc).mvec | _ => (s.ventv proc).svec)
  | _ => 0

/-- The four words of a trap frame (R257). The spec names the words and not the code of a level nor the places of class and
information in their word: levels 0, 1, 2 for U, S, M; the class in the low half, the information in the high half (DESIGN CHOICE, log 14). -/
def frameBytes (pc : DWord) (lv : Level) (cls : TrapClass) (info : Word) (arg : DWord) : List Byte :=
  leBytes 8 pc.toNat ++ leBytes 8 lv.code ++ leBytes 8 (cls.code + 2 ^ 32 * info.toNat) ++ leBytes 8 arg.toNat

/-- Entry of a Vent thread into the next level (R257): the frame receives the PC, the former level, the class and information, and
the SVC argument; the level rises and the PC becomes the vector. A trap at M stops the thread as HALT does and records the class in
the management error log. -/
def State.enter (s : State) (w : Wave) (cls : TrapClass) (info : Word) (pc : DWord) (arg : DWord) : State :=
  match w.level with
  | .m => (s.mapWave w.id fun w => { w with halted := true, pfx := none }).mlog cls 1 0 info pc false
  | lv =>
    let up : Level := match lv with | .u => .s | _ => .m
    let s := s.homeWrite w.agentVd 0 (s.frameOf w up) (frameBytes pc lv cls info arg)
    let v := s.vectorOf w up
    s.mapWave w.id fun w =>
      { w with level := up, pfx := none, threads := mapFrom (fun _ th => { th with pc := v, cond := .run, since := s.cycle }) 0 w.threads }

/-- A thread set aside with a trap (R270). -/
def Thread.raise (th : Thread) (cls : TrapClass) (reason : Nat) (info : Word) (pc addr : DWord) (now : Nat) : Thread :=
  { th with cond := .trapped ⟨cls, reason, info, pc, addr⟩, pc := pc, since := now }

/-- A deferred class raised in one thread (R270), with the PC it reports (R71); a Vent thread enters the next level (R257). In a
fumarole episode nothing is raised and the episode ends (R82). -/
def State.raise (s : State) (wid t : Nat) (cls : TrapClass) (reason : Nat) (info : Word) (pc addr : DWord) : State :=
  match s.wave? wid with
  | none => s
  | some w =>
    if w.episode.isSome then s.mapWave wid Wave.endEpisode
    else if w.isVent then s.enter w cls info pc 0
    else s.mapWave wid fun w => w.mapTh t fun th => th.raise cls reason info pc addr s.cycle

/-- RTT: the PC and the level come back from the frame of the current level (R257). An address that is no PC raises ALIGN (R26). The level never
rises, whatever the frame's word holds: a thread runs at no level above the one it was given (R49, log 14). -/
def State.leave (s : State) (w : Wave) : State :=
  let f := s.frameOf w w.level
  let pc := BitVec.ofNat 64 (s.mem.val f 8)
  if pc.toNat % 4 ≠ 0 then s.raise w.id 0 .align 0 (lowWord pc) s.issue.repPc pc
  else
    s.mapWave w.id fun w =>
      { w with level := Level.ofCode (min w.level.code (s.mem.val (f + 8) 8 % 4)),
               threads := mapFrom (fun _ th => { th with pc := pc }) 0 w.threads }

/-! ## Running an instruction for its bundle (R21, R32, R62) -/

/-- What one thread sees as an instruction runs: the machine and its wave before the instruction, itself, and the issue. -/
structure Ctx where
  s  : State
  w  : Wave
  t  : Nat
  th : Thread
  is : Issue

/-- What an instruction did in one thread: the thread after it, writes to k registers in order, the FPSTAT bits it sets and whether
it sets ERRSTAT.IZ; or the trap it raised. -/
inductive Res where
  | done (th : Thread) (kw : List (Nat × Reg)) (fp : BitVec 5) (iz : Bool)
  | trap (cls : TrapClass) (reason : Nat) (info : Word) (addr : DWord)

def Ctx.read (c : Ctx) (f : BitVec 6) : Reg := readReg c.w c.th f.toNat

/-- A pair: its value and whether either half is poisoned. -/
def Ctx.pair (c : Ctx) (f : BitVec 6) : DWord × Bool :=
  let lo := readReg c.w c.th f.toNat
  let hi := readReg c.w c.th (f.toNat + 1)
  (pairValue lo.val hi.val, lo.psn || hi.psn)

/-- The instruction has had its effect and the thread goes on at the next word. -/
def Ctx.next (c : Ctx) : Res := .done { c.th with pc := c.is.pc + 4 } [] 0 false

/-- Write of R21. -/
def Res.write (f : Nat) (r : Reg) : Res → Res
  | .done th kw fp iz =>
    if f < 48 then .done (setV th f r) kw fp iz else if f < 63 then .done th (kw ++ [(f - 48, r)]) fp iz else .done th kw fp iz
  | x => x

/-- A result in one register. -/
def Ctx.ret (c : Ctx) (d : BitVec 6) (x : Word) (p : Bool) : Res := c.next.write d.toNat ⟨x, p⟩

/-- A result in a pair. -/
def Ctx.ret2 (c : Ctx) (d : BitVec 6) (x : DWord) (p : Bool) : Res :=
  (c.next.write d.toNat ⟨lowWord x, p⟩).write (d.toNat + 1) ⟨highWord x, p⟩

/-- FPSTAT bits added to an effect. -/
def Res.flags (b : BitVec 5) : Res → Res
  | .done th kw fp iz => .done th kw (fp ||| b) iz
  | x => x

/-- The poisoned results of R109. -/
def poisonInt : Word := 0x80000000
def poisonFloat : Word := 0x7FC00000

/-- POISON with the position of the operand (R265). -/
def trapPoison (pos : Nat) : Res := .trap .poison 0 (BitVec.ofNat 32 pos) 0

/-- The bits an instruction sets, laid into the thread: FPSTAT is sticky, and so is ERRSTAT.IZ (R27, R28). -/
def Thread.sticky (th : Thread) (fp : BitVec 5) (iz : Bool) : Thread :=
  { th with fpstat := th.fpstat ||| fp.zeroExtend 32, errstat := if iz then th.errstat ||| 0x10 else th.errstat }

/-- The thread after its effect; a trapped thread is as it was. -/
def Res.thread (old : Thread) : Res → Thread
  | .done th _ fp iz => th.sticky fp iz
  | .trap .. => old

/-- What a uniform instruction does to an active thread that does not run its body: the PC moves as the body's does, and the sticky
bits are set (R62). A trap is raised in the thread that runs the body only (log 8). -/
def Res.follow (old : Thread) (pc : DWord) : Res → Res
  | .done th _ fp iz => .done { old with pc := th.pc } [] fp iz
  | .trap .. => .done { old with pc := pc + 4 } [] 0 false

/-- A uniform instruction that sends every active thread to one target, so that a target that is none traps each of them (R126). -/
def Instr.jumpsAll : Instr → Bool | .jmpi _ => true | _ => false

/-- The effect in thread t: the body's own, or for a uniform instruction that of the lowest active thread. -/
def resOf (i : Instr) (body : Ctx → Res) (s : State) (w : Wave) (t : Nat) : Res :=
  let is := s.issue
  let lo := lowest is.mask
  if i.uniform && !Instr.jumpsAll i && decide (t ≠ lo) then (body ⟨s, w, lo, w.th lo, is⟩).follow (w.th t) is.pc
  else body ⟨s, w, t, w.th t, is⟩

/-- The wave after an instruction whose effect in each active thread is given: k registers take the lowest active thread's writes. -/
def Wave.after (w : Wave) (is : Issue) (res : Nat → Res) : Wave :=
  { w with
    threads := mapFrom (fun t th => if is.mask.getLsbD t then (res t).thread th else th) 0 w.threads,
    k := match res (lowest is.mask) with | .done _ kw _ _ => kw.foldl (fun k x => setK k x.1 x.2) w.k | .trap .. => w.k }

/-- The traps of an instruction, thread by thread. -/
def State.raiseAll (s : State) (is : Issue) (res : Nat → Res) : List Nat → State
  | [] => s
  | t :: ts =>
    match res t with
    | .trap cls reason info addr => State.raiseAll (s.raise is.wave t cls reason info is.repPc addr) is res ts
    | .done .. => State.raiseAll s is res ts

/-! ## Fumarole marks (R139, R284) -/

def markBits {n : Nat} (b : BitVec n) (f k : Nat) (on : Bool) : BitVec n :=
  (List.range k).foldl (fun m i => if on then m ||| (1#n <<< (f + i)) else m &&& ~~~(1#n <<< (f + i))) b

def noMarks : Marks := ⟨0, 0, false, false, false⟩

def Wave.marks (w : Wave) (t : Nat) : Marks := match w.episode with | some e => e.marks[t]?.getD noMarks | none => noMarks

/-- Register f of thread t is runahead-invalid. -/
def Wave.invalid (w : Wave) (t f : Nat) : Bool :=
  match w.episode with
  | none => false
  | some e => if f < 48 then (w.marks t).v.getLsbD f else decide (f < 63) && e.kmarks.getLsbD (f - 48)

/-- A register the instruction reads is invalid in thread t. -/
def Wave.readsInvalid (w : Wave) (i : Instr) (t : Nat) : Bool :=
  i.regs.any fun u => (List.range u.rd).any fun n => w.invalid t (u.f.toNat + n)

def predMark (m : Marks) (p : BitVec 2) : Bool := decide (p ≠ 0) && m.preds.getLsbD (p.toNat - 1)

/-- The source thread that a SHFL in thread t names by its index (R125). -/
def shflFrom : Instr → Nat → Nat → Option Nat
  | .shflUp .., t, n => if n ≤ t then some (t - n) else none
  | .shflDown .., t, n => if t + n < 32 then some (t + n) else none
  | .shflXor .., t, n => some (t ^^^ (n % 32))
  | _, _, n => some (n % 32)

/-- The thread whose A a SHFL of thread t receives, among the threads it combines: the source thread, or its own where the source is not one
of them. -/
def shflSource (i : Instr) (group : List Nat) (t n : Nat) : Nat :=
  match shflFrom i t n with | some u => if group.contains u then u else t | none => t

/-- The value an instruction computes in thread t depends on an invalid one (R139): its registers, its predicates, LNK, for SHFL its index and
the source thread's A, and for the other wave operations the operands of all active threads. -/
def Wave.tainted (w : Wave) (is : Issue) (i : Instr) (t : Nat) : Bool :=
  let m := w.marks t
  match i with
  | .sel _ a b p =>
    if predMark m p then true
    else if (w.th t).pred p then w.invalid t a.toNat else w.invalid t b.toNat
  | .plog _ x y z _ => predMark m x || predMark m y || predMark m z
  | .pmovToReg _ => m.preds != 0
  | .movcRead _ c => c == 0x20 && m.lnk
  | .lds .. => m.hcls || w.readsInvalid i t
  | .shflIdx _ a b | .shflUp _ a b | .shflDown _ a b | .shflXor _ a b =>
    w.invalid t b.toNat ||
      w.invalid (shflSource i (if i.uniform then [t] else tids is.mask) t (readReg w (w.th t) b.toNat).val.toNat) a.toNat
  | .tscl _ a f =>
    (tids is.mask).any fun u => (List.range (groupSize f)).any fun j => decide (u + 32 * j < groupCount f) && w.invalid u (a.toNat + j)
  | .wredAdd .. | .wredMin .. | .wredMax .. | .wredOr .. | .voteAny .. | .voteAll .. | .voteBallot .. =>
    (tids is.mask).any fun u => w.readsInvalid i u
  | _ => w.readsInvalid i t

/-- The predicates an instruction writes: their bits. -/
def predWrites : Instr → BitVec 3
  | .icmp p .. | .icmpi p .. | .fcmp p .. | .plog p .. => if p = 0 then 0 else 1#3 <<< (p.toNat - 1)
  | .pmovToPreds _ => 7
  | _ => 0

/-- The marks of thread t after an instruction whose result is invalid or not. -/
def Marks.after (m : Marks) (i : Instr) (bad : Bool) : Marks :=
  { m with
    v := i.regs.foldl (fun b u => if u.f.toNat < 48 then markBits b u.f.toNat u.wr bad else b) m.v,
    preds := if bad then m.preds ||| predWrites i else m.preds &&& ~~~(predWrites i),
    lnk := match i with | .call _ | .calli _ => false | _ => m.lnk }

/-- The marks of the episode after an instruction. -/
def Episode.mark (e : Episode) (i : Instr) (is : Issue) (bad : Nat → Bool) : Episode :=
  { e with
    marks := mapFrom (fun t m => if is.mask.getLsbD t then m.after i (bad t) else m) 0 e.marks,
    kmarks := i.regs.foldl (fun b u => if 48 ≤ u.f.toNat ∧ u.f.toNat < 63 then markBits b (u.f.toNat - 48) u.wr (bad (lowest is.mask)) else b)
      e.kmarks }

/-- A result of the effects in the active threads: none of them traps. -/
def quiet (is : Issue) (res : Nat → Res) : Bool := (tids is.mask).all fun t => match res t with | .done .. => true | .trap .. => false

/-- An instruction in an episode: it writes the overlay and its marks; a condition that would raise a trap ends the episode (R82). A
thread whose operands are not known raises nothing: its results are marked. -/
def State.ahead (s : State) (i : Instr) (w : Wave) (res : Nat → Res) : State :=
  let res (t : Nat) : Res := if w.tainted s.issue i t then (match res t with
    | .trap .. => .done { w.th t with pc := s.issue.pc + 4 } [] 0 false
    | r => r) else res t
  if quiet s.issue res then
    s.mapWave w.id fun w' => { w'.after s.issue res with
      episode := w'.episode.map fun e => e.mark i s.issue (fun t => w.tainted s.issue i t) }
  else s.mapWave w.id Wave.endEpisode

/-- An instruction that acts on registers only, run for its bundle (R21): every thread reads the state before it; k registers take
the lowest active thread's value; a trap in one thread leaves the others' effects. -/
def State.simt (s : State) (i : Instr) (body : Ctx → Res) : State :=
  match s.wave? s.issue.wave with
  | none => s
  | some w =>
    let res := resOf i body s w
    if w.episode.isSome then s.ahead i w res
    else State.raiseAll (s.mapWave w.id fun _ => w.after s.issue res) s.issue res (tids s.issue.mask)

/-- The same as an outcome. -/
def simt (i : Instr) (body : Ctx → Res) (s : State) : Out := .next (s.simt i body)

/-- An instruction an episode skips (R139, R161, R189, R214, R263): the active threads go on at the next word and its destinations
are marked invalid. -/
def State.skip (s : State) (i : Instr) : State :=
  s.mapWave s.issue.wave fun w =>
    { w.mapMask s.issue.mask (fun th => { th with pc := s.issue.pc + 4 }) with
      episode := w.episode.map fun e => e.mark i s.issue (fun _ => true) }

/-- The address registers of a memory instruction that an episode skips, and how many (R161, R189). -/
def Instr.addrRegs : Instr → Option (Nat × Nat)
  | .stb _ a _ | .sth _ a _ | .stw _ a _ | .std _ a _ | .stq _ a _ | .stl _ a _ _ | .tstw _ a _ _ | .tste _ a _ | .waitm _ a _ _
  | .atadd _ a _ _ _ | .atsub _ a _ _ _ | .atmins _ a _ _ _ | .atminz _ a _ _ _ | .atmaxs _ a _ _ _ | .atmaxz _ a _ _ _ | .atand _ a _ _ _
  | .ator _ a _ _ _ | .atxor _ a _ _ _ | .atxch _ a _ _ _ | .atinc _ a _ _ _ | .atfadd _ a _ _ | .atfmin _ a _ _ | .atfmax _ a _ _
  | .atcas _ a _ _ | .atcas64 _ a _ _ => some (a.toNat, 2)
  | .sts _ a _ _ => some (a.toNat, 1)
  | _ => none

/-- The operands of thread t are known as far as a trap can depend on them: all of them, or the address of a memory instruction, whose other invalid
operands raise nothing (R189). -/
def Wave.known (w : Wave) (i : Instr) (t : Nat) : Bool :=
  match Instr.addrRegs i with
  | some (a, n) => (List.range n).all fun j => !w.invalid t (a + j)
  | none => !w.readsInvalid i t

/-- A wave outside its episode, with zeros in the registers that are runahead-invalid. -/
def Wave.plain (w : Wave) : Wave :=
  { w with
    episode := none,
    threads := mapFrom (fun t th => (List.range 48).foldl (fun th f => if w.invalid t f then setV th f Reg.zero else th) th) 0 w.threads,
    k := (List.range 15).foldl (fun k f => if w.invalid 0 (48 + f) then setK k f Reg.zero else k) w.k }

/-- What an instruction would do outside an episode traps a thread of the bundle by what is known of its operands. -/
def State.wouldTrap (s : State) (i : Instr) (k : State → Wave → State) (w : Wave) : Bool :=
  let w0 := w.plain
  let s1 := k (s.mapWave w.id fun _ => w0) w0
  (tids s.issue.mask).any fun t => w.known i t && (match s1.wave? w.id with
    | some w1 => (match (w1.th t).cond with | .trapped _ => true | _ => false)
    | none => false)

/-- An instruction that an episode skips, otherwise as given; a condition that would raise a trap ends the episode (R82, R139, R189, R214, R263). -/
def skipAhead (i : Instr) (k : State → Wave → State) (s : State) : Out :=
  match s.wave? s.issue.wave with
  | none => .next s
  | some w =>
    if w.episode.isSome then .next (if s.wouldTrap i k w then s.mapWave w.id Wave.endEpisode else s.skip i) else .next (k s w)

/-- An instruction whose threads act on the machine one after another in increasing order (R21), each through the same operation;
a uniform one acts once, for its lowest active thread. -/
def State.each (s : State) (i : Instr) (f : State → Nat → State) : State :=
  (if i.uniform then [lowest s.issue.mask] else tids s.issue.mask).foldl f s

/-- The threads an operation of thread t stands for: the bundle of a uniform instruction, else t alone (R75). -/
def State.actsFor (s : State) (i : Instr) (t : Nat) : BitVec 32 := if i.uniform then s.issue.mask else 1#32 <<< t

/-- The threads of a mask go on at the next word. -/
def State.advance (s : State) (wid : Nat) (m : BitVec 32) : State :=
  s.mapWave wid fun w => w.mapMask m fun th => { th with pc := s.issue.pc + 4 }

/-- A class raised in thread t; the other threads that a uniform instruction stands for go on (R21, log 8). -/
def State.trapFor (s : State) (w : Wave) (i : Instr) (t : Nat) (cls : TrapClass) (reason : Nat) (info : Word) (addr : DWord) : State :=
  (s.raise w.id t cls reason info s.issue.repPc addr).advance w.id (s.actsFor i t &&& ~~~(1#32 <<< t))

/-- The threads of a mask block at the instruction, which issues again from its first prefix when it is woken to (R71). -/
def State.blockAt (s : State) (wid : Nat) (m : BitVec 32) (pc : DWord) (wk : Wake) : State :=
  s.mapWave wid fun w => w.mapMask m fun th => { th.block wk s.cycle with pc := pc, rep := s.issue.repPc }

/-! ## Completion flags (R74, R75) -/

/-- The flag the clause of a thread and S[0] select; 12 to 15 are none. -/
def Thread.flagOf (th : Thread) (s : BitVec 2) : Nat := (if s.getLsbD 0 then th.clause.fb else th.clause.fa).toNat

/-- One operation attached to, or detached from, a flag of a thread. -/
def Thread.attach (th : Thread) (f : Nat) : Thread := { th with flags := th.flags.setIfInBounds f ((th.flags[f]?.getD 0) + 1) }
def Thread.detach (th : Thread) (f : Nat) : Thread := { th with flags := th.flags.setIfInBounds f ((th.flags[f]?.getD 0) - 1) }

/-- Flag fn of a thread. -/
def Thread.flag (th : Thread) (n : Nat) : Bool := (th.flags[n]?.getD 0) != 0

/-- The flags of a thread as a mask. -/
def Thread.flagMask (th : Thread) : BitVec 12 :=
  (List.range 12).foldl (fun m n => if th.flag n then m ||| (1#12 <<< n) else m) 0

/-- A long-latency instruction sets its flag in each thread of a mask: each thread's own clause selects it, and the flag is counted
under the number that the lowest thread's clause gives where all agree (R75). -/
def State.attach (s : State) (wid : Nat) (m : BitVec 32) : State :=
  s.mapWave wid fun w => w.mapMask m fun th => th.attach (th.flagOf s.issue.s)

/-- A WAITF whose mask is clear wakes to issue again (R187). -/
def Thread.flagWake (th : Thread) (now : Nat) : Thread :=
  match th.cond with
  | .blocked (.waitf m) => if th.flagMask &&& m = 0 then th.wakeAgain now else th
  | _ => th

/-- The completion of an operation attached to flag f in the threads of a mask. -/
def Wave.detach (w : Wave) (m : BitVec 32) (f now : Nat) : Wave := w.mapArch m fun th => (th.detach f).flagWake now

end Sys2Proof.Machine
end

