-- ==== Sys2Proof/Machine/Flags.lean ====
section
/-!
DEFINITION. Every flag computation of the spec: the sticky bits of FPSTAT (R27, R90), the bits of ERRSTAT (R28), the rounding mode an
instruction uses (R89, R141), and what a write of a control register keeps (R27, R28, R34, R35).
-/

namespace Sys2Proof.Machine

/-! ## FPSTAT bits -/

def fNX : BitVec 5 := 1
def fUF : BitVec 5 := 2
def fOF : BitVec 5 := 4
def fDZ : BitVec 5 := 8
def fNV : BitVec 5 := 16

/-- NX and, where the exact magnitude is below the smallest normal, UF (R90). -/
def inexactFlags (inexact tiny : Bool) : BitVec 5 := if inexact then (if tiny then fUF ||| fNX else fNX) else 0

/-- The rounding modes of R89. -/
inductive Mode where
  | rne | rtz | rup | rdn
deriving DecidableEq, Repr

/-- The coding of RM and of the low bits of RND (R27, R70). -/
def Mode.ofBits (b : BitVec 2) : Mode := match b with | 0 => .rne | 1 => .rtz | 2 => .rup | _ => .rdn

/-- The mode m of R141: the RND field of a preceding HMOD, else FPSTAT.RM of the thread. -/
def modeOf (rnd : BitVec 3) (fpstat : Word) : Mode :=
  if rnd.getLsbD 2 then Mode.ofBits (rnd.extractLsb' 0 2) else Mode.ofBits (fpstat.extractLsb' 5 2)

def Ctx.mode (c : Ctx) : Mode := modeOf c.is.rnd c.th.fpstat

/-- Saturation is in force: SAT = .sat; the default of every instruction that consults it is .nosat (R141). -/
def Ctx.sat (c : Ctx) : Bool := c.is.sat == 1

/-! ## ERRSTAT bits (R28) -/

def eSR : Word := 0x01
def eUR : Word := 0x02
def eSF : Word := 0x04
def ePL : Word := 0x08
def eIZ : Word := 0x10
def eEF : Word := 0x20

def Thread.setErr (th : Thread) (b : Word) : Thread := { th with errstat := th.errstat ||| b }
def Thread.setFp (th : Thread) (b : BitVec 5) : Thread := { th with fpstat := th.fpstat ||| b.zeroExtend 32 }

/-! ## Writes of control registers (R47, R121) -/

/-- FPSTAT ignores bits 31 to 7 of what is written. -/
def writeFpstat (x : Word) : Word := x &&& 0x7F

/-- ERRSTAT: each bit written as 1 is cleared. -/
def writeErrstat (old x : Word) : Word := old &&& ~~~x

/-- QUANT keeps Q, RAHCTL keeps ILIM and THR; their reserved bits are read-only zero. -/
def writeQuant (x : Word) : Word := x &&& 0xFF
def writeRahctl (x : Word) : Word := x &&& 0x03FFFFFF

/-- The quantum in instructions: 0 means 256 (R34). -/
def Wave.quantum (w : Wave) : Nat := if w.quant &&& 0xFF = 0 then 256 else (w.quant &&& 0xFF).toNat

/-- ILIM and THR of RAHCTL (R35). -/
def Wave.ilim (w : Wave) : Nat := (w.rahctl.extractLsb' 16 10).toNat
def Wave.thr (w : Wave) : Nat := (w.rahctl.extractLsb' 0 16).toNat

end Sys2Proof.Machine
end

