-- ==== Sys2Proof/Machine/IntOps.lean ====
section
/-!
DEFINITION. Integer, logic, predicate, move and wave instructions (R113 to R125). Each meaning is one line over the shared shapes
below: a result of one, two or three words, an immediate, a value folded over the active threads.
-/

namespace Sys2Proof.Machine

/-! ## Immediates (R63, R69) -/

/-- A signed immediate: the field, or payload and field after HIMM. -/
def immS {n : Nat} (h : Option (BitVec 22)) (i : BitVec n) : Int := match h with | none => i.toInt | some p => (p ++ i).toInt

/-- An unsigned immediate. -/
def immZ {n : Nat} (h : Option (BitVec 22)) (i : BitVec n) : Nat := match h with | none => i.toNat | some p => (p ++ i).toNat

/-- A signed number as a word. -/
def wordOfInt (x : Int) : Word := BitVec.ofInt 32 x

/-! ## Shapes of a result (R114, R117) -/

/-- A result of A. -/
def int1 (d a : BitVec 6) (f : Word → Word) (c : Ctx) : Res :=
  let x := c.read a
  if x.psn then c.ret d poisonInt true else c.ret d (f x.val) false

/-- A result of A and B. -/
def int2 (d a b : BitVec 6) (f : Word → Word → Word) (c : Ctx) : Res :=
  let x := c.read a
  let y := c.read b
  if x.psn || y.psn then c.ret d poisonInt true else c.ret d (f x.val y.val) false

/-- A result of D, A and B. -/
def int3 (d a b : BitVec 6) (f : Word → Word → Word → Word) (c : Ctx) : Res :=
  let z := c.read d
  let x := c.read a
  let y := c.read b
  if z.psn || x.psn || y.psn then c.ret d poisonInt true else c.ret d (f z.val x.val y.val) false

/-! ## Integer arithmetic (R84, R85, R117) -/

/-- A word as the typed number of R115: .s32 for type 0, .z32 for type 1. -/
def typed (t : BitVec 1) (x : Word) : Int := if t = 0 then x.toInt else x.toNat

/-- A word extended to 64 bits by type. -/
def typed64 (t : BitVec 1) (x : Word) : DWord := if t = 0 then x.signExtend 64 else x.zeroExtend 64

/-- The clamped sum of IADDS. -/
def clampAdd (t : BitVec 1) (a b : Word) : Word :=
  let x := typed t a + typed t b
  if t = 0 then wordOfInt (max (-2 ^ 31) (min (2 ^ 31 - 1) x)) else wordOfInt (max 0 (min (2 ^ 32 - 1) x))

def mulHigh (t : BitVec 1) (a b : Word) : Word := wordOfInt (typed t a * typed t b / 2 ^ 32)

/-- The quotient of R85. -/
def divWord (t : BitVec 1) (a b : Word) : Word := if b = 0 then 0xFFFFFFFF else wordOfInt ((typed t a).tdiv (typed t b))

/-- The remainder of R85. -/
def remWord (t : BitVec 1) (a b : Word) : Word := if b = 0 then a else wordOfInt ((typed t a).tmod (typed t b))

/-- IDIV and IREM: a zero divisor that is not poisoned sets ERRSTAT.IZ (R28, R118). -/
def intDiv (d a b : BitVec 6) (f : Word → Word → Word) (c : Ctx) : Res :=
  match int2 d a b f c with
  | .done th kw fp iz => .done th kw fp (iz || (!(c.read b).psn && (c.read b).val == 0))
  | x => x

def execIadd (d a b : BitVec 6) (s : State) : Out := simt (.iadd d a b) (int2 d a b fun x y => x + y) s
def execIaddi (d a : BitVec 6) (i : BitVec 8) (s : State) : Out :=
  simt (.iaddi d a i) (fun c => int1 d a (fun x => x + wordOfInt (immS c.is.himm i)) c) s
def execIsub (d a b : BitVec 6) (s : State) : Out := simt (.isub d a b) (int2 d a b fun x y => x - y) s
def execIadds (d a b : BitVec 6) (t : BitVec 1) (s : State) : Out := simt (.iadds d a b t) (int2 d a b (clampAdd t)) s
def execImul (d a b : BitVec 6) (s : State) : Out := simt (.imul d a b) (int2 d a b fun x y => x * y) s
def execImulh (d a b : BitVec 6) (t : BitVec 1) (s : State) : Out := simt (.imulh d a b t) (int2 d a b (mulHigh t)) s
def execImad (d a b : BitVec 6) (s : State) : Out := simt (.imad d a b) (int3 d a b fun z x y => z + x * y) s

/-- The 64-bit multiply-add of IMADW on the pair at D. -/
def imadwBody (d a b : BitVec 6) (t : BitVec 1) (c : Ctx) : Res :=
  let (z, pz) := c.pair d
  let x := c.read a
  let y := c.read b
  if pz || x.psn || y.psn then (c.next.write d.toNat ⟨poisonInt, true⟩).write (d.toNat + 1) ⟨poisonInt, true⟩
  else c.ret2 d (z + typed64 t x.val * typed64 t y.val) false

def execImadw (d a b : BitVec 6) (t : BitVec 1) (s : State) : Out := simt (.imadw d a b t) (imadwBody d a b t) s
def execIdiv (d a b : BitVec 6) (t : BitVec 1) (s : State) : Out := simt (.idiv d a b t) (intDiv d a b (divWord t)) s
def execIrem (d a b : BitVec 6) (t : BitVec 1) (s : State) : Out := simt (.irem d a b t) (intDiv d a b (remWord t)) s
def execImin (d a b : BitVec 6) (t : BitVec 1) (s : State) : Out :=
  simt (.imin d a b t) (int2 d a b fun x y => if typed t x ≤ typed t y then x else y) s
def execImax (d a b : BitVec 6) (t : BitVec 1) (s : State) : Out :=
  simt (.imax d a b t) (int2 d a b fun x y => if typed t x ≤ typed t y then y else x) s
def execIabs (d a : BitVec 6) (s : State) : Out := simt (.iabs d a) (int1 d a fun x => if x.msb then -x else x) s
def execIneg (d a : BitVec 6) (s : State) : Out := simt (.ineg d a) (int1 d a fun x => -x) s

/-- The address sum of LEA; it is not checked (R118). -/
def leaBody (d a b : BitVec 6) (x : BitVec 2) (c : Ctx) : Res :=
  let (p, pp) := c.pair a
  let y := c.read b
  if pp || y.psn then (c.next.write d.toNat ⟨poisonInt, true⟩).write (d.toNat + 1) ⟨poisonInt, true⟩
  else c.ret2 d (p + y.val.signExtend 64 <<< x.toNat) false

def execLea (d a b : BitVec 6) (x : BitVec 2) (s : State) : Out := simt (.lea d a b x) (leaBody d a b x) s

/-! ## Logic, shifts and bit fields (R119) -/

def shlWord (a : Word) (n : Nat) : Word := if 32 ≤ n then 0 else a <<< n
def shrlWord (a : Word) (n : Nat) : Word := if 32 ≤ n then 0 else a >>> n
def shraWord (a : Word) (n : Nat) : Word := a.sshiftRight (min n 31)

/-- Position and used length of a bit field. -/
def fieldPos (b : Word) : Nat := (b.extractLsb' 0 5).toNat
def fieldLen (b : Word) : Nat := min (b.extractLsb' 8 6).toNat (32 - fieldPos b)

/-- The low n bits set. -/
def lowMask (n : Nat) : Word := BitVec.ofNat 32 (2 ^ n - 1)

def bfxWord (t : BitVec 1) (a b : Word) : Word :=
  let n := fieldLen b
  if n = 0 then 0
  else
    let x := (a >>> fieldPos b) &&& lowMask n
    if t = 0 ∧ x.getLsbD (n - 1) then x ||| ~~~(lowMask n) else x

def bfiWord (d a b : Word) : Word :=
  let m := lowMask (fieldLen b) <<< fieldPos b
  (d &&& ~~~m) ||| ((a <<< fieldPos b) &&& m)

def popcount (x : Word) : Nat := ((List.range 32).filter fun n => x.getLsbD n).length
def leadingZeros (x : Word) : Nat := if x = 0 then 32 else 31 - Nat.log2 x.toNat
def reverseBits (x : Word) : Word :=
  (List.range 32).foldl (fun (r : Word) n => if x.getLsbD n then r ||| (1#32 <<< (31 - n)) else r) 0

/-- A logic operation with an immediate. -/
def logicImm (d a : BitVec 6) (i : BitVec 8) (f : Word → Word → Word) (c : Ctx) : Res :=
  int1 d a (fun x => f x (BitVec.ofNat 32 (immZ c.is.himm i))) c

def execAnd (d a b : BitVec 6) (s : State) : Out := simt (.and d a b) (int2 d a b fun x y => x &&& y) s
def execOr (d a b : BitVec 6) (s : State) : Out := simt (.or d a b) (int2 d a b fun x y => x ||| y) s
def execXor (d a b : BitVec 6) (s : State) : Out := simt (.xor d a b) (int2 d a b fun x y => x ^^^ y) s
def execAndn (d a b : BitVec 6) (s : State) : Out := simt (.andn d a b) (int2 d a b fun x y => x &&& ~~~y) s
def execNot (d a : BitVec 6) (s : State) : Out := simt (.not d a) (int1 d a fun x => ~~~x) s
def execAndi (d a : BitVec 6) (i : BitVec 8) (s : State) : Out := simt (.andi d a i) (logicImm d a i fun x y => x &&& y) s
def execOri (d a : BitVec 6) (i : BitVec 8) (s : State) : Out := simt (.ori d a i) (logicImm d a i fun x y => x ||| y) s
def execXori (d a : BitVec 6) (i : BitVec 8) (s : State) : Out := simt (.xori d a i) (logicImm d a i fun x y => x ^^^ y) s
def execShl (d a b : BitVec 6) (s : State) : Out := simt (.shl d a b) (int2 d a b fun x y => shlWord x y.toNat) s
def execShrl (d a b : BitVec 6) (s : State) : Out := simt (.shrl d a b) (int2 d a b fun x y => shrlWord x y.toNat) s
def execShra (d a b : BitVec 6) (s : State) : Out := simt (.shra d a b) (int2 d a b fun x y => shraWord x y.toNat) s
def execShli (d a : BitVec 6) (n : BitVec 5) (s : State) : Out := simt (.shli d a n) (int1 d a fun x => shlWord x n.toNat) s
def execShrli (d a : BitVec 6) (n : BitVec 5) (s : State) : Out := simt (.shrli d a n) (int1 d a fun x => shrlWord x n.toNat) s
def execShrai (d a : BitVec 6) (n : BitVec 5) (s : State) : Out := simt (.shrai d a n) (int1 d a fun x => shraWord x n.toNat) s
def execRotl (d a b : BitVec 6) (s : State) : Out := simt (.rotl d a b) (int2 d a b fun x y => x.rotateLeft (y.toNat % 32)) s
def execBfx (d a b : BitVec 6) (t : BitVec 1) (s : State) : Out := simt (.bfx d a b t) (int2 d a b (bfxWord t)) s
def execBfi (d a b : BitVec 6) (s : State) : Out := simt (.bfi d a b) (int3 d a b bfiWord) s
def execPopc (d a : BitVec 6) (s : State) : Out := simt (.popc d a) (int1 d a fun x => BitVec.ofNat 32 (popcount x)) s
def execClz (d a : BitVec 6) (s : State) : Out := simt (.clz d a) (int1 d a fun x => BitVec.ofNat 32 (leadingZeros x)) s
def execBrev (d a : BitVec 6) (s : State) : Out := simt (.brev d a) (int1 d a reverseBits) s

/-! ## Packed INT8 (R120) -/

/-- Element n of a packed word. -/
def elem8 (x : Word) (n : Nat) : BitVec 8 := x.extractLsb' (8 * n) 8

/-- An element as a number: INT8, or an unsigned byte. -/
def num8 (t : BitVec 1) (x : BitVec 8) : Int := if t = 0 then x.toInt else x.toNat

def dot4 (t : BitVec 1) (z x y : Word) : Word :=
  z + wordOfInt ((List.range 4).foldl (fun (acc : Int) n => acc + num8 t (elem8 x n) * num8 t (elem8 y n)) 0)

/-- Four element results packed. -/
def pack8 (f : Nat → BitVec 8) : Word := f 3 ++ f 2 ++ f 1 ++ f 0

/-- A sum of elements clamped to a range. -/
def clamp8 (t : BitVec 1) (x y : BitVec 8) : BitVec 8 :=
  let z := num8 t x + num8 t y
  BitVec.ofInt 8 (if t = 0 then max (-128) (min 127 z) else max 0 (min 255 z))

def execPdot4 (d a b : BitVec 6) (t : BitVec 1) (s : State) : Out := simt (.pdot4 d a b t) (int3 d a b (dot4 t)) s
def execPadd4 (d a b : BitVec 6) (s : State) : Out :=
  simt (.padd4 d a b) (int2 d a b fun x y => pack8 fun n => elem8 x n + elem8 y n) s
def execPadd4Ss (d a b : BitVec 6) (s : State) : Out :=
  simt (.padd4Ss d a b) (int2 d a b fun x y => pack8 fun n => clamp8 0 (elem8 x n) (elem8 y n)) s
def execPadd4Us (d a b : BitVec 6) (s : State) : Out :=
  simt (.padd4Us d a b) (int2 d a b fun x y => pack8 fun n => clamp8 1 (elem8 x n) (elem8 y n)) s

/-! ## Moves, immediates and selectors (R44 to R47, R121) -/

def execLdi (d : BitVec 6) (i : BitVec 14) (s : State) : Out := simt (.ldi d i) (fun c => c.ret d (wordOfInt (immS c.is.himm i)) false) s

/-- A register moved whole, value and poison (R114). -/
def Ctx.copy (c : Ctx) (d a : BitVec 6) : Res := let x := c.read a; c.ret d x.val x.psn

def execMov (d a : BitVec 6) (s : State) : Out := simt (.mov d a) (fun c => c.copy d a) s
def execSel (d a b : BitVec 6) (p : BitVec 2) (s : State) : Out :=
  simt (.sel d a b p) (fun c => if c.th.pred p then c.copy d a else c.copy d b) s

/-- A selector of R44 that stands for a place in a launch or on a lane, for a Vent thread, where the spec gives it no value: free
(log 31). -/
def Wave.freeSel (w : Wave) (i : Nat) : DWord := (Config.freeSelector (64 * w.id + i)).zeroExtend 64

/-- The value of a selector (R44). A Vent hardware thread is a wave of one thread and a block of one wave (R293). -/
def Ctx.selector (c : Ctx) (i : Nat) : DWord :=
  let w := c.w
  let l := (c.s.block? w.block).bind fun b => c.s.launch? b.launch
  let n (x : Nat) : DWord := BitVec.ofNat 64 x
  let place (x : Nat) : DWord := if w.isVent then w.freeSel i else n x
  match i with
  | 0x00 => n c.t
  | 0x01 => n w.wid
  | 0x02 => place (match c.s.block? w.block with | some b => b.blkid | none => 0)
  | 0x03 => n w.threads.length
  | 0x04 => if w.isVent then 1 else n (match l, w.role with | some l, .copy => l.recd.cwaves | some l, _ => l.recd.vwaves | none, _ => 1)
  | 0x05 => place (match l with | some l => l.recd.grid | none => 1)
  | 0x06 => place (match w.loc with | .lane _ _ lane => lane | _ => 0)
  | 0x07 => place (match w.loc with | .lane _ core _ => core | _ => 0)
  | 0x08 => place (match w.loc with | .lane cl _ _ => cl | _ => 0)
  | 0x09 => n c.s.fab.pkg
  | 0x0A => n w.agentVd
  | 0x0B => if w.isVent then w.freeSel i else (match l with | some l => l.id.zeroExtend 64 | none => 0)
  | 0x0C => if c.s.fab.locked then c.s.fab.slotnow else 0xFFFFFFFFFFFFFFFF
  | _ => n c.s.cycle

/-- MOVS: SLOTNOW and CYCLE are 64 bits wide (R45). -/
def movsBody (d : BitVec 6) (i : BitVec 8) (c : Ctx) : Res :=
  if i = 0x0C ∨ i = 0x0D then c.ret2 d (c.selector i.toNat) false else c.ret d (lowWord (c.selector i.toNat)) false

def execMovs (d : BitVec 6) (i : BitVec 8) (s : State) : Out := simt (.movs d i) (movsBody d i) s

/-- MOVC read (R47). -/
def movcReadBody (d : BitVec 6) (i : BitVec 7) (c : Ctx) : Res :=
  match i.toNat with
  | 0x20 => c.ret2 d c.th.lnk false
  | 0x21 => c.ret2 d c.th.rgnpc false
  | 0x22 => c.ret d c.th.rgncnt false
  | 0x23 => c.ret d c.th.fpstat false
  | 0x24 => c.ret d c.th.errstat false
  | 0x25 => c.ret d c.w.quant false
  | _ => c.ret d c.w.rahctl false

def execMovcRead (d : BitVec 6) (i : BitVec 7) (s : State) : Out := simt (.movcRead d i) (movcReadBody d i) s

/-- A result whose thread is changed further. -/
def Res.mapTh (f : Thread → Thread) : Res → Res
  | .done th kw fp iz => .done (f th) kw fp iz
  | x => x

/-- MOVC write, as far as it concerns the thread (R27 to R29). QUANT and RAHCTL belong to the wave. -/
def movcWriteBody (a : BitVec 6) (i : BitVec 7) (c : Ctx) : Res :=
  let (x, px) := if i = 0x20 then c.pair a else (((c.read a).val.zeroExtend 64), (c.read a).psn)
  if px then trapPoison 1
  else
    c.next.mapTh fun th =>
      match i.toNat with
      | 0x20 => { th with lnk := x }
      | 0x23 => { th with fpstat := writeFpstat (lowWord x) }
      | 0x24 => { th with errstat := writeErrstat th.errstat (lowWord x) }
      | _ => th

/-- A MOVC write to QUANT or RAHCTL takes the value of the lowest active thread (R33). -/
def movcWave (a : BitVec 6) (i : BitVec 7) (is : Issue) (old w : Wave) : Wave :=
  let x := readReg old (old.th (lowest is.mask)) a.toNat
  if x.psn then w
  else if i = 0x25 then { w with quant := writeQuant x.val }
  else if i = 0x26 then { w with rahctl := writeRahctl x.val }
  else w

def execMovcWrite (a : BitVec 6) (i : BitVec 7) (s : State) : Out :=
  skipAhead (.movcWrite a i) (fun s w => (s.simt (.movcWrite a i) (movcWriteBody a i)).mapWave w.id (movcWave a i s.issue w)) s

/-! ## Predicates (R64, R65, R122 to R124) -/

/-- A condition of R64 on two words: signed for 0 to 5, unsigned for 8 to 13. -/
def icond (c : BitVec 4) (a b : Word) : Bool :=
  let t : BitVec 1 := if c.getLsbD 3 then 1 else 0
  match c.toNat % 8 with
  | 0 => a == b
  | 1 => a != b
  | 2 => decide (typed t a < typed t b)
  | 3 => decide (typed t a ≤ typed t b)
  | 4 => decide (typed t b < typed t a)
  | _ => decide (typed t b ≤ typed t a)

/-- A compare of A with a second operand: POISON with the lowest poisoned position, else the predicate is written (R122, R265). -/
def cmpBody (p : BitVec 2) (a : Reg) (b : Reg) (r : Word → Word → Bool) (c : Ctx) : Res :=
  if a.psn then trapPoison 1
  else if b.psn then trapPoison 2
  else c.next.mapTh fun th => th.setPred p (r a.val b.val)

def execIcmp (p : BitVec 2) (c : BitVec 4) (a b : BitVec 6) (s : State) : Out :=
  simt (.icmp p c a b) (fun x => cmpBody p (x.read a) (x.read b) (icond c) x) s
def execIcmpi (p : BitVec 2) (c : BitVec 4) (a : BitVec 6) (i : BitVec 8) (s : State) : Out :=
  simt (.icmpi p c a i) (fun x => cmpBody p (x.read a) ⟨wordOfInt (immS x.is.himm i), false⟩ (icond c) x) s

/-- PLOG: the entry of the truth table that three predicates select (R65). -/
def plogBody (p x y z : BitVec 2) (t : BitVec 8) (c : Ctx) : Res :=
  let n (q : BitVec 2) (k : Nat) : Nat := if c.th.pred q then k else 0
  c.next.mapTh fun th => th.setPred p (t.getLsbD (n x 4 + n y 2 + n z 1))

def execPlog (p x y z : BitVec 2) (t : BitVec 8) (s : State) : Out := simt (.plog p x y z t) (plogBody p x y z t) s

def execPmovToReg (d : BitVec 6) (s : State) : Out :=
  simt (.pmovToReg d) (fun c => c.ret d ((c.th.preds ++ 1#1).zeroExtend 32) false) s

def pmovToPredsBody (a : BitVec 6) (c : Ctx) : Res :=
  let x := c.read a
  if x.psn then trapPoison 1 else c.next.mapTh fun th => { th with preds := x.val.extractLsb' 1 3 }

/-- PMOV into predicates; in an episode a thread whose value is invalid goes on with its predicates marked invalid (R139). -/
def execPmovToPreds (a : BitVec 6) (s : State) : Out := simt (.pmovToPreds a) (pmovToPredsBody a) s

/-! ## Wave operations (R125) -/

/-- The threads an operation combines: the bundle, or the one thread of a uniform form. -/
def Ctx.group (c : Ctx) (i : Instr) : List Nat := if i.uniform then [c.t] else tids c.is.mask

/-- A value formed from A in every thread of the group; poison in one poisons every result. -/
def combine (i : Instr) (d a : BitVec 6) (f : List (Nat × Word) → Word) (c : Ctx) : Res :=
  let l := (c.group i).map fun t => (t, readReg c.w (c.w.th t) a.toNat)
  if l.any (fun x => x.2.psn) then c.ret d poisonInt true else c.ret d (f (l.map fun x => (x.1, x.2.val))) false

/-- The values folded from the first on. -/
def fold1 (f : Word → Word → Word) : List (Nat × Word) → Word
  | [] => 0
  | x :: t => t.foldl (fun r y => f r y.2) x.2

/-- The threads whose value is not zero, as bits. -/
def ballot : List (Nat × Word) → Word
  | [] => 0
  | x :: t => (if x.2 = 0 then 0 else 1#32 <<< x.1) ||| ballot t

def execWredAdd (d a : BitVec 6) (s : State) : Out := simt (.wredAdd d a) (combine (.wredAdd d a) d a (fold1 fun x y => x + y)) s
def execWredMin (d a : BitVec 6) (s : State) : Out :=
  simt (.wredMin d a) (combine (.wredMin d a) d a (fold1 fun x y => if y.toInt < x.toInt then y else x)) s
def execWredMax (d a : BitVec 6) (s : State) : Out :=
  simt (.wredMax d a) (combine (.wredMax d a) d a (fold1 fun x y => if x.toInt < y.toInt then y else x)) s
def execWredOr (d a : BitVec 6) (s : State) : Out := simt (.wredOr d a) (combine (.wredOr d a) d a (fold1 fun x y => x ||| y)) s
def execVoteAny (d a : BitVec 6) (s : State) : Out :=
  simt (.voteAny d a) (combine (.voteAny d a) d a fun l => if l.any (fun x => x.2 != 0) then 1 else 0) s
def execVoteAll (d a : BitVec 6) (s : State) : Out :=
  simt (.voteAll d a) (combine (.voteAll d a) d a fun l => if l.all (fun x => x.2 != 0) then 1 else 0) s
def execVoteBallot (d a : BitVec 6) (s : State) : Out :=
  simt (.voteBallot d a) (combine (.voteBallot d a) d a ballot) s

/-- SHFL: A of the source thread, or the thread's own where the source is not in the bundle. -/
def shflBody (i : Instr) (d a b : BitVec 6) (c : Ctx) : Res :=
  let y := c.read b
  if y.psn then trapPoison 2
  else
    let x := readReg c.w (c.w.th (shflSource i (c.group i) c.t y.val.toNat)) a.toNat
    c.ret d x.val x.psn

def execShflIdx (d a b : BitVec 6) (s : State) : Out :=
  simt (.shflIdx d a b) (shflBody (.shflIdx d a b) d a b) s
def execShflUp (d a b : BitVec 6) (s : State) : Out :=
  simt (.shflUp d a b) (shflBody (.shflUp d a b) d a b) s
def execShflDown (d a b : BitVec 6) (s : State) : Out :=
  simt (.shflDown d a b) (shflBody (.shflDown d a b) d a b) s
def execShflXor (d a b : BitVec 6) (s : State) : Out :=
  simt (.shflXor d a b) (shflBody (.shflXor d a b) d a b) s

end Sys2Proof.Machine
end

