-- ==== Sys2Proof/Decode.lean ====
section
/-!
DEFINITION. Decoding and encoding of instruction words (R57 to R81). decodeWord is total on words: it gives the instruction or the
reason of R80 for which the word is refused, in the order of R79 as far as the word alone decides it. The checks that depend on
where the word runs (tile class in a SIMT stream, privilege, prefix order, registers: R79 steps 3 to 5 and 7, R81) are the machine's.
encode writes the word of an instruction from the same tables of chapter 03; an event has no word.

The scheduling fields V and S (R59) stand beside the instruction: schedOf reads them, encode is given them.
-/

namespace Sys2Proof

/-- Bits lo to lo + len - 1 of a bit string. -/
def bits {n : Nat} (w : BitVec n) (lo len : Nat) : BitVec len := w.extractLsb' lo len

/-- Whether bits lo to lo + len - 1 of a word hold a one. -/
def nz (w : Word) (lo len : Nat) : Bool := bits w lo len != 0

/-- The major opcode (R57). -/
def opOf (w : Word) : BitVec 8 := bits w 20 8

/-- The scheduling fields of a word (R57, R59). -/
structure Sched where
  v : BitVec 2
  s : BitVec 2
deriving DecidableEq, Repr

/-- V and S of a word. -/
def schedOf (w : Word) : Sched := ⟨bits w 30 2, bits w 28 2⟩

/-- S as the lane reads it: V other than 00 makes it 00 (R59). -/
def Sched.eff (sc : Sched) : BitVec 2 := if sc.v = 0 then sc.s else 0

/-- The check of R79 step 6 over one word: a reserved value, then a reserved bit, then a reserved scope. -/
def resv (value bit scope : Bool) (i : Instr) : Except UdiReason Instr :=
  if value then .error .reserved else if bit then .error .reservedBit else if scope then .error .reservedScope else .ok i

/-- Opcodes 0x00 to 0x0F (R77), by their low four bits. -/
def decode0x (lo : Nat) (w : Word) : Except UdiReason Instr :=
  match lo with
  | 0 => if w = 0 then .error .allZero else .error .unassigned
  | 1 => resv (nz w 0 2) (false) (false) (.iadd (bits w 14 6) (bits w 8 6) (bits w 2 6))
  | 2 => .ok (.iaddi (bits w 14 6) (bits w 8 6) (bits w 0 8))
  | 3 => resv (nz w 0 2) (false) (false) (.isub (bits w 14 6) (bits w 8 6) (bits w 2 6))
  | 4 => resv (nz w 1 1) (false) (false) (.iadds (bits w 14 6) (bits w 8 6) (bits w 2 6) (bits w 0 1))
  | 5 => resv (nz w 0 2) (false) (false) (.imul (bits w 14 6) (bits w 8 6) (bits w 2 6))
  | 6 => resv (nz w 1 1) (false) (false) (.imulh (bits w 14 6) (bits w 8 6) (bits w 2 6) (bits w 0 1))
  | 7 => resv (nz w 0 2) (false) (false) (.imad (bits w 14 6) (bits w 8 6) (bits w 2 6))
  | 8 => resv (nz w 1 1) (false) (false) (.imadw (bits w 14 6) (bits w 8 6) (bits w 2 6) (bits w 0 1))
  | 9 => resv (nz w 1 1) (false) (false) (.idiv (bits w 14 6) (bits w 8 6) (bits w 2 6) (bits w 0 1))
  | 10 => resv (nz w 1 1) (false) (false) (.irem (bits w 14 6) (bits w 8 6) (bits w 2 6) (bits w 0 1))
  | 11 => resv (nz w 1 1) (false) (false) (.imin (bits w 14 6) (bits w 8 6) (bits w 2 6) (bits w 0 1))
  | 12 => resv (nz w 1 1) (false) (false) (.imax (bits w 14 6) (bits w 8 6) (bits w 2 6) (bits w 0 1))
  | 13 => resv (nz w 0 2) (nz w 2 6) (false) (.iabs (bits w 14 6) (bits w 8 6))
  | 14 => resv (nz w 0 2) (nz w 2 6) (false) (.ineg (bits w 14 6) (bits w 8 6))
  | 15 => .ok (.lea (bits w 14 6) (bits w 8 6) (bits w 2 6) (bits w 0 2))
  | _ => .error .unassigned

/-- Opcodes 0x10 to 0x1F (R77), by their low four bits. -/
def decode1x (lo : Nat) (w : Word) : Except UdiReason Instr :=
  match lo with
  | 0 => resv (nz w 0 2) (false) (false) (.and (bits w 14 6) (bits w 8 6) (bits w 2 6))
  | 1 => resv (nz w 0 2) (false) (false) (.or (bits w 14 6) (bits w 8 6) (bits w 2 6))
  | 2 => resv (nz w 0 2) (false) (false) (.xor (bits w 14 6) (bits w 8 6) (bits w 2 6))
  | 3 => resv (nz w 0 2) (false) (false) (.andn (bits w 14 6) (bits w 8 6) (bits w 2 6))
  | 4 => resv (nz w 0 2) (nz w 2 6) (false) (.not (bits w 14 6) (bits w 8 6))
  | 5 => .ok (.andi (bits w 14 6) (bits w 8 6) (bits w 0 8))
  | 6 => .ok (.ori (bits w 14 6) (bits w 8 6) (bits w 0 8))
  | 7 => .ok (.xori (bits w 14 6) (bits w 8 6) (bits w 0 8))
  | 8 => resv (nz w 0 2) (false) (false) (.shl (bits w 14 6) (bits w 8 6) (bits w 2 6))
  | 9 => resv (nz w 0 2) (false) (false) (.shrl (bits w 14 6) (bits w 8 6) (bits w 2 6))
  | 10 => resv (nz w 0 2) (false) (false) (.shra (bits w 14 6) (bits w 8 6) (bits w 2 6))
  | 11 => resv (false) (nz w 5 3) (false) (.shli (bits w 14 6) (bits w 8 6) (bits w 0 5))
  | 12 => resv (false) (nz w 5 3) (false) (.shrli (bits w 14 6) (bits w 8 6) (bits w 0 5))
  | 13 => resv (false) (nz w 5 3) (false) (.shrai (bits w 14 6) (bits w 8 6) (bits w 0 5))
  | 14 => resv (nz w 0 2) (false) (false) (.rotl (bits w 14 6) (bits w 8 6) (bits w 2 6))
  | 15 => resv (nz w 1 1) (false) (false) (.bfx (bits w 14 6) (bits w 8 6) (bits w 2 6) (bits w 0 1))
  | _ => .error .unassigned

/-- Opcodes 0x20 to 0x2F (R77), by their low four bits. -/
def decode2x (lo : Nat) (w : Word) : Except UdiReason Instr :=
  match lo with
  | 0 => resv (nz w 0 2) (false) (false) (.bfi (bits w 14 6) (bits w 8 6) (bits w 2 6))
  | 1 => resv (nz w 0 2) (nz w 2 6) (false) (.popc (bits w 14 6) (bits w 8 6))
  | 2 => resv (nz w 0 2) (nz w 2 6) (false) (.clz (bits w 14 6) (bits w 8 6))
  | 3 => resv (nz w 0 2) (nz w 2 6) (false) (.brev (bits w 14 6) (bits w 8 6))
  | 4 => resv (nz w 1 1) (false) (false) (.pdot4 (bits w 14 6) (bits w 8 6) (bits w 2 6) (bits w 0 1))
  | 5 => match (bits w 0 2).toNat with
    | 0 => .ok (.padd4 (bits w 14 6) (bits w 8 6) (bits w 2 6))
    | 1 => .ok (.padd4Ss (bits w 14 6) (bits w 8 6) (bits w 2 6))
    | 2 => .ok (.padd4Us (bits w 14 6) (bits w 8 6) (bits w 2 6))
    | _ => .error .reserved
  | 6 => .ok (.ldi (bits w 14 6) (bits w 0 14))
  | 7 => resv (nz w 0 2) (nz w 2 6) (false) (.mov (bits w 14 6) (bits w 8 6))
  | 8 => .ok (.sel (bits w 14 6) (bits w 8 6) (bits w 2 6) (bits w 0 2))
  | 9 => resv (nz w 0 2 || condBad (bits w 14 4)) (false) (false) (.icmp (bits w 18 2) (bits w 14 4) (bits w 8 6) (bits w 2 6))
  | 10 => resv (condBad (bits w 14 4)) (false) (false) (.icmpi (bits w 18 2) (bits w 14 4) (bits w 8 6) (bits w 0 8))
  | 11 => resv (false) (nz w 14 4) (false) (.plog (bits w 18 2) (bits w 12 2) (bits w 10 2) (bits w 8 2) (bits w 0 8))
  | 12 => match (bits w 0 2).toNat with
    | 0 => resv (false) (nz w 8 6 || nz w 2 6) (false) (.pmovToReg (bits w 14 6))
    | 1 => resv (false) (nz w 2 6 || nz w 14 6) (false) (.pmovToPreds (bits w 8 6))
    | _ => .error .reserved
  | 13 => match (bits w 0 2).toNat with
    | 0 => resv (false) (nz w 2 6) (false) (.wredAdd (bits w 14 6) (bits w 8 6))
    | 1 => resv (false) (nz w 2 6) (false) (.wredMin (bits w 14 6) (bits w 8 6))
    | 2 => resv (false) (nz w 2 6) (false) (.wredMax (bits w 14 6) (bits w 8 6))
    | _ => resv (false) (nz w 2 6) (false) (.wredOr (bits w 14 6) (bits w 8 6))
  | 14 => resv (decide (0x0D < (bits w 0 8).toNat)) (nz w 8 6) (false) (.movs (bits w 14 6) (bits w 0 8))
  | 15 => if bits w 7 1 = 0 then resv (ctlBad (bits w 0 7)) (nz w 8 6) (false) (.movcRead (bits w 14 6) (bits w 0 7))
      else resv (ctlBad (bits w 0 7) || ctlReadOnly (bits w 0 7)) (nz w 14 6) (false) (.movcWrite (bits w 8 6) (bits w 0 7))
  | _ => .error .unassigned

/-- Opcodes 0x30 to 0x3F (R77), by their low four bits. -/
def decode3x (lo : Nat) (w : Word) : Except UdiReason Instr :=
  match lo with
  | 0 => .ok (.bra (bits w 0 20))
  | 1 => .ok (.brp (bits w 18 2) (bits w 17 1) (bits w 0 17))
  | 2 => resv (nz w 0 2) (nz w 2 6 || nz w 14 6) (false) (.jmpi (bits w 8 6))
  | 3 => .ok (.call (bits w 0 20))
  | 4 => resv (nz w 0 2) (nz w 2 6 || nz w 14 6) (false) (.calli (bits w 8 6))
  | 5 => resv (false) (nz w 0 20) (false) (.ret)
  | 6 => resv (false) (nz w 0 20) (false) (.exit)
  | 7 => resv (false) (nz w 0 17) (false) (.jset (bits w 17 3))
  | 8 => resv (false) (nz w 0 17) (false) (.join (bits w 17 3))
  | 9 => resv (false) (nz w 0 17) (false) (.jdrop (bits w 17 3))
  | 10 => resv (false) (nz w 0 20) (false) (.yield)
  | 11 => resv (false) (nz w 0 20) (false) (.rgn)
  | 12 => resv (granBad (bits w 0 3)) (nz w 14 6 || nz w 8 6 || nz w 3 5) (false) (.vgrow (bits w 0 3))
  | 13 => resv (granBad (bits w 0 3)) (nz w 14 6 || nz w 8 6 || nz w 3 5) (false) (.vshrink (bits w 0 3))
  | 14 => match (bits w 0 2).toNat with
    | 0 => resv (false) (nz w 2 6) (false) (.voteAny (bits w 14 6) (bits w 8 6))
    | 1 => resv (false) (nz w 2 6) (false) (.voteAll (bits w 14 6) (bits w 8 6))
    | 2 => resv (false) (nz w 2 6) (false) (.voteBallot (bits w 14 6) (bits w 8 6))
    | _ => .error .reserved
  | 15 => match (bits w 0 2).toNat with
    | 0 => .ok (.shflIdx (bits w 14 6) (bits w 8 6) (bits w 2 6))
    | 1 => .ok (.shflUp (bits w 14 6) (bits w 8 6) (bits w 2 6))
    | 2 => .ok (.shflDown (bits w 14 6) (bits w 8 6) (bits w 2 6))
    | _ => .ok (.shflXor (bits w 14 6) (bits w 8 6) (bits w 2 6))
  | _ => .error .unassigned

/-- Opcodes 0x40 to 0x4F (R77), by their low four bits. -/
def decode4x (lo : Nat) (w : Word) : Except UdiReason Instr :=
  match lo with
  | 0 => resv (nz w 0 2) (false) (false) (.fadd (bits w 14 6) (bits w 8 6) (bits w 2 6))
  | 1 => resv (nz w 0 2) (false) (false) (.fsub (bits w 14 6) (bits w 8 6) (bits w 2 6))
  | 2 => resv (nz w 0 2) (false) (false) (.fmul (bits w 14 6) (bits w 8 6) (bits w 2 6))
  | 3 => resv (nz w 0 2) (false) (false) (.ffma (bits w 14 6) (bits w 8 6) (bits w 2 6))
  | 4 => resv (nz w 0 2) (false) (false) (.fmin (bits w 14 6) (bits w 8 6) (bits w 2 6))
  | 5 => resv (nz w 0 2) (false) (false) (.fmax (bits w 14 6) (bits w 8 6) (bits w 2 6))
  | 6 => resv (nz w 0 2) (nz w 2 6) (false) (.fabs (bits w 14 6) (bits w 8 6))
  | 7 => resv (nz w 0 2) (nz w 2 6) (false) (.fneg (bits w 14 6) (bits w 8 6))
  | 8 => resv (nz w 0 2 || decide (5 < (bits w 14 4).toNat)) (false) (false) (.fcmp (bits w 18 2) (bits w 14 4) (bits w 8 6) (bits w 2 6))
  | 9 => resv (nz w 0 2) (nz w 2 6) (false) (.fclass (bits w 14 6) (bits w 8 6))
  | 10 => resv (nz w 0 2) (false) (false) (.fdiv (bits w 14 6) (bits w 8 6) (bits w 2 6))
  | 11 => resv (nz w 0 2) (nz w 2 6) (false) (.fsqrt (bits w 14 6) (bits w 8 6))
  | 12 => resv (nz w 0 2) (nz w 2 6) (false) (.frcp (bits w 14 6) (bits w 8 6))
  | 13 => resv (nz w 0 2) (nz w 2 6) (false) (.frsq (bits w 14 6) (bits w 8 6))
  | 14 => resv (nz w 0 2) (nz w 2 6) (false) (.fex2 (bits w 14 6) (bits w 8 6))
  | 15 => resv (nz w 0 2) (nz w 2 6) (false) (.flg2 (bits w 14 6) (bits w 8 6))
  | _ => .error .unassigned

/-- Opcodes 0x50 to 0x5F (R77), by their low four bits. -/
def decode5x (lo : Nat) (w : Word) : Except UdiReason Instr :=
  match lo with
  | 0 => resv (nz w 0 2) (nz w 2 6) (false) (.fsinp (bits w 14 6) (bits w 8 6))
  | 1 => resv (nz w 0 2) (nz w 2 6) (false) (.fcosp (bits w 14 6) (bits w 8 6))
  | 2 => resv (nz w 0 2) (nz w 2 6) (false) (.ftanh (bits w 14 6) (bits w 8 6))
  | 3 => resv (nz w 0 2) (false) (false) (.fscale (bits w 14 6) (bits w 8 6) (bits w 2 6))
  | 4 => resv (nz w 0 2) (nz w 2 6) (false) (.frnd (bits w 14 6) (bits w 8 6))
  | 5 => resv (nz w 1 1) (nz w 2 6) (false) (.f2i (bits w 14 6) (bits w 8 6) (bits w 0 1))
  | 6 => resv (nz w 1 1) (nz w 2 6) (false) (.i2f (bits w 14 6) (bits w 8 6) (bits w 0 1))
  | 7 => resv (nz w 0 2 || cvtBad (bits w 2 6)) (false) (false) (.fcvto (bits w 14 6) (bits w 8 6) (bits w 2 6))
  | 8 => resv (nz w 0 2 || cvtBad (bits w 2 6)) (false) (false) (.fcvti (bits w 14 6) (bits w 8 6) (bits w 2 6))
  | 9 => resv (nz w 0 2) (false) (false) (.hadd2 (bits w 14 6) (bits w 8 6) (bits w 2 6))
  | 10 => resv (nz w 0 2) (false) (false) (.hmul2 (bits w 14 6) (bits w 8 6) (bits w 2 6))
  | 11 => resv (nz w 0 2) (false) (false) (.hfma2 (bits w 14 6) (bits w 8 6) (bits w 2 6))
  | 12 => resv (nz w 0 2) (false) (false) (.badd2 (bits w 14 6) (bits w 8 6) (bits w 2 6))
  | 13 => resv (nz w 0 2) (false) (false) (.bmul2 (bits w 14 6) (bits w 8 6) (bits w 2 6))
  | 14 => resv (nz w 0 2) (false) (false) (.bfma2 (bits w 14 6) (bits w 8 6) (bits w 2 6))
  | 15 => match (bits w 0 2).toNat with
    | 0 => .ok (.hdot2F16 (bits w 14 6) (bits w 8 6) (bits w 2 6))
    | 1 => .ok (.hdot2Bf16 (bits w 14 6) (bits w 8 6) (bits w 2 6))
    | _ => .error .reserved
  | _ => .error .unassigned

/-- Opcodes 0x60 to 0x6F (R77), by their low four bits. -/
def decode6x (lo : Nat) (w : Word) : Except UdiReason Instr :=
  match lo with
  | 0 => .ok (.tld (bits w 14 6) (bits w 8 6) (bits w 0 8))
  | 1 => .ok (.tldh (bits w 14 6) (bits w 8 6) (bits w 0 8))
  | 2 => resv (selBad (bits w 2 6) || tstwBad (bits w 2 6) (bits w 0 2)) (false) (false) (.tstw (bits w 14 6) (bits w 8 6) (bits w 2 6) (bits w 0 2))
  | 3 => resv (nz w 0 2 || selBad (bits w 2 6)) (false) (false) (.tscl (bits w 14 6) (bits w 8 6) (bits w 2 6))
  | 4 => resv (nz w 0 2) (false) (false) (.tste (bits w 14 6) (bits w 8 6) (bits w 2 6))
  | 8 => resv (nz w 0 2) (nz w 2 6) (false) (.psnq (bits w 14 6) (bits w 8 6))
  | 9 => resv (nz w 0 2) (nz w 2 6) (false) (.psns (bits w 14 6) (bits w 8 6))
  | 10 => resv (nz w 0 2) (nz w 2 6) (false) (.psnc (bits w 14 6) (bits w 8 6))
  | _ => .error .unassigned

/-- Opcodes 0x80 to 0x8F (R77), by their low four bits. -/
def decode8x (lo : Nat) (w : Word) : Except UdiReason Instr :=
  match lo with
  | 0 => .ok (.ldb (bits w 14 6) (bits w 8 6) (bits w 0 8))
  | 1 => .ok (.ldh (bits w 14 6) (bits w 8 6) (bits w 0 8))
  | 2 => .ok (.ldw (bits w 14 6) (bits w 8 6) (bits w 0 8))
  | 3 => .ok (.ldd (bits w 14 6) (bits w 8 6) (bits w 0 8))
  | 4 => .ok (.ldq (bits w 14 6) (bits w 8 6) (bits w 0 8))
  | 5 => .ok (.stb (bits w 14 6) (bits w 8 6) (bits w 0 8))
  | 6 => .ok (.sth (bits w 14 6) (bits w 8 6) (bits w 0 8))
  | 7 => .ok (.stw (bits w 14 6) (bits w 8 6) (bits w 0 8))
  | 8 => .ok (.std (bits w 14 6) (bits w 8 6) (bits w 0 8))
  | 9 => .ok (.stq (bits w 14 6) (bits w 8 6) (bits w 0 8))
  | 10 => resv ((bits w 3 2) == 3) (nz w 5 3) (scopeBad (bits w 0 3)) (.lda (bits w 14 6) (bits w 8 6) (bits w 3 2) (bits w 0 3))
  | 11 => resv ((bits w 3 2) == 3) (nz w 5 3) (scopeBad (bits w 0 3)) (.stl (bits w 14 6) (bits w 8 6) (bits w 3 2) (bits w 0 3))
  | 12 => match (bits w 3 2).toNat with
    | 0 => resv (false) (nz w 14 6 || nz w 8 6 || nz w 5 3) (scopeBad (bits w 0 3)) (.fenceFull (bits w 0 3))
    | 1 => resv (false) (nz w 14 6 || nz w 8 6 || nz w 5 3) (scopeBad (bits w 0 3)) (.fenceAcq (bits w 0 3))
    | 2 => resv (false) (nz w 14 6 || nz w 8 6 || nz w 5 3) (scopeBad (bits w 0 3)) (.fenceRel (bits w 0 3))
    | _ => .error .reserved
  | 13 => resv (decide (4 < (bits w 5 3).toNat)) (false) (false) (.lds (bits w 14 6) (bits w 8 6) (bits w 5 3) (bits w 0 5))
  | 14 => resv (decide (4 < (bits w 5 3).toNat)) (false) (false) (.sts (bits w 14 6) (bits w 8 6) (bits w 5 3) (bits w 0 5))
  | _ => .error .unassigned

/-- Opcodes 0x90 to 0x9F (R77), by their low four bits. -/
def decode9x (lo : Nat) (w : Word) : Except UdiReason Instr :=
  match lo with
  | 0 => resv (false) (nz w 5 3) (scopeBad (bits w 0 3)) (.atadd (bits w 14 6) (bits w 8 6) (bits w 4 1) (bits w 3 1) (bits w 0 3))
  | 1 => resv (false) (nz w 5 3) (scopeBad (bits w 0 3)) (.atsub (bits w 14 6) (bits w 8 6) (bits w 4 1) (bits w 3 1) (bits w 0 3))
  | 2 => resv (false) (nz w 5 3) (scopeBad (bits w 0 3)) (.atmins (bits w 14 6) (bits w 8 6) (bits w 4 1) (bits w 3 1) (bits w 0 3))
  | 3 => resv (false) (nz w 5 3) (scopeBad (bits w 0 3)) (.atminz (bits w 14 6) (bits w 8 6) (bits w 4 1) (bits w 3 1) (bits w 0 3))
  | 4 => resv (false) (nz w 5 3) (scopeBad (bits w 0 3)) (.atmaxs (bits w 14 6) (bits w 8 6) (bits w 4 1) (bits w 3 1) (bits w 0 3))
  | 5 => resv (false) (nz w 5 3) (scopeBad (bits w 0 3)) (.atmaxz (bits w 14 6) (bits w 8 6) (bits w 4 1) (bits w 3 1) (bits w 0 3))
  | 6 => resv (false) (nz w 5 3) (scopeBad (bits w 0 3)) (.atand (bits w 14 6) (bits w 8 6) (bits w 4 1) (bits w 3 1) (bits w 0 3))
  | 7 => resv (false) (nz w 5 3) (scopeBad (bits w 0 3)) (.ator (bits w 14 6) (bits w 8 6) (bits w 4 1) (bits w 3 1) (bits w 0 3))
  | 8 => resv (false) (nz w 5 3) (scopeBad (bits w 0 3)) (.atxor (bits w 14 6) (bits w 8 6) (bits w 4 1) (bits w 3 1) (bits w 0 3))
  | 9 => resv (false) (nz w 5 3) (scopeBad (bits w 0 3)) (.atxch (bits w 14 6) (bits w 8 6) (bits w 4 1) (bits w 3 1) (bits w 0 3))
  | 10 => resv (false) (nz w 5 3) (scopeBad (bits w 0 3)) (.atinc (bits w 14 6) (bits w 8 6) (bits w 4 1) (bits w 3 1) (bits w 0 3))
  | 11 => resv (false) (nz w 3 1 || nz w 5 3) (scopeBad (bits w 0 3)) (.atfadd (bits w 14 6) (bits w 8 6) (bits w 4 1) (bits w 0 3))
  | 12 => resv (false) (nz w 3 1 || nz w 5 3) (scopeBad (bits w 0 3)) (.atfmin (bits w 14 6) (bits w 8 6) (bits w 4 1) (bits w 0 3))
  | 13 => resv (false) (nz w 3 1 || nz w 5 3) (scopeBad (bits w 0 3)) (.atfmax (bits w 14 6) (bits w 8 6) (bits w 4 1) (bits w 0 3))
  | 14 => resv (false) (nz w 3 1 || nz w 5 3) (scopeBad (bits w 0 3)) (.atcas (bits w 14 6) (bits w 8 6) (bits w 4 1) (bits w 0 3))
  | 15 => resv (false) (nz w 3 1 || nz w 5 3) (scopeBad (bits w 0 3)) (.atcas64 (bits w 14 6) (bits w 8 6) (bits w 4 1) (bits w 0 3))
  | _ => .error .unassigned

/-- Opcodes 0xA0 to 0xAF (R77), by their low four bits. -/
def decodeAx (lo : Nat) (w : Word) : Except UdiReason Instr :=
  match lo with
  | 0 => resv (false) (nz w 4 4 || nz w 14 6) (false) (.bar (bits w 8 6) (bits w 0 4))
  | 1 => resv (false) (nz w 4 4 || nz w 14 6) (false) (.bara (bits w 8 6) (bits w 0 4))
  | 2 => resv (false) (nz w 14 6 || nz w 8 6 || nz w 4 4) (false) (.barw (bits w 0 4))
  | 3 => .ok (.waitm (bits w 14 6) (bits w 8 6) (bits w 2 6) (bits w 0 2))
  | 4 => resv (false) (nz w 14 6) (false) (.pref (bits w 8 6) (bits w 0 8))
  | 5 => resv (false) (nz w 8 6 || nz w 3 5) (false) (.rget (bits w 14 6) (bits w 0 3))
  | 6 => resv (false) (nz w 14 6 || nz w 8 6 || nz w 3 5) (false) (.rput (bits w 0 3))
  | 7 => resv (false) (nz w 14 6 || nz w 8 6 || nz w 3 5) (false) (.rfree (bits w 0 3))
  | 8 => resv (false) (nz w 8 6 || nz w 3 5) (false) (.rtake (bits w 14 6) (bits w 0 3))
  | 9 => resv (false) (nz w 0 20) (false) (.invl1)
  | 10 => resv (nz w 0 2) (nz w 2 6 || nz w 14 6) (false) (.waitf (bits w 8 6))
  | 11 => resv (nz w 0 2) (nz w 8 6 || nz w 2 6) (false) (.ackq (bits w 14 6))
  | _ => .error .unassigned

/-- Opcodes 0xB0 to 0xBF (R77), by their low four bits. -/
def decodeBx (lo : Nat) (w : Word) : Except UdiReason Instr :=
  match lo with
  | 0 => .ok (.opinst (bits w 14 6) (bits w 8 6) (bits w 0 8))
  | 1 => resv (nz w 0 2) (nz w 2 6 || nz w 14 6) (false) (.opfree (bits w 8 6))
  | 2 => resv (nz w 0 2) (nz w 2 6 || nz w 14 6) (false) (.opswap (bits w 8 6))
  | 3 => resv (nz w 0 2) (false) (false) (.opqry (bits w 14 6) (bits w 8 6) (bits w 2 6))
  | 4 => resv (nz w 0 2) (nz w 14 6) (false) (.opfire (bits w 8 6) (bits w 2 6))
  | 5 => resv (nz w 0 2) (nz w 14 6) (false) (.opdrop (bits w 8 6) (bits w 2 6))
  | 6 => resv (false) (nz w 0 20) (false) (.opfence)
  | 7 => resv (nz w 0 2) (false) (false) (.opgrant (bits w 14 6) (bits w 8 6) (bits w 2 6))
  | 8 => resv (nz w 0 2) (false) (false) (.opwait (bits w 14 6) (bits w 8 6) (bits w 2 6))
  | 9 => resv (nz w 0 2) (nz w 2 6 || nz w 14 6) (false) (.opseq (bits w 8 6))
  | _ => .error .unassigned

/-- Opcodes 0xC0 to 0xCF (R77), by their low four bits. -/
def decodeCx (lo : Nat) (w : Word) : Except UdiReason Instr :=
  match lo with
  | 0 => .ok (.tmul (bits w 16 4) (bits w 12 4) (bits w 6 6) (bits w 0 6))
  | 1 => .ok (.tmac (bits w 16 4) (bits w 12 4) (bits w 6 6) (bits w 0 6))
  | 2 => .ok (.tzero (bits w 16 4) (bits w 12 4) (bits w 6 6) (bits w 0 6))
  | 3 => .ok (.tacopy (bits w 16 4) (bits w 12 4) (bits w 6 6) (bits w 0 6))
  | 4 => .ok (.taload (bits w 16 4) (bits w 12 4) (bits w 6 6) (bits w 0 6))
  | 5 => .ok (.tring (bits w 16 4) (bits w 12 4) (bits w 6 6) (bits w 0 6))
  | 6 => .ok (.tsig (bits w 16 4) (bits w 12 4) (bits w 6 6) (bits w 0 6))
  | 7 => .ok (.tset (bits w 16 4) (bits w 12 4) (bits w 6 6) (bits w 0 6))
  | 8 => .ok (.taddq (bits w 16 4) (bits w 12 4) (bits w 6 6) (bits w 0 6))
  | 9 => .ok (.tloop (bits w 16 4) (bits w 12 4) (bits w 6 6) (bits w 0 6))
  | 10 => .ok (.tjmp (bits w 16 4) (bits w 12 4) (bits w 6 6) (bits w 0 6))
  | 11 => .ok (.twaitc (bits w 16 4) (bits w 12 4) (bits w 6 6) (bits w 0 6))
  | 12 => .ok (.tend (bits w 16 4) (bits w 12 4) (bits w 6 6) (bits w 0 6))
  | 14 => .ok (.tswap (bits w 16 4) (bits w 12 4) (bits w 6 6) (bits w 0 6))
  | _ => .error .unassigned

/-- Opcodes 0xD0 to 0xDF (R77), by their low four bits. -/
def decodeDx (lo : Nat) (w : Word) : Except UdiReason Instr :=
  match lo with
  | 0 => resv ((bits w 6 2) == 3) (false) (false) (.cpy (bits w 14 6) (bits w 8 6) (bits w 6 2) (bits w 0 6))
  | 1 => resv (false) (nz w 2 6 || nz w 0 2 || nz w 14 6) (false) (.gath (bits w 8 6))
  | 2 => resv (false) (nz w 2 6 || nz w 0 2 || nz w 14 6) (false) (.scat (bits w 8 6))
  | 3 => resv (false) (nz w 2 6 || nz w 0 2 || nz w 14 6) (false) (.cpyw (bits w 8 6))
  | 4 => match (bits w 0 2).toNat with
    | 0 => resv (false) (nz w 2 6) (false) (.shdwBind (bits w 14 6) (bits w 8 6))
    | 1 => resv (false) (nz w 2 6 || nz w 14 6) (false) (.shdwFree (bits w 8 6))
    | 2 => resv (false) (nz w 2 6) (false) (.shdwGen (bits w 14 6) (bits w 8 6))
    | _ => .error .reserved
  | 5 => resv (false) (nz w 3 5 || nz w 14 6) (scopeBad (bits w 0 3)) (.publish (bits w 8 6) (bits w 0 3))
  | 6 => resv (false) (nz w 2 6 || nz w 0 2) (false) (.coll (bits w 14 6) (bits w 8 6))
  | 7 => resv (false) (nz w 2 6 || nz w 0 2) (false) (.collw (bits w 14 6) (bits w 8 6))
  | 8 => resv (false) (nz w 2 6 || nz w 0 2 || nz w 14 6) (false) (.mcast (bits w 8 6))
  | 9 => resv (false) (nz w 0 2) (false) (.launch (bits w 14 6) (bits w 8 6) (bits w 2 6))
  | 10 => resv (false) (nz w 2 6 || nz w 0 2) (false) (.lwait (bits w 14 6) (bits w 8 6))
  | 11 => .ok (.svc (bits w 14 6) (bits w 8 6) (bits w 0 8))
  | 12 => resv (false) (nz w 14 6) (false) (.trap (bits w 8 6) (bits w 0 8))
  | 13 => resv (false) (nz w 0 2 || nz w 14 6) (false) (.notify (bits w 8 6) (bits w 2 6))
  | 14 => resv (false) (nz w 2 6 || nz w 0 2) (false) (.errpop (bits w 14 6) (bits w 8 6))
  | 15 => match (bits w 0 2).toNat with
    | 0 => .ok (.slotqDirect (bits w 14 6) (bits w 8 6) (bits w 2 6))
    | 1 => .ok (.slotqRoute (bits w 14 6) (bits w 8 6) (bits w 2 6))
    | _ => .error .reserved
  | _ => .error .unassigned

/-- Opcodes 0xE0 to 0xEF (R77), by their low four bits. -/
def decodeEx (lo : Nat) (w : Word) : Except UdiReason Instr :=
  match lo with
  | 0 => resv (false) (nz w 0 2) (false) (.svcreply (bits w 14 6) (bits w 8 6) (bits w 2 6))
  | 1 => resv (false) (nz w 0 20) (false) (.rtt)
  | 2 => match (bits w 0 2).toNat with
    | 0 => resv (false) (nz w 14 6) (false) (.tlbinvPage (bits w 8 6) (bits w 2 6))
    | 1 => resv (false) (nz w 14 6) (false) (.tlbinvContext (bits w 8 6) (bits w 2 6))
    | 2 => resv (false) (nz w 14 6) (false) (.tlbinvVd (bits w 8 6) (bits w 2 6))
    | _ => .error .reserved
  | 3 => resv (false) (nz w 14 6 || nz w 8 6 || nz w 3 5) (scopeBad (bits w 0 3)) (.tfence (bits w 0 3))
  | 4 => resv (false) (nz w 0 2) (false) (.keyload (bits w 14 6) (bits w 8 6) (bits w 2 6))
  | 5 => resv (false) (nz w 2 6 || nz w 0 2) (false) (.keyrevoke (bits w 14 6) (bits w 8 6))
  | 6 => resv (false) (nz w 0 2) (false) (.qosset (bits w 14 6) (bits w 8 6) (bits w 2 6))
  | 7 => resv (false) (nz w 0 2) (false) (.ctxsave (bits w 14 6) (bits w 8 6) (bits w 2 6))
  | 8 => resv (false) (nz w 0 2) (false) (.ctxrest (bits w 14 6) (bits w 8 6) (bits w 2 6))
  | 9 => resv (false) (nz w 0 2) (false) (.ctxkill (bits w 14 6) (bits w 8 6) (bits w 2 6))
  | 10 => resv (false) (nz w 0 2) (false) (.pgsplit (bits w 14 6) (bits w 8 6) (bits w 2 6))
  | 12 => resv (false) (nz w 0 20) (false) (.wfi)
  | 13 => match (bits w 0 2).toNat with
    | 0 => .ok (.partctlAssign (bits w 14 6) (bits w 8 6) (bits w 2 6))
    | 1 => .ok (.partctlReset (bits w 14 6) (bits w 8 6) (bits w 2 6))
    | 2 => .ok (.partctlStop (bits w 14 6) (bits w 8 6) (bits w 2 6))
    | _ => .error .reserved
  | 14 => resv (false) (nz w 2 6 || nz w 0 2 || nz w 14 6) (false) (.sleep (bits w 8 6))
  | 15 => resv (false) (nz w 0 20) (false) (.halt)
  | _ => .error .unassigned

/-- Opcodes 0xF0 to 0xFF (R77), by their low four bits. -/
def decodeFx (lo : Nat) (w : Word) : Except UdiReason Instr :=
  match lo with
  | 0 => .ok (.himm (bits w 0 22))
  | 1 => .ok (.himm (bits w 0 22))
  | 2 => .ok (.himm (bits w 0 22))
  | 3 => .ok (.himm (bits w 0 22))
  | 4 => .ok (.hcls (bits w 8 12) (bits w 4 4) (bits w 0 4))
  | 5 => resv (rndBad (bits w 17 3) || (bits w 15 2) == 3) (nz w 8 5 || nz w 0 8) (false) (.hmod (bits w 17 3) (bits w 15 2) (bits w 13 2))
  | 6 => .ok (.hintReservedF6 (bits w 20 1) (bits w 0 20))
  | 7 => .ok (.hintReservedF6 (bits w 20 1) (bits w 0 20))
  | 8 => .ok (.hintReservedF8 (bits w 20 3) (bits w 0 20))
  | 9 => .ok (.hintReservedF8 (bits w 20 3) (bits w 0 20))
  | 10 => .ok (.hintReservedF8 (bits w 20 3) (bits w 0 20))
  | 11 => .ok (.hintReservedF8 (bits w 20 3) (bits w 0 20))
  | 12 => .ok (.hintReservedF8 (bits w 20 3) (bits w 0 20))
  | 13 => .ok (.hintReservedF8 (bits w 20 3) (bits w 0 20))
  | 14 => .ok (.hintReservedF8 (bits w 20 3) (bits w 0 20))
  | _ => .ok (.hintReservedF8 (bits w 20 3) (bits w 0 20))

/-- The instruction a word stands for, or the reason it is refused (R79, R80). -/
def decodeWord (w : Word) : Except UdiReason Instr :=
  let lo := (bits w 20 4).toNat
  match (bits w 24 4).toNat with
  | 0 => decode0x lo w
  | 1 => decode1x lo w
  | 2 => decode2x lo w
  | 3 => decode3x lo w
  | 4 => decode4x lo w
  | 5 => decode5x lo w
  | 6 => decode6x lo w
  | 7 => .error .unassigned
  | 8 => decode8x lo w
  | 9 => decode9x lo w
  | 10 => decodeAx lo w
  | 11 => decodeBx lo w
  | 12 => decodeCx lo w
  | 13 => decodeDx lo w
  | 14 => decodeEx lo w
  | _ => decodeFx lo w

/-- The word whose bytes stand little-endian in a list of at least four bytes, and the bytes after it (R58). -/
def wordOfBytes : List Byte → Option (Word × List Byte)
  | b0 :: b1 :: b2 :: b3 :: rest => some (b3 ++ b2 ++ b1 ++ b0, rest)
  | _ => none

/-- The four bytes of a word in address order (R58). -/
def bytesOfWord (w : Word) : List Byte := [bits w 0 8, bits w 8 8, bits w 16 8, bits w 24 8]

/-- Decoding of bytes in address order: total, none where the bytes are too few or the word is refused. -/
def decodeBytes (bs : List Byte) : Option (Instr × List Byte) :=
  match wordOfBytes bs with
  | none => none
  | some (w, rest) =>
    match decodeWord w with
    | .ok i => some (i, rest)
    | .error _ => none

/-- The host's view of the decoder: the instruction read from a word given as a number, laid out in bytes as the hardware stores
it. Every instruction is one word of 32 bits, so bits from nbits up are zero. -/
def decodeTableWord (nbits w : Nat) : Option Instr :=
  (decodeBytes (bytesOfWord (BitVec.ofNat 32 (w % 2 ^ nbits)))).map Prod.fst

/-- Bit strings joined, the first in the high bits (R20: a:b). -/
def cat {n m : Nat} (x : BitVec n) (y : BitVec m) : BitVec (n + m) := x ++ y

/-- A bit string of 32 bits as a word. -/
def toWord {n : Nat} (x : BitVec n) (h : n = 32 := by rfl) : Word := x.cast h

/-- A word from V, S, an opcode and the 20 bits of its operand field (R57): formats BRA and NUL, and the reserved hints. -/
def opWord (sc : Sched) (op : BitVec 8) (x : BitVec 20) : Word := toWord (cat (cat (cat sc.v sc.s) op) x)

/-- Format RRR (R60). -/
def rrr (sc : Sched) (op : BitVec 8) (d a b : BitVec 6) (m : BitVec 2) : Word :=
  toWord (cat (cat (cat (cat (cat (cat sc.v sc.s) op) d) a) b) m)

/-- Formats RRI and MEM (R60). -/
def rri (sc : Sched) (op : BitVec 8) (d a : BitVec 6) (i : BitVec 8) : Word :=
  toWord (cat (cat (cat (cat (cat sc.v sc.s) op) d) a) i)

/-- Format LDI (R60). -/
def ldiWord (sc : Sched) (op : BitVec 8) (d : BitVec 6) (i : BitVec 14) : Word :=
  toWord (cat (cat (cat (cat sc.v sc.s) op) d) i)

/-- Format BRP (R60). -/
def brpWord (sc : Sched) (op : BitVec 8) (p : BitVec 2) (n : BitVec 1) (o : BitVec 17) : Word :=
  toWord (cat (cat (cat (cat (cat sc.v sc.s) op) p) n) o)

/-- Format J (R60). -/
def jWord (sc : Sched) (op : BitVec 8) (j : BitVec 3) : Word :=
  toWord (cat (cat (cat (cat sc.v sc.s) op) j) 0x0#17)

/-- Format TILE (R60): P1, P2, qa, qb. -/
def tileWord (sc : Sched) (op : BitVec 8) (p q : BitVec 4) (x y : BitVec 6) : Word :=
  toWord (cat (cat (cat (cat (cat (cat sc.v sc.s) op) p) q) x) y)

/-- HIMM: the low two bits of the opcode are the payload's high ones (R69). -/
def himmWord (sc : Sched) (p : BitVec 22) : Word := toWord (cat (cat (cat sc.v sc.s) 0x3C#6) p)

/-- HCLS: wait mask, fa, fb (R74). -/
def hclsWord (sc : Sched) (m : BitVec 12) (a b : BitVec 4) : Word :=
  toWord (cat (cat (cat (cat (cat sc.v sc.s) 0xF4#8) m) a) b)

/-- HMOD: RND, SAT, CP (R70). -/
def hmodWord (sc : Sched) (r : BitVec 3) (t c : BitVec 2) : Word :=
  toWord (cat (cat (cat (cat (cat (cat sc.v sc.s) 0xF5#8) r) t) c) 0x0#13)

/-- The word of an instruction with the given scheduling fields (R57, R60, R67, R69, R70, R74, R77); none for an event. -/
def encode (sc : Sched) : Instr → Option Word
  | .iadd d a b => some (rrr sc 0x01#8 d a b 0x0#2)
  | .iaddi d a i => some (rri sc 0x02#8 d a i)
  | .isub d a b => some (rrr sc 0x03#8 d a b 0x0#2)
  | .iadds d a b t => some (rrr sc 0x04#8 d a b (cat 0x0#1 t))
  | .imul d a b => some (rrr sc 0x05#8 d a b 0x0#2)
  | .imulh d a b t => some (rrr sc 0x06#8 d a b (cat 0x0#1 t))
  | .imad d a b => some (rrr sc 0x07#8 d a b 0x0#2)
  | .imadw d a b t => some (rrr sc 0x08#8 d a b (cat 0x0#1 t))
  | .idiv d a b t => some (rrr sc 0x09#8 d a b (cat 0x0#1 t))
  | .irem d a b t => some (rrr sc 0x0A#8 d a b (cat 0x0#1 t))
  | .imin d a b t => some (rrr sc 0x0B#8 d a b (cat 0x0#1 t))
  | .imax d a b t => some (rrr sc 0x0C#8 d a b (cat 0x0#1 t))
  | .iabs d a => some (rrr sc 0x0D#8 d a 0x0#6 0x0#2)
  | .ineg d a => some (rrr sc 0x0E#8 d a 0x0#6 0x0#2)
  | .lea d a b x => some (rrr sc 0x0F#8 d a b x)
  | .and d a b => some (rrr sc 0x10#8 d a b 0x0#2)
  | .or d a b => some (rrr sc 0x11#8 d a b 0x0#2)
  | .xor d a b => some (rrr sc 0x12#8 d a b 0x0#2)
  | .andn d a b => some (rrr sc 0x13#8 d a b 0x0#2)
  | .not d a => some (rrr sc 0x14#8 d a 0x0#6 0x0#2)
  | .andi d a i => some (rri sc 0x15#8 d a i)
  | .ori d a i => some (rri sc 0x16#8 d a i)
  | .xori d a i => some (rri sc 0x17#8 d a i)
  | .shl d a b => some (rrr sc 0x18#8 d a b 0x0#2)
  | .shrl d a b => some (rrr sc 0x19#8 d a b 0x0#2)
  | .shra d a b => some (rrr sc 0x1A#8 d a b 0x0#2)
  | .shli d a n => some (rri sc 0x1B#8 d a (cat 0x0#3 n))
  | .shrli d a n => some (rri sc 0x1C#8 d a (cat 0x0#3 n))
  | .shrai d a n => some (rri sc 0x1D#8 d a (cat 0x0#3 n))
  | .rotl d a b => some (rrr sc 0x1E#8 d a b 0x0#2)
  | .bfx d a b t => some (rrr sc 0x1F#8 d a b (cat 0x0#1 t))
  | .bfi d a b => some (rrr sc 0x20#8 d a b 0x0#2)
  | .popc d a => some (rrr sc 0x21#8 d a 0x0#6 0x0#2)
  | .clz d a => some (rrr sc 0x22#8 d a 0x0#6 0x0#2)
  | .brev d a => some (rrr sc 0x23#8 d a 0x0#6 0x0#2)
  | .pdot4 d a b t => some (rrr sc 0x24#8 d a b (cat 0x0#1 t))
  | .padd4 d a b => some (rrr sc 0x25#8 d a b 0x0#2)
  | .padd4Ss d a b => some (rrr sc 0x25#8 d a b 0x1#2)
  | .padd4Us d a b => some (rrr sc 0x25#8 d a b 0x2#2)
  | .ldi d i => some (ldiWord sc 0x26#8 d i)
  | .mov d a => some (rrr sc 0x27#8 d a 0x0#6 0x0#2)
  | .sel d a b p => some (rrr sc 0x28#8 d a b p)
  | .icmp p c a b => some (rrr sc 0x29#8 (cat p c) a b 0x0#2)
  | .icmpi p c a i => some (rri sc 0x2A#8 (cat p c) a i)
  | .plog p x y z t => some (rri sc 0x2B#8 (cat p 0x0#4) (cat (cat x y) z) t)
  | .wredAdd d a => some (rrr sc 0x2D#8 d a 0x0#6 0x0#2)
  | .wredMin d a => some (rrr sc 0x2D#8 d a 0x0#6 0x1#2)
  | .wredMax d a => some (rrr sc 0x2D#8 d a 0x0#6 0x2#2)
  | .wredOr d a => some (rrr sc 0x2D#8 d a 0x0#6 0x3#2)
  | .pmovToReg d => some (rrr sc 0x2C#8 d 0x0#6 0x0#6 0x0#2)
  | .pmovToPreds a => some (rrr sc 0x2C#8 0x0#6 a 0x0#6 0x1#2)
  | .movs d i => some (rri sc 0x2E#8 d 0x0#6 i)
  | .movcRead d i => some (rri sc 0x2F#8 d 0x0#6 (cat 0x0#1 i))
  | .movcWrite a i => some (rri sc 0x2F#8 0x0#6 a (cat 0x1#1 i))
  | .bra o => some (opWord sc 0x30#8 o)
  | .brp p n o => some (brpWord sc 0x31#8 p n o)
  | .jmpi a => some (rrr sc 0x32#8 0x0#6 a 0x0#6 0x0#2)
  | .call o => some (opWord sc 0x33#8 o)
  | .calli a => some (rrr sc 0x34#8 0x0#6 a 0x0#6 0x0#2)
  | .ret => some (opWord sc 0x35#8 0x0#20)
  | .exit => some (opWord sc 0x36#8 0x0#20)
  | .jset j => some (jWord sc 0x37#8 j)
  | .join j => some (jWord sc 0x38#8 j)
  | .jdrop j => some (jWord sc 0x39#8 j)
  | .yield => some (opWord sc 0x3A#8 0x0#20)
  | .rgn => some (opWord sc 0x3B#8 0x0#20)
  | .vgrow n => some (rri sc 0x3C#8 0x0#6 0x0#6 (cat 0x0#5 n))
  | .vshrink n => some (rri sc 0x3D#8 0x0#6 0x0#6 (cat 0x0#5 n))
  | .voteAny d a => some (rrr sc 0x3E#8 d a 0x0#6 0x0#2)
  | .voteAll d a => some (rrr sc 0x3E#8 d a 0x0#6 0x1#2)
  | .voteBallot d a => some (rrr sc 0x3E#8 d a 0x0#6 0x2#2)
  | .shflIdx d a b => some (rrr sc 0x3F#8 d a b 0x0#2)
  | .shflUp d a b => some (rrr sc 0x3F#8 d a b 0x1#2)
  | .shflDown d a b => some (rrr sc 0x3F#8 d a b 0x2#2)
  | .shflXor d a b => some (rrr sc 0x3F#8 d a b 0x3#2)
  | .fadd d a b => some (rrr sc 0x40#8 d a b 0x0#2)
  | .fsub d a b => some (rrr sc 0x41#8 d a b 0x0#2)
  | .fmul d a b => some (rrr sc 0x42#8 d a b 0x0#2)
  | .ffma d a b => some (rrr sc 0x43#8 d a b 0x0#2)
  | .fmin d a b => some (rrr sc 0x44#8 d a b 0x0#2)
  | .fmax d a b => some (rrr sc 0x45#8 d a b 0x0#2)
  | .fabs d a => some (rrr sc 0x46#8 d a 0x0#6 0x0#2)
  | .fneg d a => some (rrr sc 0x47#8 d a 0x0#6 0x0#2)
  | .fcmp p c a b => some (rrr sc 0x48#8 (cat p c) a b 0x0#2)
  | .fclass d a => some (rrr sc 0x49#8 d a 0x0#6 0x0#2)
  | .fdiv d a b => some (rrr sc 0x4A#8 d a b 0x0#2)
  | .fsqrt d a => some (rrr sc 0x4B#8 d a 0x0#6 0x0#2)
  | .frcp d a => some (rrr sc 0x4C#8 d a 0x0#6 0x0#2)
  | .frsq d a => some (rrr sc 0x4D#8 d a 0x0#6 0x0#2)
  | .fex2 d a => some (rrr sc 0x4E#8 d a 0x0#6 0x0#2)
  | .flg2 d a => some (rrr sc 0x4F#8 d a 0x0#6 0x0#2)
  | .fsinp d a => some (rrr sc 0x50#8 d a 0x0#6 0x0#2)
  | .fcosp d a => some (rrr sc 0x51#8 d a 0x0#6 0x0#2)
  | .ftanh d a => some (rrr sc 0x52#8 d a 0x0#6 0x0#2)
  | .fscale d a b => some (rrr sc 0x53#8 d a b 0x0#2)
  | .frnd d a => some (rrr sc 0x54#8 d a 0x0#6 0x0#2)
  | .f2i d a t => some (rrr sc 0x55#8 d a 0x0#6 (cat 0x0#1 t))
  | .i2f d a t => some (rrr sc 0x56#8 d a 0x0#6 (cat 0x0#1 t))
  | .fcvto d a f => some (rrr sc 0x57#8 d a f 0x0#2)
  | .fcvti d a f => some (rrr sc 0x58#8 d a f 0x0#2)
  | .hadd2 d a b => some (rrr sc 0x59#8 d a b 0x0#2)
  | .hmul2 d a b => some (rrr sc 0x5A#8 d a b 0x0#2)
  | .hfma2 d a b => some (rrr sc 0x5B#8 d a b 0x0#2)
  | .badd2 d a b => some (rrr sc 0x5C#8 d a b 0x0#2)
  | .bmul2 d a b => some (rrr sc 0x5D#8 d a b 0x0#2)
  | .bfma2 d a b => some (rrr sc 0x5E#8 d a b 0x0#2)
  | .hdot2F16 d a b => some (rrr sc 0x5F#8 d a b 0x0#2)
  | .hdot2Bf16 d a b => some (rrr sc 0x5F#8 d a b 0x1#2)
  | .tld d a o => some (rri sc 0x60#8 d a o)
  | .tldh d a o => some (rri sc 0x61#8 d a o)
  | .tstw d a f m => some (rrr sc 0x62#8 d a f m)
  | .tscl d a f => some (rrr sc 0x63#8 d a f 0x0#2)
  | .tste d a b => some (rrr sc 0x64#8 d a b 0x0#2)
  | .psnq d a => some (rrr sc 0x68#8 d a 0x0#6 0x0#2)
  | .psns d a => some (rrr sc 0x69#8 d a 0x0#6 0x0#2)
  | .psnc d a => some (rrr sc 0x6A#8 d a 0x0#6 0x0#2)
  | .ldb d a o => some (rri sc 0x80#8 d a o)
  | .ldh d a o => some (rri sc 0x81#8 d a o)
  | .ldw d a o => some (rri sc 0x82#8 d a o)
  | .ldd d a o => some (rri sc 0x83#8 d a o)
  | .ldq d a o => some (rri sc 0x84#8 d a o)
  | .stb d a o => some (rri sc 0x85#8 d a o)
  | .sth d a o => some (rri sc 0x86#8 d a o)
  | .stw d a o => some (rri sc 0x87#8 d a o)
  | .std d a o => some (rri sc 0x88#8 d a o)
  | .stq d a o => some (rri sc 0x89#8 d a o)
  | .lda d a w c => some (rri sc 0x8A#8 d a (cat (cat 0x0#3 w) c))
  | .stl d a w c => some (rri sc 0x8B#8 d a (cat (cat 0x0#3 w) c))
  | .fenceFull c => some (rri sc 0x8C#8 0x0#6 0x0#6 (cat 0x0#5 c))
  | .fenceAcq c => some (rri sc 0x8C#8 0x0#6 0x0#6 (cat 0x1#5 c))
  | .fenceRel c => some (rri sc 0x8C#8 0x0#6 0x0#6 (cat 0x2#5 c))
  | .lds d a w o => some (rri sc 0x8D#8 d a (cat w o))
  | .sts d a w o => some (rri sc 0x8E#8 d a (cat w o))
  | .atadd d a r x c => some (rri sc 0x90#8 d a (cat (cat (cat 0x0#3 r) x) c))
  | .atsub d a r x c => some (rri sc 0x91#8 d a (cat (cat (cat 0x0#3 r) x) c))
  | .atmins d a r x c => some (rri sc 0x92#8 d a (cat (cat (cat 0x0#3 r) x) c))
  | .atminz d a r x c => some (rri sc 0x93#8 d a (cat (cat (cat 0x0#3 r) x) c))
  | .atmaxs d a r x c => some (rri sc 0x94#8 d a (cat (cat (cat 0x0#3 r) x) c))
  | .atmaxz d a r x c => some (rri sc 0x95#8 d a (cat (cat (cat 0x0#3 r) x) c))
  | .atand d a r x c => some (rri sc 0x96#8 d a (cat (cat (cat 0x0#3 r) x) c))
  | .ator d a r x c => some (rri sc 0x97#8 d a (cat (cat (cat 0x0#3 r) x) c))
  | .atxor d a r x c => some (rri sc 0x98#8 d a (cat (cat (cat 0x0#3 r) x) c))
  | .atxch d a r x c => some (rri sc 0x99#8 d a (cat (cat (cat 0x0#3 r) x) c))
  | .atinc d a r x c => some (rri sc 0x9A#8 d a (cat (cat (cat 0x0#3 r) x) c))
  | .atfadd d a r c => some (rri sc 0x9B#8 d a (cat (cat (cat 0x0#3 r) 0x0#1) c))
  | .atfmin d a r c => some (rri sc 0x9C#8 d a (cat (cat (cat 0x0#3 r) 0x0#1) c))
  | .atfmax d a r c => some (rri sc 0x9D#8 d a (cat (cat (cat 0x0#3 r) 0x0#1) c))
  | .atcas d a r c => some (rri sc 0x9E#8 d a (cat (cat (cat 0x0#3 r) 0x0#1) c))
  | .atcas64 d a r c => some (rri sc 0x9F#8 d a (cat (cat (cat 0x0#3 r) 0x0#1) c))
  | .bar a n => some (rri sc 0xA0#8 0x0#6 a (cat 0x0#4 n))
  | .bara a n => some (rri sc 0xA1#8 0x0#6 a (cat 0x0#4 n))
  | .barw n => some (rri sc 0xA2#8 0x0#6 0x0#6 (cat 0x0#4 n))
  | .waitm d a b c => some (rrr sc 0xA3#8 d a b c)
  | .pref a o => some (rri sc 0xA4#8 0x0#6 a o)
  | .rget d r => some (rri sc 0xA5#8 d 0x0#6 (cat 0x0#5 r))
  | .rput r => some (rri sc 0xA6#8 0x0#6 0x0#6 (cat 0x0#5 r))
  | .rfree r => some (rri sc 0xA7#8 0x0#6 0x0#6 (cat 0x0#5 r))
  | .rtake d r => some (rri sc 0xA8#8 d 0x0#6 (cat 0x0#5 r))
  | .invl1 => some (opWord sc 0xA9#8 0x0#20)
  | .waitf a => some (rrr sc 0xAA#8 0x0#6 a 0x0#6 0x0#2)
  | .ackq d => some (rrr sc 0xAB#8 d 0x0#6 0x0#6 0x0#2)
  | .opinst d a o => some (rri sc 0xB0#8 d a o)
  | .opfree a => some (rrr sc 0xB1#8 0x0#6 a 0x0#6 0x0#2)
  | .opswap a => some (rrr sc 0xB2#8 0x0#6 a 0x0#6 0x0#2)
  | .opqry d a b => some (rrr sc 0xB3#8 d a b 0x0#2)
  | .opfire a b => some (rrr sc 0xB4#8 0x0#6 a b 0x0#2)
  | .opdrop a b => some (rrr sc 0xB5#8 0x0#6 a b 0x0#2)
  | .opfence => some (opWord sc 0xB6#8 0x0#20)
  | .opgrant d a b => some (rrr sc 0xB7#8 d a b 0x0#2)
  | .opwait d a b => some (rrr sc 0xB8#8 d a b 0x0#2)
  | .opseq a => some (rrr sc 0xB9#8 0x0#6 a 0x0#6 0x0#2)
  | .tmul p q x y => some (tileWord sc 0xC0#8 p q x y)
  | .tmac p q x y => some (tileWord sc 0xC1#8 p q x y)
  | .tzero p q x y => some (tileWord sc 0xC2#8 p q x y)
  | .tacopy p q x y => some (tileWord sc 0xC3#8 p q x y)
  | .taload p q x y => some (tileWord sc 0xC4#8 p q x y)
  | .tring p q x y => some (tileWord sc 0xC5#8 p q x y)
  | .tsig p q x y => some (tileWord sc 0xC6#8 p q x y)
  | .tset p q x y => some (tileWord sc 0xC7#8 p q x y)
  | .taddq p q x y => some (tileWord sc 0xC8#8 p q x y)
  | .tloop p q x y => some (tileWord sc 0xC9#8 p q x y)
  | .tjmp p q x y => some (tileWord sc 0xCA#8 p q x y)
  | .twaitc p q x y => some (tileWord sc 0xCB#8 p q x y)
  | .tend p q x y => some (tileWord sc 0xCC#8 p q x y)
  | .tswap p q x y => some (tileWord sc 0xCE#8 p q x y)
  | .cpy d a k l => some (rri sc 0xD0#8 d a (cat k l))
  | .gath a => some (rrr sc 0xD1#8 0x0#6 a 0x0#6 0x0#2)
  | .scat a => some (rrr sc 0xD2#8 0x0#6 a 0x0#6 0x0#2)
  | .cpyw a => some (rrr sc 0xD3#8 0x0#6 a 0x0#6 0x0#2)
  | .shdwBind d a => some (rrr sc 0xD4#8 d a 0x0#6 0x0#2)
  | .shdwFree a => some (rrr sc 0xD4#8 0x0#6 a 0x0#6 0x1#2)
  | .shdwGen d a => some (rrr sc 0xD4#8 d a 0x0#6 0x2#2)
  | .publish a c => some (rri sc 0xD5#8 0x0#6 a (cat 0x0#5 c))
  | .shadowFlip => none
  | .coll d a => some (rrr sc 0xD6#8 d a 0x0#6 0x0#2)
  | .collw d a => some (rrr sc 0xD7#8 d a 0x0#6 0x0#2)
  | .mcast a => some (rrr sc 0xD8#8 0x0#6 a 0x0#6 0x0#2)
  | .launch d a b => some (rrr sc 0xD9#8 d a b 0x0#2)
  | .lwait d a => some (rrr sc 0xDA#8 d a 0x0#6 0x0#2)
  | .svc d a i => some (rri sc 0xDB#8 d a i)
  | .trap a i => some (rri sc 0xDC#8 0x0#6 a i)
  | .notify a b => some (rrr sc 0xDD#8 0x0#6 a b 0x0#2)
  | .errpop d a => some (rrr sc 0xDE#8 d a 0x0#6 0x0#2)
  | .slotqDirect d a b => some (rrr sc 0xDF#8 d a b 0x0#2)
  | .slotqRoute d a b => some (rrr sc 0xDF#8 d a b 0x1#2)
  | .svcreply d a b => some (rrr sc 0xE0#8 d a b 0x0#2)
  | .rtt => some (opWord sc 0xE1#8 0x0#20)
  | .tlbinvPage a b => some (rrr sc 0xE2#8 0x0#6 a b 0x0#2)
  | .tlbinvContext a b => some (rrr sc 0xE2#8 0x0#6 a b 0x1#2)
  | .tlbinvVd a b => some (rrr sc 0xE2#8 0x0#6 a b 0x2#2)
  | .tfence c => some (rri sc 0xE3#8 0x0#6 0x0#6 (cat 0x0#5 c))
  | .keyload d a b => some (rrr sc 0xE4#8 d a b 0x0#2)
  | .keyrevoke d a => some (rrr sc 0xE5#8 d a 0x0#6 0x0#2)
  | .qosset d a b => some (rrr sc 0xE6#8 d a b 0x0#2)
  | .ctxsave d a b => some (rrr sc 0xE7#8 d a b 0x0#2)
  | .ctxrest d a b => some (rrr sc 0xE8#8 d a b 0x0#2)
  | .ctxkill d a b => some (rrr sc 0xE9#8 d a b 0x0#2)
  | .pgsplit d a b => some (rrr sc 0xEA#8 d a b 0x0#2)
  | .wfi => some (opWord sc 0xEC#8 0x0#20)
  | .partctlAssign d a b => some (rrr sc 0xED#8 d a b 0x0#2)
  | .partctlReset d a b => some (rrr sc 0xED#8 d a b 0x1#2)
  | .partctlStop d a b => some (rrr sc 0xED#8 d a b 0x2#2)
  | .quadsRetired => none
  | .sleep a => some (rrr sc 0xEE#8 0x0#6 a 0x0#6 0x0#2)
  | .halt => some (opWord sc 0xEF#8 0x0#20)
  | .himm p => some (himmWord sc p)
  | .hcls m a b => some (hclsWord sc m a b)
  | .hmod r t c => some (hmodWord sc r t c)
  | .hintReservedF6 h x => some (opWord sc (cat 0x7B#7 h) x)
  | .hintReservedF8 h x => some (opWord sc (cat 0x1F#5 h) x)
  | .loadDataArrival => none
  | .storeAck => none
  | .atomicReply => none
  | .waitmReply => none
  | .watchReevaluate => none
  | .homeAccess => none
  | .engineCommandComplete => none
  | .opinstComplete => none
  | .iwStoreArrival => none
  | .owLoadArrival => none
  | .fireStart => none
  | .fireComplete => none
  | .claimLimitExpiry => none
  | .unreadyLimitExpiry => none
  | .opwaitLimitExpiry => none
  | .joinRelease => none
  | .jointoExpiry => none
  | .bartoExpiry => none
  | .vgrowGrant => none
  | .vshrinkFree => none
  | .pageWalkComplete => none
  | .faultRequestPost => none
  | .faultDone => none
  | .logfullWake => none
  | .takeTraps => none
  | .trapRecordAppend => none
  | .tqtailWrite => none
  | .waveSave => none
  | .waittoExpiry => none
  | .preempttoExpiry => none
  | .waveRestore => none
  | .fumaroleEntry => none
  | .fumaroleExit => none
  | .waveEnd => none
  | .blockComplete => none
  | .launchDispatch => none
  | .blockPlace => none
  | .priorityPreempt => none
  | .launchComplete => none
  | .reclaimNotice => none
  | .reclaimtoExpiry => none
  | .coopPark => none
  | .thermalSample => none
  | .voltageDroop => none
  | .clusterSpareTakeover => none
  | .ventFailure => none
  | .collMatch => none
  | .collCombine => none
  | .worldRetire => none
  | .slotStart => none
  | .slotMark => none
  | .calendarLockLoss => none
  | .peerAbsent => none
  | .peerPresent => none
  | .read => none
  | .data => none
  | .write => none
  | .wack => none
  | .atom => none
  | .areply => none
  | .watch => none
  | .wreply => none
  | .bulk => none
  | .back => none
  | .abort => none
  | .dack => none
  | .retry => none
  | .credit => none
  | .idle => none
  | .relayForward => none
  | .wavelengthRetrain => none
  | .wavelengthSpare => none
  | .pcieInboundRead => none
  | .pcieInboundWrite => none
  | .pcieLinkDown => none
  | .pcieAerEvent => none
  | .getVersion => none
  | .getCapabilities => none
  | .negotiateAlgorithms => none
  | .getDigests => none
  | .getCertificate => none
  | .challenge => none
  | .getMeasurements => none
  | .spdmUnsupportedRequest => none
  | .sidebandPackageReset => none
  | .sidebandPartitionReset => none
  | .sidebandOtherMessage => none
  | .packageReset => none
  | .powerStateEntry => none
  | .powerStateExit => none
  | .powerExitComplete => none
  | .wakeatExpiry => none
  | .lattolWrite => none
  | .vtrefWrite => none
  | .qpendWrite => none
  | .qnextRead => none
  | .qdoneWrite => none
  | .uestaWrite => none
  | .gCounterRead => none
  | .clguarWrite => none
  | .rfmlockWrite => none
  | .kcmdGo => none
  | .registerWrite => none
  | .bucketRefill => none
  | .discardedFlit => none
  | .planeRestored => none
  | .memoryScrub => none
  | .powerRemoved => none
  | .pcieLinkUp => none
  | .keyUnitDone => none
  | .operatorCommandArrival => none
  | .tileCommandRetire => none
  | .privilegedCompletion => none

end Sys2Proof
end

