-- ==== Sys2Proof/Machine/Float.lean ====
section
/-!
DEFINITION. The float formats of R83, R87, R92 to R94: what a code stands for, as an exact value, and the rounding of an exact value to
a format under R89, R90 and R96. Arithmetic is exact on integers until the one rounding.
-/

namespace Sys2Proof.Machine

/-- An exact float value: (−1)^s × m × 2^e, an infinity, or NaN. -/
inductive FVal where
  | fin (s : Bool) (m : Nat) (e : Int)
  | inf (s : Bool)
  | nan
deriving DecidableEq, Repr

/-- A binary format: exponent and fraction bits, bias, the code of the largest finite magnitude, the code of infinity where it has
one, its NaN code, and whether it has a negative zero. -/
structure Fmt where
  eb   : Nat
  fb   : Nat
  bias : Nat
  top  : Nat
  inf  : Option Nat
  nan  : Nat
  negz : Bool

/-- FP32, FP16, BF16 (R87), F8E4 (R92), F8E5 (R93). -/
def fp32 : Fmt := ⟨8, 23, 127, 0x7F7FFFFF, some 0x7F800000, 0x7FC00000, true⟩
def fp16 : Fmt := ⟨5, 10, 15, 0x7BFF, some 0x7C00, 0x7E00, true⟩
def bf16 : Fmt := ⟨8, 7, 127, 0x7F7F, some 0x7F80, 0x7FC0, true⟩
def f8e4 : Fmt := ⟨4, 3, 8, 0x7F, none, 0x80, false⟩
def f8e5 : Fmt := ⟨5, 2, 16, 0x7B, some 0x7C, 0x7E, true⟩

/-- The sign bit's weight. -/
def Fmt.sign (f : Fmt) : Nat := 2 ^ (f.eb + f.fb)

/-- The value of a code. -/
def Fmt.dec (f : Fmt) (x : Nat) : FVal :=
  let s := decide (x / f.sign % 2 = 1)
  let e := x / 2 ^ f.fb % 2 ^ f.eb
  let m := x % 2 ^ f.fb
  if f.inf.isSome ∧ e = 2 ^ f.eb - 1 then (if m = 0 then .inf s else .nan)
  else if !f.negz ∧ x = f.sign then .nan
  else if e = 0 then .fin s m (1 - (f.bias : Int) - f.fb)
  else .fin s (2 ^ f.fb + m) ((e : Int) - f.bias - f.fb)

/-- Whether a magnitude q + r/2^k (r the dropped bits) is rounded up in magnitude, by mode and sign; `odd` is the last kept bit. -/
def roundUp (md : Mode) (s odd : Bool) (r half : Nat) : Bool :=
  match md with
  | .rne => decide (half < r) || (decide (r = half) && odd)
  | .rtz => false
  | .rup => !s && decide (0 < r)
  | .rdn => s && decide (0 < r)

/-- Whether an overflow delivers infinity in a mode (R90); otherwise it delivers the largest finite value. -/
def overflowsToInf (md : Mode) (s : Bool) : Bool :=
  match md with | .rne => true | .rtz => false | .rup => !s | .rdn => s

/-- A non-zero exact magnitude m × 2^e rounded to a binary format: the code of the result and the flags (R89, R90). -/
def Fmt.round (f : Fmt) (md : Mode) (s : Bool) (m : Nat) (e : Int) : Nat × BitVec 5 :=
  let top := (Nat.log2 m : Int) + e
  let emin := 1 - (f.bias : Int)
  let q := max (top - f.fb) (emin - f.fb)
  let sh := q - e
  let kept := if sh ≤ 0 then m <<< (-sh).toNat else m >>> sh.toNat
  let half := if sh ≤ 0 then 1 else 2 ^ (sh.toNat - 1)
  let r := if sh ≤ 0 then 0 else m % 2 ^ sh.toNat
  let mant := if roundUp md s (decide (kept % 2 = 1)) r (if sh ≤ 0 then 1 else half) then kept + 1 else kept
  let mag := if mant < 2 ^ f.fb then mant else ((q - (emin - f.fb)).toNat + 1) * 2 ^ f.fb + (mant - 2 ^ f.fb)
  let sg := if s then f.sign else 0
  if f.top < mag then
    ((match f.inf with
      | some i => sg + (if overflowsToInf md s then i else f.top)
      | none => sg + f.top), fOF ||| fNX)
  else
    let fl := inexactFlags (decide (0 < r)) (decide (top < emin))
    (if mag = 0 ∧ !f.negz then 0 else sg + mag, fl)

/-- An exact value as a code of a binary format: R96 for the narrow ones; an infinity in a format without one is the largest finite
value with OF. -/
def Fmt.enc (f : Fmt) (md : Mode) : FVal → Nat × BitVec 5
  | .nan => (f.nan, 0)
  | .inf s => match f.inf with
    | some i => ((if s then f.sign else 0) + i, 0)
    | none => ((if s then f.sign else 0) + f.top, fOF)
  | .fin s 0 _ => (if s ∧ f.negz then f.sign else 0, 0)
  | .fin s m e => f.round md s m e

/-- Saturation: an infinity becomes the largest finite value of its sign (R90). -/
def Fmt.satur (f : Fmt) (on : Bool) (x : Nat) : Nat :=
  match f.inf with
  | some i => if on ∧ x % f.sign = i then x - i + f.top else x
  | none => x

/-! ## LG6 (R94 to R96) -/

/-- T of R94. -/
def lgT (n : Nat) : Nat := match n % 4 with | 0 => 32768 | 1 => 38968 | 2 => 46341 | _ => 55109

/-- The magnitude of log magnitude m, as an integer over 2^(sh) with sh = 19: T × 2^⌊m/4⌋ (R94). -/
def lgMag (m : Nat) : Nat := lgT m * 2 ^ (m / 4)

def lg6Dec (x : Nat) : FVal :=
  let c := x % 64
  if c = 0x20 then .fin false 0 0 else .fin (decide (32 ≤ c)) (lgMag (c % 32)) (-19)

/-- The log magnitudes a value of a sign can take: −0.0625 has no code. -/
def lgCodes (s : Bool) : List Nat := (List.range 32).filter fun m => !(s && m == 0)

/-- The rounding of a non-zero magnitude x (an integer over 2^19 × 2^k, k given) to LG6: candidates zero, the codes of the sign, and
the code past the last for overflow. A tie goes to even m, and between zero and the first code to zero (R89, R96). -/
def lg6Round (md : Mode) (s : Bool) (x k : Nat) : Nat × BitVec 5 :=
  let v (m : Nat) := lgMag m * 2 ^ k
  let below := ((lgCodes s).filter fun m => decide (v m ≤ x)).getLast?
  let lo := match below with | some m => v m | none => 0
  let up := match below with | some m => m + 1 | none => (if s then 1 else 0)
  let exact := decide (lo = x)
  let away := match md with
    | .rtz => false
    | .rup => !s && !exact
    | .rdn => s && !exact
    | .rne => !exact && (decide (lo + v up < 2 * x) || (decide (lo + v up = 2 * x) && (match below with | some _ => decide (up % 2 = 0) | none => false)))
  let big := decide (32 ≤ (if away then up else (match below with | some m => m | none => 0))) || decide (v 32 ≤ x)
  let sg := if s then 32 else 0
  if big then (sg + 31, fOF ||| fNX)
  else
    ((if away then sg + up else match below with | some m => sg + m | none => 0x20),
      inexactFlags (!exact) (decide (x < v 0)))

def lg6Enc (md : Mode) : FVal → Nat × BitVec 5
  | .nan => (0x20, 0)
  | .inf s => (if s then 0x3F else 0x1F, fOF)
  | .fin _ 0 _ => (0x20, 0)
  | .fin s m e =>
    if -19 ≤ e then lg6Round md s (m * 2 ^ (e + 19).toNat) 0 else lg6Round md s m (-19 - e).toNat

/-! ## FP32 on exact values -/

def decF (x : Word) : FVal := fp32.dec x.toNat

/-- RoundF32 (R22): an exact value as an FP32 bit string, with the flags it sets. -/
def roundF (md : Mode) (x : FVal) : Word × BitVec 5 := let (c, f) := fp32.enc md x; (BitVec.ofNat 32 c, f)

/-- The sign of an exact zero sum of operands of opposite sign (R90). -/
def zeroSign (md : Mode) : Bool := match md with | .rdn => true | _ => false

/-- A signed magnitude at a common exponent. -/
def signedAt (s : Bool) (m : Nat) (e q : Int) : Int := let x : Int := (m : Int) * 2 ^ (e - q).toNat; if s then -x else x

/-- An exact sum, and whether it is invalid (∞ − ∞). -/
def fvAdd (md : Mode) : FVal → FVal → FVal × Bool
  | .nan, _ => (.nan, false)
  | _, .nan => (.nan, false)
  | .inf s, .inf t => if s = t then (.inf s, false) else (.nan, true)
  | .inf s, _ => (.inf s, false)
  | _, .inf t => (.inf t, false)
  | .fin s m e, .fin t n f =>
    if m = 0 ∧ n = 0 then (.fin (if s = t then s else zeroSign md) 0 0, false)
    else
      let q := min e f
      let x := signedAt s m e q + signedAt t n f q
      if x = 0 then (.fin (zeroSign md) 0 0, false) else (.fin (decide (x < 0)) x.natAbs q, false)

def FVal.neg : FVal → FVal
  | .fin s m e => .fin (!s) m e
  | .inf s => .inf (!s)
  | .nan => .nan

/-- An exact product, and whether it is invalid (0 × ∞). -/
def fvMul : FVal → FVal → FVal × Bool
  | .nan, _ => (.nan, false)
  | _, .nan => (.nan, false)
  | .inf s, .inf t => (.inf (s != t), false)
  | .inf s, .fin t n _ => if n = 0 then (.nan, true) else (.inf (s != t), false)
  | .fin s m _, .inf t => if m = 0 then (.nan, true) else (.inf (s != t), false)
  | .fin s m e, .fin t n f => (.fin (s != t) (m * n) (e + f), false)

/-- d + a × b, exact (R144): a NaN operand is no invalid operation. -/
def fvFma (md : Mode) (d a b : FVal) : FVal × Bool :=
  match d with
  | .nan => (.nan, false)
  | _ =>
    let (p, i) := fvMul a b
    if i then (.nan, true) else fvAdd md d p

/-- A value times 2^n. -/
def FVal.scale (x : FVal) (n : Int) : FVal := match x with | .fin s m e => .fin s m (e + n) | y => y

/-- An exact value rounded to a format, saturated if asked; an invalid one is the format's NaN with NV. -/
def Fmt.result (f : Fmt) (md : Mode) (sat : Bool) (r : FVal × Bool) : Nat × BitVec 5 :=
  if r.2 then (f.nan, fNV) else let (c, fl) := f.enc md r.1; (f.satur sat c, fl)

/-- The same for FP32 as a word. -/
def f32Result (md : Mode) (sat : Bool) (r : FVal × Bool) : Word × BitVec 5 :=
  let (c, fl) := fp32.result md sat r; (BitVec.ofNat 32 c, fl)

/-- A value rounded to an integer in a mode, and whether that was inexact (R97, R149). -/
def toInt (md : Mode) (s : Bool) (m : Nat) (e : Int) : Int × Bool :=
  if 0 ≤ e then (signedAt s m e 0, false)
  else
    let k := (-e).toNat
    let q := m >>> k
    let r := m % 2 ^ k
    let n := if roundUp md s (decide (q % 2 = 1)) r (2 ^ (k - 1)) then q + 1 else q
    ((if s then -(n : Int) else n), decide (0 < r))

/-- A value converted to an integer type with ends lo and hi (R97). -/
def cvtInt (md : Mode) (lo hi : Int) : FVal → Int × BitVec 5
  | .nan => (0, fNV)
  | .inf s => (if s then lo else hi, fNV)
  | .fin s m e =>
    let (x, i) := toInt md s m e
    if x < lo then (lo, fNV) else if hi < x then (hi, fNV) else (x, if i then fNX else 0)

/-- An integer as an exact value. -/
def ofInt (x : Int) : FVal := .fin (decide (x < 0)) x.natAbs 0

/-- The order of two values that are not NaN; −0 and +0 are equal. -/
def fvLt (a b : FVal) : Bool :=
  match a, b with
  | .inf s, .inf t => s && !t
  | .inf s, _ => s
  | _, .inf t => !t
  | .fin s m e, .fin t n f => let q := min e f; decide (signedAt s m e q < signedAt t n f q)
  | _, _ => false

def FVal.isNan (x : FVal) : Bool := match x with | .nan => true | _ => false
def FVal.isZero (x : FVal) : Bool := match x with | .fin _ 0 _ => true | _ => false
def FVal.sign (x : FVal) : Bool := match x with | .fin s _ _ => s | .inf s => s | .nan => false

/-- A condition of FCMP (R146). -/
def fcond (c : Nat) (a b : FVal) : Bool :=
  let ok := !a.isNan && !b.isNan
  let lt := ok && fvLt a b
  let gt := ok && fvLt b a
  let eq := ok && !lt && !gt
  match c with
  | 0 => eq | 1 => !eq | 2 => lt | 3 => lt || eq | 4 => gt | _ => gt || eq

end Sys2Proof.Machine
end

