-- ==== Sys2Proof/Machine/Blocks.lean ====
section
/-!
DEFINITION. Tagged blocks (R100 to R104), the computed scale (R155), and the products and dot products of operators and tile commands
(R105 to R107).
-/

namespace Sys2Proof.Machine

/-- The formats a tagged block can name (R100); `zero` is code 0x00, `bad` 0xFF and the reserved codes. -/
inductive BFmt where
  | zero | f32 | bf16 | f16 | f8e4 | f8e5 | lg6 | i8 | i4 | bad
deriving DecidableEq, Repr

def BFmt.ofCode (c : Nat) : BFmt :=
  match c with
  | 0x00 => .zero | 0x08 => .f32 | 0x10 => .bf16 | 0x11 => .f16 | 0x20 => .f8e4 | 0x21 => .f8e5 | 0x30 => .lg6 | 0x40 => .i8
  | 0x41 => .i4 | _ => .bad

/-- Elements in a block; 0 for no format. -/
def BFmt.count : BFmt → Nat
  | .f32 => 15 | .bf16 | .f16 => 31 | .f8e4 | .f8e5 | .i8 => 62 | .lg6 => 80 | .i4 => 124 | .zero | .bad => 0

def BFmt.code : BFmt → Nat
  | .zero => 0 | .f32 => 0x08 | .bf16 => 0x10 | .f16 => 0x11 | .f8e4 => 0x20 | .f8e5 => 0x21 | .lg6 => 0x30 | .i8 => 0x40
  | .i4 => 0x41 | .bad => 0xFF

/-- The formats of selectors 0 to 7 (R68). -/
def BFmt.ofSel (n : Nat) : BFmt :=
  match n with | 0 => .f32 | 1 => .f16 | 2 => .bf16 | 3 => .f8e4 | 4 => .f8e5 | 5 => .lg6 | 6 => .i8 | _ => .i4

def BFmt.isInt : BFmt → Bool | .i8 | .i4 => true | _ => false

/-- Bits of an element, and the bit at which element i begins, counted from bit 0 of byte 0. -/
def BFmt.width : BFmt → Nat
  | .f32 => 32 | .bf16 | .f16 => 16 | .lg6 => 6 | .i4 => 4 | _ => 8
def BFmt.place (f : BFmt) (i : Nat) : Nat := (match f with | .f32 => 32 | _ => 16) + f.width * i

/-- The code a position without a value holds (R104). -/
def BFmt.zeroCode : BFmt → Nat | .lg6 => 0x20 | _ => 0

/-- The binary float of a format that is one. -/
def BFmt.fmt? : BFmt → Option Fmt
  | .f32 => some fp32 | .bf16 => some Sys2Proof.Machine.bf16 | .f16 => some fp16 | .f8e4 => some Sys2Proof.Machine.f8e4
  | .f8e5 => some Sys2Proof.Machine.f8e5 | _ => none

/-- A two's-complement number of n bits. -/
def sval (n x : Nat) : Int := if x % 2 ^ n < 2 ^ (n - 1) then (x % 2 ^ n : Nat) else (x % 2 ^ n : Nat) - (2 ^ n : Nat)

/-- The value of a code in a format, without the scale (R86 to R94). -/
def BFmt.dec (f : BFmt) (x : Nat) : FVal :=
  match f.fmt? with
  | some g => g.dec (x % 2 ^ f.width)
  | none => match f with | .lg6 => lg6Dec x | .i8 => ofInt (sval 8 x) | .i4 => ofInt (sval 4 x) | _ => .fin false 0 0

/-- A block as an OE or a tile command holds it: its 64 bytes as one little-endian number, and above them a mark for each byte that was read from a word
under an uncorrectable error (R111, R112). It takes 72 bytes. -/
def blkUnit : Nat := 72

/-- A block of 64 bytes with its marked bytes as a unit. -/
def blkMarks (bs : List Byte) (bad : Nat → Bool) : List Byte :=
  leBytes 72 (leVal (bs.take 64) + 2 ^ 512 * (List.range 64).foldl (fun m n => if bad n then m + 2 ^ n else m) 0)

/-- Byte n of a unit is marked. -/
def blkBad (b n : Nat) : Bool := decide (b / 2 ^ (512 + n) % 2 = 1)
def blkCode (b : Nat) : Nat := b % 256
def blkScale (b : Nat) : Int := sval 8 (b / 256)
def blkElem (f : BFmt) (b i : Nat) : Nat := b / 2 ^ f.place i % 2 ^ f.width

/-- Element i of a block as a self-describing consumer reads it (R101 to R103): none where it is poisoned. -/
def blkRead (b i : Nat) : Option FVal :=
  let f := BFmt.ofCode (blkCode b)
  match f with
  | .bad => none
  | .zero => some (.fin false 0 0)
  | _ =>
    if f.count ≤ i then some (.fin false 0 0)
    else
      let x := blkElem f b i
      if f = .f8e4 ∧ x = 0x80 then none else some ((f.dec x).scale (blkScale b))

/-- A value as an element code of a format (R96, R97), with the flags. -/
def BFmt.enc (f : BFmt) (md : Mode) (sat : Bool) (v : FVal) : Nat × BitVec 5 :=
  match f.fmt? with
  | some g => let (c, fl) := g.enc md v; (g.satur sat c, fl)
  | none =>
    match f with
    | .lg6 => lg6Enc md v
    | .i8 => let (x, fl) := cvtInt md (-128) 127 v; ((x % 256).toNat, fl)
    | .i4 => let (x, fl) := cvtInt md (-8) 7 v; ((x % 16).toNat, fl)
    | _ => (0, 0)

/-- A block of a format with a scale and the codes of its elements, by position; pads are zero (R104). -/
def blkBuild (f : BFmt) (scale : Int) (elem : Nat → Nat) : List Byte :=
  leBytes 64 (f.code + 256 * (scale % 256).toNat
    + (List.range f.count).foldl (fun acc i => acc + (elem i % 2 ^ f.width) * 2 ^ f.place i) 0)

/-- A block with one element replaced. -/
def blkSet (f : BFmt) (b i x : Nat) : Nat := b - blkElem f b i * 2 ^ f.place i + (x % 2 ^ f.width) * 2 ^ f.place i

/-- A poisoned block (R112). -/
def blkPoison : List Byte := leBytes 64 0xFF

/-- The limit Fmax of the computed scale, as an integer over 2^19; 0 where the scale is always 0 (R155). -/
def BFmt.limit : BFmt → Nat
  | .f16 => 65504 * 2 ^ 19 | .f8e4 => 240 * 2 ^ 19 | .f8e5 => 28672 * 2 ^ 19 | .lg6 => lgMag 31 | .i8 => 127 * 2 ^ 19
  | .i4 => 7 * 2 ^ 19 | _ => 0

/-- a × 2^-n ≤ Fmax for a magnitude m × 2^e. -/
def fitsScale (lim m : Nat) (e n : Int) : Bool :=
  let k := e - n + 19
  if 0 ≤ k then decide (m * 2 ^ k.toNat ≤ lim) else decide (m ≤ lim * 2 ^ (-k).toNat)

/-- The least σ from a bound up with a × 2^-σ ≤ Fmax, at most 127. -/
def scaleGo (lim m : Nat) (e : Int) : Nat → Int → Int
  | 0, n => n
  | k + 1, n => if fitsScale lim m e n then n else scaleGo lim m e k (n + 1)

/-- The computed scale of a set of values (R155): clamped to −128 … 127. -/
def computedScale (f : BFmt) (vs : List FVal) : Int :=
  if f.limit = 0 then 0
  else
    let big := vs.foldl (fun (acc : FVal) v =>
      match v with | .fin _ m e => if m = 0 then acc else (let a := FVal.fin false m e; if fvLt acc a then a else acc) | _ => acc)
      (.fin false 0 0)
    match big with
    | .fin _ m e => if m = 0 then 0 else scaleGo f.limit m e 255 (-128)
    | _ => 0

/-! ## Products and dot products -/

/-- The product of two LG6 codes with the sum of the scales (R95). -/
def lgProd (w x : Nat) (sc : Int) : FVal :=
  if w % 64 = 0x20 ∨ x % 64 = 0x20 then .fin false 0 0
  else
    let e := w % 32 + x % 32
    .fin (decide (w / 32 % 2 ≠ x / 32 % 2)) (lgT e * 2 ^ (e / 4)) (sc - 23)

/-- Prod of R105: the FP32 bit string of the product of two element codes. -/
def prodCode (fw : BFmt) (w : Nat) (fx : BFmt) (x : Nat) (sc : Int) : Word :=
  if fw = .lg6 ∧ fx = .lg6 then (roundF .rne (lgProd w x sc)).1
  else
    let (p, _) := fvMul (fw.dec w) (fx.dec x)
    (roundF .rne (p.scale sc)).1

/-- A float sum rounded RNE. -/
def addF (a b : Word) : Word := (roundF .rne (fvAdd .rne (decF a) (decF b)).1).1

/-- One level of the pairwise tree. -/
def pairSums : List Word → List Word
  | a :: b :: t => addF a b :: pairSums t
  | [a] => [a]
  | [] => []

/-- The tree, by levels. -/
def treeSum : Nat → List Word → Word
  | 0, l => l.headD 0
  | k + 1, l => treeSum k (pairSums l)

/-- The least power of two not below n, as its logarithm. -/
def log2Up (n : Nat) : Nat := if n ≤ 1 then 0 else Nat.log2 (n - 1) + 1

/-- A group's sum: padded with +0 to a power of two (R106). -/
def groupSum (ps : List Word) : Word :=
  let k := log2Up ps.length
  treeSum k (ps ++ List.replicate (2 ^ k - ps.length) 0)

/-- Dot of R106 over products grouped by the input's blocks. -/
def dotSum (e : Nat) : Nat → Word → List Word → Word
  | 0, acc, _ => acc
  | k + 1, acc, ps => if ps.isEmpty then acc else dotSum e k (addF acc (groupSum (ps.take e))) (ps.drop e)

/-- A block's header is marked, so that what it holds is not known. -/
def blkBlind (b : Nat) : Bool := blkBad b 0 || blkBad b 1

/-- An element of a block lies in a marked byte. -/
def elemBad (f : BFmt) (b i : Nat) : Bool :=
  (List.range 64).any fun n => blkBad b n && decide (f.place i / 8 ≤ n) && decide (n ≤ (f.place i + f.width - 1) / 8)

/-- Element j of a sequence of blocks of a format-bound consumer (R103): code and scale; none where it is poisoned. -/
def seqElem (f : BFmt) (blocks : List Nat) (j : Nat) : Option (Nat × Int) :=
  let b := blocks[j / f.count]?.getD 0
  let g := BFmt.ofCode (blkCode b)
  if blkBlind b then none
  else if g = .zero then some (f.zeroCode, 0)
  else if g ≠ f ∨ elemBad f b (j % f.count) then none
  else
    let x := blkElem f b (j % f.count)
    if f = .f8e4 ∧ x = 0x80 then none else some (x, blkScale b)

/-- All of a list, or none. -/
def allSome {α : Type} : List (Option α) → Option (List α)
  | [] => some []
  | none :: _ => none
  | some x :: t => (allSome t).map (x :: ·)

/-- One dot product of K elements: none where it reads a poisoned element (R112). The accumulator enters as `acc`. -/
def dotF (fw fx : BFmt) (ws xs : List Nat) (k : Nat) (acc : Word) : Option Word :=
  (allSome ((List.range k).map fun j =>
    match seqElem fw ws j, seqElem fx xs j with
    | some (w, sw), some (x, sx) => some (prodCode fw w fx x (sw + sx))
    | _, _ => none)).map fun ps => dotSum fx.count (k + 1) acc ps

/-- The integer dot product modulo 2^32 (R107). -/
def dotI (fw fx : BFmt) (ws xs : List Nat) (k : Nat) : Option Word :=
  (allSome ((List.range k).map fun j =>
    match seqElem fw ws j, seqElem fx xs j with
    | some (w, _), some (x, _) => some (sval fw.width w * sval fx.width x)
    | _, _ => none)).map fun ps => BitVec.ofInt 32 (ps.foldl (· + ·) 0)

/-- The number of blocks K elements of a format take. -/
def blocksFor (f : BFmt) (k : Nat) : Nat := if f.count = 0 then 0 else (k + f.count - 1) / f.count

end Sys2Proof.Machine
end

