-- ==== Sys2Proof/Machine/Image.lean ====
section
/-!
DEFINITION. Save images (R278, R279): the bytes of a wave's image, and the wave an image holds.
-/

namespace Sys2Proof.Machine

/-- The wake word of a condition (R279). A watch is named by its access, an OPWAIT by handle and slot as given, a wait on the operand log by its
entry. -/
def Wake.word (opw : Nat → Nat) (entry : Nat) : Wake → Nat
  | .bar n ph => 1 * 2 ^ 56 + n.toNat + ph.toNat * 16
  | .waitm acc => 2 * 2 ^ 56 + acc % 2 ^ 32
  | .waitf m => 3 * 2 ^ 56 + m.toNat
  | .rget r _ => 4 * 2 ^ 56 + r.toNat
  | .rtake r _ => 5 * 2 ^ 56 + r.toNat
  | .svc c => 8 * 2 ^ 56 + (c.getD 0).toNat
  | .join j => 9 * 2 ^ 56 + j.toNat
  | .vgrow t => 10 * 2 ^ 56 + t
  | .lwait id _ => 11 * 2 ^ 56 + id.toNat
  | .collw n _ _ => 12 * 2 ^ 56 + n.toNat
  | .opwait c => 13 * 2 ^ 56 + opw c
  | .log => 14 * 2 ^ 56 + entry % 16
  | .logfull => 14 * 2 ^ 56 + 0xF
  | .fetch => 14 * 2 ^ 56 + 0xE
  | .wfi | .effect _ => 0

/-- The condition a wake word names; none for the codes that leave a thread to its interlocks. -/
def wakeOf (x : Nat) : Option Wake :=
  let a := x % 2 ^ 56
  match x / 2 ^ 56 with
  | 1 => some (.bar (BitVec.ofNat 4 a) (BitVec.ofNat 32 (a / 16)))
  | 2 => some (.waitm (a % 2 ^ 32))
  | 3 => some (.waitf (BitVec.ofNat 12 a))
  | 4 => some (.rget (BitVec.ofNat 3 a) none)
  | 5 => some (.rtake (BitVec.ofNat 3 a) none)
  | 8 => some (.svc (some (BitVec.ofNat 32 a)))
  | 9 => some (.join (BitVec.ofNat 3 a))
  | 10 => some (.vgrow (a % 64))
  | 11 => some (.lwait (BitVec.ofNat 32 a) none)
  | 12 => some (.collw (BitVec.ofNat 32 a) none 15)
  | 14 => some (if a % 16 = 0xF then .logfull else if a % 16 = 0xE then .fetch else .log)
  | _ => none

/-- What the image needs beside the wave: its KIND, its launch id and block index, the codes of conditions the machine computes
(R278: waiting; R279: a load's destination), the wake word of OPWAIT, and its operand-log items. -/
structure ImageCtx where
  kind : Nat
  launchid : Word
  blkid : Nat
  waiting : Nat → Bool
  held : Nat → Option Nat
  opw : Nat → Nat
  /-- The first operand-log entry of each thread. -/
  entry : Nat → Nat
  log : List (List Byte)

/-- The condition code and the wake word of thread t. -/
def Thread.condWord (c : ImageCtx) (t : Nat) (th : Thread) : Nat × Nat :=
  match th.cond with
  | .run => match c.held t with | some w => (2, w) | none => (if c.waiting t then (1, 0) else (0, 0))
  | .blocked (.effect _) => (1, 0)
  | .blocked w => (2, w.word c.opw (c.entry t))
  | .trapped _ => (3, 0)
  | .exited => (4, 0)

/-- A thread's entry: 64 bytes. -/
def Thread.entryBytes (c : ImageCtx) (t : Nat) (th : Thread) : List Byte :=
  let (code, wake) := th.condWord c t
  leBytes 8 th.pc.toNat ++ leBytes 8 th.lnk.toNat ++ leBytes 8 th.rgnpc.toNat ++ leBytes 4 th.rgncnt.toNat ++ leBytes 4 th.fpstat.toNat
    ++ leBytes 4 th.errstat.toNat ++ leBytes 1 code ++ leBytes 1 th.preds.toNat ++ leBytes 2 th.flagMask.toNat ++ leBytes 8 wake
    ++ leBytes 4 (th.clause.mask.toNat + th.clause.fa.toNat * 2 ^ 12 + th.clause.fb.toNat * 2 ^ 16) ++ zeros 12

/-- Bytes before the registers, and the length without a log. -/
def imageV : Nat := 0x8C0
def imageBase (alloc : Nat) : Nat := imageV + 132 * alloc

/-- A wave's image (R278). -/
def Wave.image (w : Wave) (c : ImageCtx) : List Byte :=
  let n := w.threads.length
  let nth (t : Nat) : List Byte := match w.threads[t]? with | some th => th.entryBytes c t | none => zeros 64
  let mask (p : Thread → Bool) : Nat := (w.maskBy p).toNat
  let base := imageBase w.alloc
  let logOff := (base + 63) / 64
  let logged := !c.log.isEmpty
  let len := if logged then logOff * 64 + 32 * c.log.length else base
  let head :=
    leBytes 4 len ++ leBytes 4 w.id ++ leBytes 1 w.vd ++ leBytes 1 w.ctx ++ leBytes 1 c.kind ++ leBytes 1 w.alloc
      ++ leBytes 4 c.launchid.toNat ++ leBytes 4 c.blkid ++ leBytes 1 (match w.role with | .copy => 1 | _ => 0) ++ leBytes 1 n
      ++ leBytes 2 w.wid ++ leBytes 4 (mask fun th => match th.cond with | .exited => true | _ => false)
      ++ leBytes 4 (mask fun th => match th.cond with | .trapped _ => true | _ => false)
      ++ (w.j.toList.flatMap fun x => leBytes 4 x.toNat) ++ (w.k.toList.flatMap fun r => leBytes 4 r.val.toNat) ++ zeros 4
      ++ leBytes 4 ((List.range 15).foldl (fun m i => if (getK w.k i).psn then m + 2 ^ i else m) 0)
      ++ leBytes 4 w.quant.toNat ++ leBytes 4 w.rahctl.toNat ++ leBytes 1 w.vgt ++ leBytes 1 c.log.length
      ++ leBytes 2 (if logged then logOff else 0) ++ zeros 48
  head ++ ((List.range 32).flatMap nth)
    ++ ((List.range w.alloc).flatMap fun r => (List.range 32).flatMap fun t => leBytes 4 (getV (w.th t) r).val.toNat)
    ++ ((List.range w.alloc).flatMap fun r => leBytes 4 (maskOf fun t => decide (t < n) && (getV (w.th t) r).psn).toNat)
    ++ (if logged then zeros (logOff * 64 - base) ++ c.log.flatten else [])

/-- A vector filled from a function of the index. -/
def vecFill {α : Type} {n : Nat} (v : Vector α n) (f : Nat → α) : Vector α n :=
  (List.range n).foldl (fun v i => v.setIfInBounds i (f i)) v

/-- A thread as its entry and its registers in an image hold it. What the image does not hold (the counts behind the flags, the
phases of barriers, the store counter, which OPWAIT it is) stays with the wave; a flag that the image clears has no operation attached (R278). -/
def Thread.ofEntry (c : ImageCtx) (old : Thread) (t : Nat) (e : List Byte) (reg : Nat → Option Reg) : Thread :=
  let code := field e 36 1
  let wake := field e 40 8
  let fl := field e 38 2
  let cl := field e 48 4
  let keep := decide (old.condWord c t = (code, wake)) ||
    (match old.cond with | .blocked (.opwait _) => decide (code = 2) && decide (wake / 2 ^ 56 = 13) | _ => false)
  { old with
    pc := pcOf (BitVec.ofNat 64 (field e 0 8)), rep := if pcOf (BitVec.ofNat 64 (field e 0 8)) = old.pc then old.rep else pcOf (BitVec.ofNat 64 (field e 0 8)),
    lnk := BitVec.ofNat 64 (field e 8 8), rgnpc := pcOf (BitVec.ofNat 64 (field e 16 8)),
    rgncnt := BitVec.ofNat 32 (field e 24 4), fpstat := writeFpstat (BitVec.ofNat 32 (field e 28 4)),
    errstat := BitVec.ofNat 32 (field e 32 4) &&& 0x3F, preds := BitVec.ofNat 3 (field e 37 1),
    clause := ⟨BitVec.ofNat 12 cl, BitVec.ofNat 4 (cl / 2 ^ 12), BitVec.ofNat 4 (cl / 2 ^ 16)⟩,
    flags := vecFill old.flags fun i => if fl / 2 ^ i % 2 = 1 then max 1 (old.flags[i]?.getD 0) else 0,
    v := vecFill old.v fun r => (reg r).getD (getV old r),
    cond := if keep then old.cond
      else match code with
        | 4 => .exited
        | 3 => (match old.cond with | .trapped tr => .trapped tr | _ => .run)
        | 2 => (match wakeOf wake with | some w => .blocked w | none => .run)
        | _ => .run }

/-- The wave an image holds (R273): its registers, predicates and control registers are the image's. -/
def Wave.ofImage (w : Wave) (c : ImageCtx) (bs : List Byte) : Wave :=
  let alloc := field bs 0xB 1
  let reg (t r : Nat) : Option Reg :=
    if r < alloc then
      some ⟨BitVec.ofNat 32 (field bs (imageV + 128 * r + 4 * t) 4), decide (field bs (imageV + 128 * alloc + 4 * r) 4 / 2 ^ t % 2 = 1)⟩
    else none
  { w with
    alloc := alloc,
    j := vecFill w.j fun i => BitVec.ofNat 32 (field bs (0x20 + 4 * i) 4),
    k := vecFill w.k fun i => ⟨BitVec.ofNat 32 (field bs (0x40 + 4 * i) 4), decide (field bs 0x80 4 / 2 ^ i % 2 = 1)⟩,
    quant := writeQuant (BitVec.ofNat 32 (field bs 0x84 4)), rahctl := writeRahctl (BitVec.ofNat 32 (field bs 0x88 4)),
    vgt := field bs 0x8C 1,
    threads := mapFrom (fun t th => th.ofEntry c t ((bs.drop (0xC0 + 64 * t)).take 64) (reg t)) 0 w.threads }

end Sys2Proof.Machine
end

