-- ==== Sys2Proof/Machine/Translate.lean ====
section
/-!
DEFINITION. Address translation (R318 to R324), the order of R54, the ownership of memory (R379, R381), and the protection of worlds
(R391). A demand walk runs within the access that needs it (log 6); the structures drop their oldest entries (log 11).
-/

namespace Sys2Proof.Machine

/-- The kinds of Translate (R22). -/
inductive Kind where
  | read | write | atomic | exec | prefetch
deriving DecidableEq, Repr

def Kind.isWrite : Kind → Bool | .write | .atomic => true | _ => false

/-- Who asks for a translation: VD and context, the KeyID of its world, whether it is a Vent thread at S or M, its lane, core and
cluster, and whether it runs ahead (R285). -/
structure Who where
  vd   : Nat
  ctx  : Nat
  key  : Nat
  vent : Option Nat
  level : Level
  lane : Option Nat
  core : Nat
  cl   : Nat
  spec : Bool
  /-- The translation in the lane's last-page register when the bundle's access checks it (R321). -/
  last : Option TlbEntry
deriving DecidableEq, Repr

def Who.priv (q : Who) : Bool := q.vent.isSome && (match q.level with | .u => false | _ => true)

/-- The last-page register of a lane (R321). -/
def State.lastPage (s : State) (lane : Option Nat) : Option TlbEntry := lane.bind fun l => s.tlb.find? fun x => x.place == .last l

/-- A wave as a requester. -/
def State.who (s : State) (w : Wave) : Who :=
  let proc := match w.loc with | .vent p _ => some p | _ => none
  { vd := w.agentVd, ctx := w.ctx, key := s.keyOf w, vent := proc, level := w.level, lane := w.lane?, core := w.coreNo,
    cl := match w.loc with | .lane cl _ _ => cl | _ => 128, spec := w.episode.isSome, last := s.lastPage w.lane? }

/-- A wave as its instruction fetch asks: past the last-page register, which serves the accesses of a lane (R321, log 62). -/
def State.fetcher (s : State) (w : Wave) : Who := { s.who w with lane := none, last := none }

/-! ## Partitions (R379) -/

/-- The partition a requester belongs to: a Vent thread's is its processor's, whichever VD it serves. -/
def State.partOfWho (s : State) (q : Who) : Option Nat := match q.vent with | some n => s.partOfProc n | none => s.partOf q.vd

/-- Memory of another partition is beyond an agent of a partition, or of none (R379): PROT (log 26). -/
def State.foreign (s : State) (p : Option Nat) (pa : Nat) : Bool :=
  decide (pkgOf pa = s.fab.pkg) && (match s.ownerOf (localOf pa) with | some o => p != some o | none => false)

/-- n bytes of local memory that hardware reads or writes for a partition lie in no other partition's memory (R379, R384). -/
def State.within (s : State) (p : Option Nat) (a n : Nat) : Bool :=
  !s.foreign p (s.podAddr a) && !s.foreign p (s.podAddr (a + n - 1))

/-! ## Walks (R318 to R320) -/

/-- Fields of an entry (R319). -/
def pteV (e : DWord) : Bool := e.getLsbD 0
def pteLeaf (e : DWord) : Bool := e.getLsbD 1
def pteT64 (e : DWord) : Bool := e.getLsbD 2
def pteR (e : DWord) : Bool := e.getLsbD 3
def pteW (e : DWord) : Bool := e.getLsbD 4
def pteX (e : DWord) : Bool := e.getLsbD 5
def pteA (e : DWord) : Bool := e.getLsbD 6
def pteD (e : DWord) : Bool := e.getLsbD 7
def pteKR (e : DWord) : Bool := e.getLsbD 8
def pteRD (e : DWord) : BitVec 2 := e.extractLsb' 9 2
def pteFrame (e : DWord) : Nat := (e.extractLsb' 11 40).toNat * 4096
def pteKey (e : DWord) : Nat := (e.extractLsb' 51 9).toNat

/-- What a walk finds: the address of the leaf, the leaf, the page size and the non-leaf entries on the path; or a fault. -/
inductive WalkRes where
  | leaf (addr : Nat) (e : DWord) (size : Nat) (path : List (Nat × DWord))
  | fault (cls : TrapClass) (path : List (Nat × DWord))

/-- A leaf is malformed (R319). -/
def leafBad (e : DWord) (size : Nat) : Bool := pteT64 e || (pteRD e).getLsbD 1 || decide (pteFrame e % size ≠ 0)

/-- A table entry as a walker reads it: from its cache of non-leaf entries, else at its home. What stands at a home on another package is a free
value (log 6). -/
def State.tableEntry (s : State) (cl vd ctx a : Nat) (home : Bool) : DWord :=
  match (if home then none else s.wcache.find? fun x => x.cl == cl && x.vd == vd && x.ctx == ctx && x.addr == a) with
  | some x => x.entry
  | none => if pkgOf a = s.fab.pkg then BitVec.ofNat 64 (s.mem.val (localOf a) 8) else Config.freeTable s.freeCtr a

/-- A walk from a table at a level down (R318). A table page in another partition's memory is beyond it (R379, log 26). -/
def State.walkGo (s : State) (cl vd ctx : Nat) (va : DWord) (home : Bool) : Nat → Nat → List (Nat × DWord) → WalkRes
  | 0, _, path => .fault .prot path
  | lvl + 1, table, path =>
    let a := table + 8 * (va.toNat / 2 ^ (12 + 9 * lvl) % 512)
    if s.foreign (s.partOf vd) a then .fault .prot path else
    let e := s.tableEntry cl vd ctx a home
    let size := 2 ^ (12 + 9 * lvl)
    if !pteV e then .fault .page path
    else if pteLeaf e then (if 3 ≤ lvl ∨ leafBad e size then .fault .prot path else .leaf a e size path)
    else if lvl = 0 then .fault .prot path
    else if pteT64 e then
      if lvl ≠ 1 then .fault .prot path
      else
        let a2 := pteFrame e + 8 * (va.toNat / 2 ^ 16 % 32)
        if s.foreign (s.partOf vd) a2 then .fault .prot (path ++ [(a, e)]) else
        let e2 := s.tableEntry cl vd ctx a2 home
        if !pteV e2 then .fault .page (path ++ [(a, e)])
        else if !pteLeaf e2 || leafBad e2 (2 ^ 16) then .fault .prot (path ++ [(a, e)])
        else .leaf a2 e2 (2 ^ 16) (path ++ [(a, e)])
    else State.walkGo s cl vd ctx va home lvl (pteFrame e) (path ++ [(a, e)])

/-- A walk of a context for an address. A context with no valid root holds no page. -/
def State.walk (s : State) (cl vd ctx : Nat) (va : DWord) (home : Bool) : WalkRes :=
  match s.ctxRoot vd ctx with
  | some r => s.walkGo cl vd ctx va home 5 r []
  | none => .fault .page []

/-- The walks of prefetches under way in a cluster, which share its walker with the demand walks: up to 8 at a time (R322). -/
def State.walksOf (s : State) (cl : Nat) : List Walk :=
  s.walks.filter fun x => match (s.acc? x.acc).bind fun a => s.wave? a.wave with
    | some w => (match w.loc with | .lane c _ _ => c == cl | _ => decide (cl = 128))
    | none => false

/-! ## Translation structures (R321, R322) -/

def TlbEntry.covers (x : TlbEntry) (vd ctx : Nat) (va : DWord) : Bool :=
  x.vd == vd && x.ctx == ctx && decide (x.base ≤ va.toNat) && decide (va.toNat < x.base + x.size)

/-- The entry that serves an access: last-page register, core TLB, cluster TLB, in that order. -/
def State.tlbFind (s : State) (q : Who) (va : DWord) : Option TlbEntry :=
  let at' (pl : TlbPlace) := s.tlb.find? fun x => x.place == pl && x.covers q.vd q.ctx va
  match q.last.filter fun x => x.covers q.vd q.ctx va with
  | some x => some x
  | none => match at' (.core q.core) with | some x => some x | none => at' (.cluster q.cl)

def placeCap : TlbPlace → Nat | .last _ => 1 | .core _ => 2048 | .cluster _ => 16384

/-- The newest entries of a place, up to a count. -/
def trimPlace (pl : TlbPlace) : Nat → List TlbEntry → List TlbEntry
  | _, [] => []
  | n, x :: t => if x.place = pl then (if n = 0 then trimPlace pl 0 t else x :: trimPlace pl (n - 1) t) else x :: trimPlace pl n t

/-- An entry put first in its place; the one it replaces goes, and beyond capacity the oldest. -/
def tlbPut (l : List TlbEntry) (x : TlbEntry) : List TlbEntry :=
  trimPlace x.place (placeCap x.place) (x :: l.filter fun y => !(y.place == x.place && y.vd == x.vd && y.ctx == x.ctx && y.base == x.base))

/-- A leaf installed where an access of a requester finds it: core and cluster TLB, and, unless it is speculative, the last-page
register (R321, R322, R285). -/
def State.install (s : State) (q : Who) (va : DWord) (e : DWord) (size : Nat) : State :=
  let x (pl : TlbPlace) : TlbEntry :=
    { place := pl, vd := q.vd, ctx := q.ctx, base := va.toNat / size * size, size := size, leaf := e, spec := q.spec }
  let l := tlbPut (tlbPut s.tlb (x (.cluster q.cl))) (x (.core q.core))
  { s with tlb := match q.lane with | some n => if q.spec then l else tlbPut l (x (.last n)) | none => l }

/-- The last-page register takes the translation an access used (R321). -/
def State.touchLast (s : State) (q : Who) (x : TlbEntry) : State :=
  match q.lane with
  | some n => if x.spec then s else { s with tlb := tlbPut s.tlb { x with place := .last n } }
  | none => s

/-- The newest entries of a cluster's walker cache, up to a count. -/
def trimWalker (cl : Nat) : Nat → List WalkEntry → List WalkEntry
  | _, [] => []
  | n, x :: t => if x.cl = cl then (if n = 0 then trimWalker cl 0 t else x :: trimWalker cl (n - 1) t) else x :: trimWalker cl n t

/-- The non-leaf entries of a walk kept in the cache of 1,024 of the cluster's walker (R322). -/
def State.keepPath (s : State) (q : Who) (path : List (Nat × DWord)) : State :=
  { s with wcache := trimWalker q.cl 1024 (path.foldl (fun l (a, e) =>
      if l.any (fun x => x.cl == q.cl && x.vd == q.vd && x.ctx == q.ctx && x.addr == a) then l else ⟨q.cl, q.vd, q.ctx, a, e⟩ :: l) s.wcache) }

/-- The cached entries of a path discarded (R323). -/
def State.dropPath (s : State) (q : Who) (path : List (Nat × DWord)) : State :=
  { s with wcache := s.wcache.filter fun x => !(x.cl == q.cl && path.any fun p => p.1 == x.addr) }

/-- The answer of a translation. -/
inductive TrRes where
  | ok (pa key : Nat)
  | fault (cls : TrapClass)
deriving DecidableEq, Repr

/-- The checks of R320 on a leaf. -/
def leafCheck (priv : Bool) (k : Kind) (e : DWord) : Option TrapClass :=
  if pteKR e && !priv then some .prot
  else
    match k with
    | .read | .prefetch => if pteR e then none else some .prot
    | .exec => if pteX e then none else some .prot
    | .write | .atomic => if !pteW e then some .prot else if pteRD e = 1 then some .rdw else none

/-- Whether the walker must set A or D before the access performs (R320, R323); an episode sets neither (R285). -/
def needsSet (spec : Bool) (k : Kind) (e : DWord) : Bool := !spec && (!pteA e || (k.isWrite && !pteD e))

/-- A leaf with A, and for a write D, set. -/
def withAD (k : Kind) (e : DWord) : DWord := if k.isWrite then e ||| 0xC0 else e ||| 0x40

/-- The canonical form of a virtual address (R51). -/
def canonical (va : DWord) : Bool := va.extractLsb' 56 8 == 0#8 || va.extractLsb' 56 8 == 0xFF#8

/-! ## Windows and ranges (R54, R55) -/

/-- The operator whose window holds a physical address of this package: its place in the list, whether it is the OW, and the offset
in the window. -/
def State.windowAt (s : State) (pa : Nat) : Option (Nat × Bool × Nat) :=
  if pkgOf pa ≠ s.fab.pkg then none
  else
    let l := localOf pa / 64
    (List.range s.ops.length).findSome? fun n =>
      match s.ops[n]? with
      | none => none
      | some o =>
        match o.iw.findIdx? (· == l) with
        | some i => some (n, false, 64 * i + pa % 64)
        | none => (o.ow.findIdx? (· == l)).map fun i => (n, true, 64 * i + pa % 64)

/-! ## The order of R54 -/

/-- The context a requester translates through: its own, or for a Vent thread below M context 0 of its partition's SYSVD once that is valid; none where it
uses the local identity (log 12). -/
def State.view (s : State) (q : Who) : Option (Nat × Nat) :=
  match q.vent with
  | none => some (q.vd, q.ctx)
  | some proc =>
    match q.level with
    | .m => none
    | _ =>
      let v := match s.partOfProc proc with | some p => s.sysvd p | none => q.vd
      (s.ctxRoot v 0).map fun _ => (v, 0)

/-- A shadowed range of a context that covers an address, the byte of the visible or the hidden backing there, and its KeyID (R56, R241):
an even generation shows the first backing. Backings are kept as the frames of their 4 KiB pages. -/
def State.shadowAt (s : State) (vd ctx : Nat) (va : DWord) (hidden : Bool) : Option (Nat × Nat) :=
  match s.shadows.find? fun x => x.vd == vd && x.ctx == ctx && decide (x.vbase ≤ va.toNat) && decide (va.toNat < x.vbase + 4096 * x.x.length) with
  | none => none
  | some x =>
    let n := (va.toNat - x.vbase) / 4096
    let first := decide (x.gen.toNat % 2 = 0) != hidden
    some (((if first then x.x else x.y)[n]?.getD 0) + va.toNat % 4096, x.keyid)

/-- The backing of an address in a shadowed range of the context that a requester translates through (R54, R242). -/
def State.shadowOf (s : State) (q : Who) (va : DWord) (hidden : Bool) : Option (Nat × Nat) := (s.view q).bind fun x => s.shadowAt x.1 x.2 va hidden

/-- A frame of a shadowed range's backings (R242). -/
def State.shadowFrame (s : State) (pa : Nat) : Bool :=
  s.shadows.any fun x => (x.x ++ x.y).any fun f => decide (f ≤ pa) && decide (pa < f + 4096)

/-- A local address in a range of the reserved-frame map (R324). -/
def State.reservedFrame (s : State) (a : Nat) : Bool :=
  (List.range 64).any fun i => match s.mgmt.rfm[i]? with | some (b, l) => decide (b.toNat ≤ a) && decide (a < l.toNat) | none => false

/-- Step 3 of R54 and the unassigned ranges of R53, for an agent that is not a Vent thread at S or M: none where the access goes on. -/
def State.frameCheck (s : State) (pa : Nat) : Option TrapClass :=
  match regionOf (localOf pa) with
  | .relay | .device => some .krf
  | .unassigned => some .prot
  | _ => if pkgOf pa = s.fab.pkg ∧ s.reservedFrame (localOf pa) then some .krf else none

/-- R391: the key an access of a requester uses, none where it raises PROT. A Vent thread at S or M of the world's partition reads
and writes the sealed bytes as they stand. -/
def State.keyFor (s : State) (q : Who) (pa key : Nat) : Option Nat :=
  if key = 0 then some 0
  else if pkgOf pa ≠ s.fab.pkg then none
  else
    match s.keys.worlds.find? fun w => w.keyid == key with
    | none => none
    | some w =>
      if q.key = key then some key
      else if q.priv && (match q.vent.bind s.partOfProc with | some p => decide (s.partOf w.vd = some p) | none => false) then some 0
      else none

/-- Steps 2 and 3 of R54 for a translated address: the pod physical address and the key the access is performed under, or a fault. -/
def State.landing (s : State) (q : Who) (va : DWord) (hidden : Bool) (pa key : Nat) : TrRes :=
  let atM := q.priv && (match q.level with | .m => true | _ => false)
  let sh := s.shadowOf q va hidden
  let (pa, key) := match sh with | some x => x | none => (pa, key)
  if sh.isNone && s.shadowFrame pa then .fault .prot
  else
    match (if q.priv then none else s.frameCheck pa) with
    | some c => .fault c
    | none =>
      if !atM && s.foreign (s.partOfWho q) pa then .fault .prot
      else match s.keyFor q pa key with | some k => .ok pa k | none => .fault .prot

/-- A prefetch of an address that translates to pa goes on: it is not dropped for its frame, an operator window, a port or a register (R185). -/
def State.prefGoes (s : State) (q : Who) (va : DWord) (pa key : Nat) : Bool :=
  match s.landing q va false pa key with
  | .ok pa _ => (s.windowAt pa).isNone && (match regionOf (localOf pa) with | .hbm | .lpddr | .relay => true | _ => false)
  | .fault _ => false

/-- The lines a walk reads at their home slices, those of its leaf and of the path it does not hold. -/
def State.walkLines (s : State) (q : Who) (path : List (Nat × DWord)) (leaf : Nat) : State :=
  let fresh := path.filter fun x => !s.wcache.any fun y => y.cl == q.cl && y.vd == q.vd && y.ctx == q.ctx && y.addr == x.1
  let s := (fresh.filter fun x => pkgOf x.1 = s.fab.pkg).foldl (fun s x => s.l2Use q.vd 0 (localOf x.1 / 64) false false) s
  let s := if (leaf :: fresh.map (·.1)).any fun a => pkgOf a ≠ s.fab.pkg then { s with freeCtr := s.freeCtr + 1 } else s
  if pkgOf leaf = s.fab.pkg then s.l2Use q.vd 0 (localOf leaf / 64) false false else s

/-- A walk for an access, its A and D set at the leaf's home, where the watches of its line see the write (R179, R323), and the leaf installed; `home` reads every entry at its home. A leaf installed by a
read holds D = 0 (R323). -/
def State.walkFor (s : State) (q : Who) (k : Kind) (va : DWord) (home : Bool) : State × TrRes :=
  match s.walk q.cl q.vd q.ctx va home with
  | .fault c _ => (s, .fault c)
  | .leaf a e size path =>
    let pa := pteFrame e + va.toNat % size
    let set := needsSet q.spec k e && (match k with | .prefetch => s.prefGoes q va pa (pteKey e) | _ => true) && (leafCheck q.priv k e).isNone
    let s := (s.walkLines q path a).keepPath q path
    match leafCheck q.priv k e with
    | some c => (s, .fault c)
    | none =>
      let e' := if set then withAD k e else e
      let s := if set ∧ pkgOf a = s.fab.pkg then s.homeWrite q.vd 0 (localOf a) (leBytes 8 e'.toNat) else s
      (s.install q va (if k.isWrite then e' else e' &&& ~~~0x80#64) size, .ok pa (pteKey e'))

/-- Translate of R320 through a context's tables. The compare of R323 is with the entry the structure held, but for D, which an entry that a read
installed holds clear; when the table's entry differs, the path is discarded and the walk starts again at the homes. -/
def State.translateCtx (s : State) (q : Who) (k : Kind) (va : DWord) : State × TrRes :=
  if !canonical va then (s, .fault .prot)
  else
    match s.tlbFind q va with
    | none => s.walkFor q k va false
    | some x =>
      match leafCheck q.priv k x.leaf with
      | some c => (s, .fault c)
      | none =>
        if needsSet q.spec k x.leaf || (x.spec && !q.spec) then
          match s.walk q.cl q.vd q.ctx va false with
          | .leaf _ e _ path => if e ||| 0x80 = x.leaf ||| 0x80 then s.walkFor q k va false else (s.dropPath q path).walkFor q k va true
          | .fault _ path => (s.dropPath q path).walkFor q k va true
        else (s.touchLast q x, .ok (pteFrame x.leaf + va.toNat % x.size) (pteKey x.leaf))

/-- The local identity a Vent thread uses while no context is installed (R381), and at M always (log 12): below 2^45, for a thread of
a partition within the partition's memory and its control block. -/
def State.identity (s : State) (q : Who) (va : DWord) : TrRes :=
  if 2 ^ 45 ≤ va.toNat then .fault .prot
  else
    match q.level, q.vent.bind s.partOfProc with
    | .m, _ => .ok (s.podAddr va.toNat) 0
    | _, some p =>
      if (match (s.part p).desc with | some d => d.owns va.toNat | none => false)
          || (decide (partBlock p ≤ va.toNat) && decide (va.toNat < partBlock p + 0x1000)) then .ok (s.podAddr va.toNat) 0
      else .fault .prot
    | _, none => .fault .prot

/-- Translate(va, kind): through the tables of the requester's view, or by the local identity. -/
def State.translate (s : State) (q : Who) (k : Kind) (va : DWord) : State × TrRes :=
  match s.view q with
  | some (v, c) => s.translateCtx { q with vd := v, ctx := c } k va
  | none => (s, s.identity q va)

/-- The size of the page that the structures give an address of a requester, 0 where none of them holds it. -/
def State.pageOf (s : State) (q : Who) (va : DWord) : Nat :=
  match s.view q with
  | some (v, c) => (s.tlbFind { q with vd := v, ctx := c } va).elim 0 (·.size)
  | none => 0

/-- An access resolved in the order of R54: the pod physical address and the key it is performed under, or a fault. `hidden` marks an
engine write to a shadow's hidden backing. -/
def State.resolve (s : State) (q : Who) (k : Kind) (va : DWord) (hidden : Bool) : State × TrRes :=
  match s.translate q k va with
  | (s, .fault c) => (s, .fault c)
  | (s, .ok pa key) => (s, s.landing q va hidden pa key)

/-! ## Fault requests (R325, R326, R416) -/

/-- A PAGE or RDW fault becomes a request, unless a pending one of its VD, context, 4 KiB page and class takes it in. -/
def State.faultRequest (s : State) (kind : Nat) (cls : TrapClass) (vd ctx : Nat) (va : DWord) (tag : Word) : State :=
  if s.faults.any (fun f => f.vd == vd && f.ctx == ctx && f.cls == cls && f.va.toNat / 4096 == va.toNat / 4096) then s
  else
    let n := s.faultSeq
    State.due { s with faults := s.faults ++ [⟨n, kind, cls, vd, ctx, va, tag, none⟩], faultSeq := n + 1 } [evn .faultRequestPost n]

def Kind.code : Kind → Nat | .read | .prefetch => 0 | .write => 1 | .atomic => 2 | .exec => 3

end Sys2Proof.Machine
end

