-- ==== Sys2Proof/Machine/MemOps.lean ====
section
/-!
DEFINITION. The shared operations of memory accesses: the caches of a core (R292, R314), what a reply does to its thread, also in a
save image (R36, R277), the start of an access once its address is resolved (R54, R163 to R170), the operand log (R267, R268), and
the interlocks and holds of R24 and R172.
-/

namespace Sys2Proof.Machine

/-! ## The L1 and the remote-read path of a core (R167, R172, R292, R307, R314) -/

/-- A line held by a core, in its L1 or its remote-read path; `line` is the pod physical address over 64. -/
def State.cacheFind (s : State) (core line key : Nat) : Option CLine :=
  s.caches.find? fun c => c.core == core && c.line == line && c.keyid == key

/-- The lines of one L1 set, newest first, with room for one more among n ways: a line marked first to evict goes before the oldest. -/
def evict (same : CLine → Bool) (n : Nat) (l : List CLine) : List CLine :=
  if (l.filter same).length < n then l
  else
    match (l.filter fun c => same c && c.first).getLast? with
    | some v => l.filter fun c => !(c == v)
    | none => match (l.filter same).getLast? with | some v => l.filter fun c => !(c == v) | none => l

/-- The sets of a core's L1: 64 KiB on a compute core, 32 KiB on a Vent processor (R307, R310), 4 ways each (log 15). -/
def l1Sets (core : Nat) : Nat := if core < 512 then 256 else 128

/-- A line placed in a core's L1 or remote-read path (256 lines, oldest first). -/
def State.cachePut (s : State) (c : CLine) : State :=
  let l := s.caches.filter fun x => !(x.core == c.core && x.line == c.line)
  { s with caches := c ::
      if c.rr then evict (fun x => x.core == c.core && x.rr) 256 l
      else evict (fun x => x.core == c.core && !x.rr && x.line % l1Sets c.core == c.line % l1Sets c.core) 4 l }

/-- A line used again becomes the newest. -/
def State.cacheTouch (s : State) (c : CLine) : State := if c.rr then s else { s with caches := c :: s.caches.filter fun x => !(x == c) }

/-- The whole L1 and remote-read path of a core invalidated; loads in flight are delivered and not kept (R172). -/
def State.invalidate (s : State) (core : Nat) : State :=
  { s with caches := s.caches.filter fun c => c.core != core, accs := mapIf (fun a => a.core == core) (fun a => { a with nokeep := true }) s.accs }

/-- One line removed from a core, and its fill in flight not kept (R178, R234). -/
def State.dropLine (s : State) (core line : Nat) : State :=
  { s with
    caches := s.caches.filter fun c => !(c.core == core && c.line == line),
    accs := mapIf (fun a => a.core == core && a.pa / 64 == line) (fun a => { a with nokeep := true }) s.accs }

/-- The cores at which an operation of a wave has its effect: the one it issued on, and the one the wave runs on now, where it has been saved and restored
since (R36, R294, R300). -/
def State.coresOf (s : State) (wid core : Nat) : List Nat :=
  match s.wave? wid with
  | some w => (match w.loc with | .saved _ | .gone => [core] | _ => if w.coreNo = core then [core] else [core, w.coreNo])
  | none => [core]

/-- An operation on the caches of those cores. -/
def State.onCores (s : State) (wid core : Nat) (f : State → Nat → State) : State := (s.coresOf wid core).foldl f s

/-- Bits of a line laid over: n bytes of data at an offset. -/
def lineWith (line : BitVec 512) (off : Nat) (bs : List Byte) : BitVec 512 :=
  BitVec.ofNat 512 (leVal (((leBytes 64 line.toNat).take off) ++ bs ++ (leBytes 64 line.toNat).drop (off + bs.length)))

/-- The words of a line that n bytes at an offset write whole. -/
def wholeWords (off n : Nat) : BitVec 16 :=
  (List.range 16).foldl (fun m i => if off ≤ 4 * i ∧ 4 * i + 4 ≤ off + n then m ||| (1#16 <<< i) else m) 0

/-- A store updates the issuing core's copy of its line, and keeps a fill of that line in flight from being kept, so that a later load
of the core sees it (R167, R169). -/
def State.storeThrough (s : State) (core key pa : Nat) (bs : List Byte) : State :=
  { s with
    caches := mapIf (fun c => c.core == core && c.line == pa / 64 && c.keyid == key)
      (fun c => { c with data := lineWith c.data (pa % 64) bs, marks := c.marks &&& ~~~(wholeWords (pa % 64) bs.length) }) s.caches,
    accs := mapIf (fun a => a.core == core && a.pa / 64 == pa / 64) (fun a => { a with nokeep := true }) s.accs }

/-- A store's update of the issuing core's copy, unless it goes to an operator window, which no cache holds (R55, R199). -/
def State.ownCopy (s : State) (core key pa : Nat) (bs : List Byte) : State :=
  if (s.windowAt pa).isSome then s else s.storeThrough core key pa bs

/-! ## Threads as replies find them (R36, R277) -/

/-- The launch of a wave's block. -/
def State.launchOf (s : State) (w : Wave) : Option Launch := (s.block? w.block).bind fun b => s.launch? b.launch

/-- An outstanding load of a thread, for which a later memory access may have to wait. -/
def Access.isLoad (a : Access) : Bool := match a.kind with | .load | .lda _ | .tld .. | .tldh | .desc _ => true | _ => false

/-- An access that counts in the store counter of R30. -/
def Access.counts (a : Access) : Bool := match a.kind with | .store | .tste .. | .atomic .. => true | _ => false

/-- An access of thread t of a wave. -/
def Access.ofThread (a : Access) (wid t : Nat) : Bool := a.wave == wid && a.mask.getLsbD t

/-- The registers an outstanding access will write overlap n registers from f, for thread t: a k register belongs to the wave. -/
def Access.targets (a : Access) (wid t f n : Nat) : Bool :=
  a.wave == wid && decide (a.nreg ≠ 0) && (decide (48 ≤ a.dst) || a.tid == t) && decide (a.dst < f + n) && decide (f < a.dst + a.nreg)

/-- The register pairs a command's completion will write: D, or none. -/
def Cmd.targets (c : Cmd) (wid t f n : Nat) : Bool :=
  c.wave == wid && decide (c.dst < 64) && (decide (48 ≤ c.dst) || c.tid == t) && decide (c.dst < f + n) && decide (f < c.dst + 1)

/-- A register operand of thread t awaits an access or a command (R24). -/
def State.awaited (s : State) (w : Wave) (t : Nat) (i : Instr) : Bool :=
  i.regs.any fun u =>
    let n := max u.rd u.wr
    s.accs.any (fun a => a.targets w.id t u.f.toNat n) || s.cmds.any (fun c => c.targets w.id t u.f.toNat n)

/-- A load whose data come from beyond the L2 slices of the package: from another package, or from memory that the home slice does not hold (R24,
R283). -/
def State.beyond (s : State) (a : Access) : Bool :=
  a.isLoad && (match a.stage with
    | .remote _ | .held => true
    | .issued => decide (pkgOf a.pa = s.fab.pkg) && (s.windowAt a.pa).isNone && (match regionOf (localOf a.pa) with | .hbm | .relay | .lpddr => !s.inL2 (localOf a.pa / 64) | _ => false)
    | .performed => a.far
    | _ => false)

/-- A thread held at an instruction that reads a register awaiting a load from beyond the L2 slices or an unready WAIT-mode load: the wake word of R279. -/
def State.heldWord (s : State) (w : Wave) (t : Nat) (i : Instr) : Option Nat :=
  (i.regs.filter fun u => decide (0 < u.rd)).findSome? fun u =>
    (s.accs.find? fun a => a.targets w.id t u.f.toNat u.rd && (s.beyond a || (match a.stage with | .unready _ => true | _ => false))).map fun a =>
      match a.stage with
      | .unready _ =>
        7 * 2 ^ 56 + (match (s.windowAt a.pa).bind fun x => s.ops[x.1]?.map fun o => (o, x.2.2) with
          | some (o, off) => o.handle + off / (max 64 (field o.desc 32 4)) * 256
          | none => 0)
      | _ => 6 * 2 ^ 56 + a.dst

/-- Handle and slot of an OPWAIT's wake word (R279). -/
def State.opWord (s : State) (id : Nat) : Nat := match s.cmd? id with | some c => c.a.toNat % 256 + c.b.toNat % 4096 * 256 | none => 0

/-- The instruction a thread stands at, as its wave sees memory through the structures that hold translations; none where a fetch
would fault. A word on another package is the free value its fetch would bring (log 28). -/
def State.peek (s : State) (w : Wave) (pc : DWord) : Option Word :=
  match (s.resolve { s.fetcher w with spec := true } .exec pc false).2 with
  | .ok pa key =>
    if pkgOf pa = s.fab.pkg then some (BitVec.ofNat 32 (leVal (s.getBytes key (localOf pa) 4)))
    else if s.peerUp (pkgOf pa) then some (Config.freeFetch s.freeCtr) else none
  | .fault _ => none

/-- What an image of a wave needs of the machine (R278). -/
def State.imageCtx (s : State) (w : Wave) (kind : Nat) (log : List (List Byte)) (instrAt : DWord → Option Instr) : ImageCtx :=
  { kind := kind,
    launchid := match s.launchOf w with | some l => l.id | none => 0,
    blkid := match s.block? w.block with | some b => b.blkid | none => 0,
    waiting := fun t => decide ((w.th t).clause.mask &&& (w.th t).flagMask ≠ 0) ||
      (match instrAt (w.th t).pc with | some i => s.awaited w t i | none => false),
    held := fun t => (instrAt (w.th t).pc).bind fun i => s.heldWord w t i,
    opw := s.opWord,
    entry := fun t => ((s.accs.filter fun a => a.ofThread w.id t).filterMap (·.entry)).headD 0, log := log }

/-- A change that a reply makes to a wave: in its record, and for a saved wave in its image, read and written back but for its length and its operand log
(R36, R278). -/
def State.onWave (s : State) (wid : Nat) (f : Wave → Wave) : State :=
  match s.wave? wid with
  | none => s
  | some w =>
    match w.loc with
    | .saved img =>
      let key := s.keyOf w
      let bs := s.getBytes key img (s.mem.val img 4)
      let bs := if key = 0 then bs else s.getBytes key img (field (s.getBytes key img 4) 0 4)
      let c := s.imageCtx w (field bs 0xA 1) [] (fun pc => match s.peek w pc with
        | some x => (match decodeWord x with | .ok i => some i | .error _ => none)
        | none => none)
      let w' := f (w.ofImage c bs)
      let s := s.mapWave wid fun _ => w'
      s.homeWrite w.vd key img (bs.take 4 ++ ((w'.image c).drop 4).take 0x89 ++ (bs.drop 0x8D).take 0x33 ++
        ((w'.image c).drop 0xC0).take (imageBase w'.alloc - 0xC0))
    | _ => s.mapWave wid f

/-- A thread that is set aside between a prefix and its target leaves the bundle that is to issue it (R71). -/
def Wave.dropPfx (w : Wave) (t : Nat) : Wave :=
  { w with pfx := w.pfx.bind fun p => let m := p.mask &&& ~~~(1#32 <<< t); if m = 0 then none else some { p with mask := m } }

/-- A class raised in a thread by an event: an episode of its wave ends first, and a saved thread is trapped in its image, where its resume PC is its
region entry (R270). -/
def State.raiseNow (s : State) (wid t : Nat) (cls : TrapClass) (reason : Nat) (info : Word) (pc addr : DWord) : State :=
  let s := s.mapWave wid Wave.endEpisode
  match s.wave? wid with
  | some w =>
    (match w.loc with
     | .gone => s
     | .saved _ => s.onWave wid fun w => w.mapTh t fun th => { th.raise cls reason info pc addr s.cycle with pc := th.rgnpc }
     | _ => (s.raise wid t cls reason info pc addr).mapWave wid fun w => w.dropPfx t)
  | none => s

/-- Registers written by a reply, from f on. -/
def Wave.deliverAll (w : Wave) (t f : Nat) : List Reg → Wave
  | [] => w
  | r :: rs => Wave.deliverAll (w.deliver t f r) t (f + 1) rs

/-- The flags an operation held set, detached (R75). -/
def Wave.detachAll (w : Wave) (fl : List (Nat × Nat)) (now : Nat) : Wave := fl.foldl (fun w x => w.detach (1#32 <<< x.1) x.2 now) w

/-- A thread whose accesses are all out of the operand log wakes from LOG (R268). -/
def State.logWake (s : State) (wid : Nat) : State :=
  s.onWave wid fun w =>
    { w with threads := mapFrom (fun t th =>
        match th.cond with
        | .blocked .log =>
          if s.accs.any (fun a => a.ofThread wid t && a.entry.isSome) then th else th.wakeAgain s.cycle
        | _ => th) 0 w.threads }

/-- The end of an access: its threads' store counters and flags, and its record (R30, R75). Accesses of its wave that wait to leave try again, and all that
wait where it had an entry of the remote request table (R166). -/
def State.finish (s : State) (a : Access) (f : Wave → Wave) : State :=
  let s := s.dropAcc a.id
  let s := s.onWave a.wave fun w =>
    let w := f w
    let w := if a.counts then w.mapArch a.mask (fun th => { th with stores := th.stores - 1 }) else w
    w.detachAll a.flags s.cycle
  let away := decide (pkgOf a.pa ≠ s.fab.pkg)
  let s := s.due ((s.accs.filter fun b => (match b.stage with | .held => true | _ => false) && (away || b.wave == a.wave)).map fun b =>
    evn .homeAccess b.id)
  if a.entry.isSome then s.logWake a.wave else s

/-! ## The operand log (R267 to R269) -/

/-- The entries in use in a lane's log. -/
def State.logEntries (s : State) (lane : Nat) : List Nat :=
  (s.accs.filterMap fun a =>
    match a.entry with
    | some e => (match s.wave? a.wave with | some w => if w.lane? = some lane then some e else none | none => none)
    | none => none).eraseDups

/-- The lowest free entry of a log of 8. -/
def State.freeEntry (s : State) (lane : Nat) : Option Nat := (List.range 8).find? fun e => !(s.logEntries lane).contains e

/-- Thread t has an access in the operand log. -/
def State.hasLogged (s : State) (wid t : Nat) : Bool :=
  s.accs.any fun a => a.ofThread wid t && a.entry.isSome

/-! ## Ordering of one thread (R169, R298) -/

/-- The threads of an access have a write of the same line on its way (R169): a load then reads at the home. -/
def State.ownWrite (s : State) (a : Access) : Bool :=
  s.accs.any fun b => b.counts && b.wave == a.wave && decide (b.mask &&& a.mask ≠ 0) && b.pa / 64 == a.pa / 64 && b.id != a.id

/-- Marks of the words of n bytes at an address, as the words of a line. -/
def State.marksOf (s : State) (a : Nat) : BitVec 16 := s.mem.poison (a / 64 * 64) 64

/-! ## Starting an access -/

/-- The access of thread t that an instruction makes, its address not yet resolved. -/
def State.newAccess (s : State) (w : Wave) (i : Instr) (t : Nat) (kind : AccKind) (va : DWord) (size : Nat) : Access :=
  let m := s.actsFor i t
  { id := s.nextId, wave := w.id, tid := t, mask := m, vd := w.agentVd, ctx := w.ctx, word := s.issue.word, pc := s.issue.repPc, kind := kind, va := va, pa := 0,
    keyid := 0, size := size, data := 0, cmp := 0, psn := 0, dst := 0, nreg := 0,
    flags := (tids m).filterMap (fun u => let f := (w.th u).flagOf s.issue.s; if f < 12 then some (u, f) else none),
    cp := s.issue.cp.toNat, core := w.coreNo, nokeep := false, stage := .issued, fp := 0, entry := none,
    wtag := threadTag s.fab.pkg w.id t, tmask := 1#32 <<< t, req := s.nextId, far := false, group := [] }

/-- An access counted, its flag attached, and its threads on to the next word (R30, R75). -/
def State.enlist (s : State) (a : Access) (adv : Bool) : State :=
  let s := { s with accs := s.accs ++ [a], nextId := s.nextId + 1 }
  s.mapWave a.wave fun w =>
    let w := w.mapMask a.mask fun th => { th with pc := if adv then s.issue.pc + 4 else th.pc, stores := if a.counts then th.stores + 1 else th.stores }
    a.flags.foldl (fun w x => w.mapTh x.1 fun th => th.attach x.2) w

/-! ## Requests (R165, R166, R317) -/

/-- Accesses of one bundle that travel as one request (R165): loads, stores, elements, atomics or watches in the same line of memory. -/
def Access.joins (a b : Access) : Bool :=
  a.wave == b.wave && a.pa / 64 == b.pa / 64 && (match regionOf (localOf a.pa) with | .hbm | .relay | .lpddr => true | _ => false) &&
    (match a.kind, b.kind with
     | .store, .store | .load, .load | .lda _, .lda _ | .tld .., .tld .. | .tldh, .tldh | .pref, .pref | .tste .., .tste .. | .atomic .., .atomic ..
     | .watch _, .watch _ => true
     | _, _ => false)

/-- The requests of a core outstanding. One in the operand log has not completed and counts; the rule does not say so (DESIGN CHOICE, log 81). -/
def State.requests (s : State) (core : Nat) : Nat :=
  ((s.accs.filter fun a => a.core == core && (match a.kind with | .engRead _ | .engWrite _ | .engAtom _ => false | _ => true)).map (·.req)).eraseDups.length

/-- An access that has left for another package, or is to. -/
def State.leaves (s : State) (a : Access) : Bool :=
  match a.stage with | .remote _ | .held => true | .issued => decide (pkgOf a.pa ≠ s.fab.pkg) | _ => false

/-- The remote requests of the package outstanding, those that wait to leave, and those of the bundle that issues (R166). -/
def State.remotes (s : State) : Nat := ((s.accs.filter s.leaves).map (·.req)).eraseDups.length

/-- A place is free for one more request of a core (R166). -/
def State.accRoom (s : State) (core : Nat) : Bool := decide (s.requests core < 1024)

/-- The entries of the remote request table in use (R317). -/
def State.tableUse (s : State) : Nat := ((s.accs.filter fun a => match a.stage with | .remote _ => true | _ => false).map (·.req)).eraseDups.length

/-- The lowest free entry of the remote request table (R317). -/
def State.remoteEntry (s : State) : Nat :=
  let used := s.accs.filterMap fun a => match a.stage with | .remote e => some e | _ => none
  ((List.range (used.length + 1)).find? fun e => !used.contains e).getD 0

/-- The opcode of an atomic (R177) and its 64-bit form. -/
def AtOp.code : AtOp → Nat
  | .add => 0x90 | .sub => 0x91 | .mins => 0x92 | .minz => 0x93 | .maxs => 0x94 | .maxz => 0x95 | .and => 0x96 | .or => 0x97
  | .xor => 0x98 | .xch => 0x99 | .inc => 0x9A | .fadd => 0x9B | .fmin => 0x9C | .fmax => 0x9D | .cas => 0x9E

/-- The kind byte of a READ or WRITE: which access it is, and 16 more where it marks its line first to evict at the home (R167). R357 names the kinds and
gives no codes (DESIGN CHOICE, log 17). -/
def Access.msgKind (a : Access) : Nat :=
  (match a.kind with | .lda _ => 1 | .tld .. | .tldh => 2 | .pref => 3 | .tste .. => 1 | _ => 0) + if a.cp = 3 then 16 else 0

/-- The datum of a WRITE: a TSTE carries its value, then its rounding mode and saturation, then its index (log 17). -/
def Access.msgData (a : Access) : Nat :=
  match a.kind with
  | .tste i md sat => a.data.toNat % 2 ^ 32 + (md.toNat + if sat then 4 else 0) * 2 ^ 32 + i % 2 ^ 32 * 2 ^ 64
  | _ => a.data.toNat

/-- Stores of one request laid over one another in thread order: the bytes of their line and which of them are written. -/
def mergeStores : List Access → List (Option Byte)
  | [] => List.replicate 64 none
  | a :: l =>
    let rest := mergeStores l
    let off := a.pa % 64
    (List.range 64).map fun n => match rest[n]?.getD none with
      | some b => some b
      | none => if off ≤ n ∧ n < off + a.size then some (BitVec.ofNat 8 (a.data.toNat / 2 ^ (8 * (n - off)))) else none

/-- The fabric class an access travels in (R170, R366): an engine's store of more than 64 bytes goes as BULK. -/
def Access.fabClass (a : Access) : Nat := match a.kind with | .atomic .. | .watch _ | .engAtom _ => 0 | _ => if 64 < a.size then 2 else 1

/-- The command number by which a BULK that stores for an engine names its command (R364): the low bits of its writer tag (R201), and one more, which no
collective's number has (DESIGN CHOICE, log 17). -/
def Cmd.bulkNo (c : Cmd) : Nat := 2 ^ 31 + c.wtag.toNat % 2 ^ 25

/-- What a request carries for each access behind its first (log 17): an element's value and index; an atomic's place in its line and operands; a watch's
place, thread and comparand. -/
def Access.further (a : Access) : List Byte :=
  match a.kind with
  | .tste i _ _ => leBytes 4 a.data.toNat ++ leBytes 4 i
  | .atomic .. => leBytes 1 (a.pa % 64) ++ leBytes 8 a.data.toNat ++ leBytes 8 a.cmp.toNat
  | .watch _ => leBytes 1 (a.pa % 64) ++ leBytes 1 a.tid ++ leBytes 4 a.cmp.toNat
  | _ => []

/-- What a request carries for the accesses behind its first: how many, then one after another. -/
def furtherOf (group : List Access) : List Byte :=
  if group.length ≤ 1 then [] else leBytes 1 (group.length - 1) ++ (group.drop 1).flatMap Access.further

/-- A C0 or C1 request to a home on another package (R170, R357, R366), one message for the accesses that travel with it (R165), the first of them first:
several loads name the bytes from the least to the greatest of them, several stores their line; elements, atomics and watches follow one another. The
writer tag of a request of several threads is that of the lowest of them (R201 does not say; DESIGN CHOICE, log 81). -/
def State.requestMsg (s : State) (a : Access) (group : List Access) (entry : Nat) : Msg :=
  let tag := a.wtag
  let one := decide (group.length ≤ 1)
  let least := group.foldl (fun n b => min n b.pa) a.pa
  let pa := if one then a.pa else match a.kind with | .store => a.pa / 64 * 64 | .tste .. | .atomic .. | .watch _ => a.pa | _ => least
  let size := if one then a.size else match a.kind with | .store => 64 | _ => group.foldl (fun n b => max n (b.pa + b.size - least)) a.size
  let head (size kind : Nat) : List Byte := leBytes 8 pa ++ leBytes 2 entry ++ leBytes 1 size ++ leBytes 1 kind ++ leBytes 4 tag.toNat
  let (kind, pay) := match a.kind with
    | .load | .lda _ | .tld .. | .tldh | .pref | .desc _ | .engRead _ => (0, head size a.msgKind)
    | .tste .. => (2, head 64 a.msgKind ++ leBytes 64 a.msgData ++ leBytes 8 (2 ^ 64 - 1) ++ furtherOf group)
    | .store | .engWrite _ =>
      if 64 < a.size then
        let c := match a.kind with | .engWrite id => s.cmd? id | _ => none
        let bs := (c.bind (·.buf)).elim [] (·.1)
        (8, leBytes 4 (c.elim 0 Cmd.bulkNo) ++ zeros 4 ++ leBytes 8 pa ++ leBytes 8 bs.length ++ bs)
      else if one then (2, head size a.msgKind ++ leBytes 64 a.msgData ++ leBytes 8 (2 ^ a.size - 1))
      else
        let l := mergeStores group
        (2, head size a.msgKind ++ l.map (fun b => b.getD 0) ++
          leBytes 8 ((List.range 64).foldl (fun m n => if (l[n]?.getD none).isSome then m + 2 ^ n else m) 0))
    | .engAtom _ => (4, head (AtOp.code .add) 1 ++ leBytes 8 a.data.toNat ++ zeros 8)
    | .atomic op _ _ =>
      (4, head op.code (if a.size = 8 then 1 else 0) ++ leBytes 8 a.data.toNat ++ leBytes 8 a.cmp.toNat ++ furtherOf group)
    | .watch c => (6, head 4 0 ++ leBytes 4 c ++ leBytes 4 a.cmp.toNat ++ furtherOf group)
  { src := BitVec.ofNat 7 s.fab.pkg, dst := BitVec.ofNat 7 (pkgOf a.pa), cls := a.fabClass, kind := kind, hop := 0, via := 0, seq := 0,
    vd := a.vd, pay := pay }

/-- Failure of an access (R52, R170, R404): its record says so, and its reply is due. -/
def State.failAcc (s : State) (id : Nat) (cls : TrapClass) (info : Nat) : State :=
  match s.acc? id with
  | none => s
  | some a =>
    let s := s.mapAcc id fun a => { a with stage := .failed cls info }
    s.due [evn (match a.kind with | .store | .tste .. | .engWrite _ | .engAtom _ => .storeAck | .atomic .. => .atomicReply | .watch _ => .waitmReply | _ => .loadDataArrival) id]

/-- An access for another package waits to leave (R158, R165, R169, R178, R298, R299): behind an earlier access of its thread to that package that waits, or
that is on its way in the other class, for the classes are not ordered against each other (R362); and behind an earlier access of its wave to some of the
same bytes that waits, so that a bundle's keep thread order. The accesses of one request leave together. -/
def State.heldBehind (s : State) (a : Access) : Bool :=
  s.accs.any fun b =>
    decide (b.id < a.id) && b.wave == a.wave && b.req != a.req && pkgOf b.pa == pkgOf a.pa &&
    (match b.stage with
     | .held => decide (b.mask &&& a.mask ≠ 0) || (decide (b.pa < a.pa + a.size) && decide (a.pa < b.pa + b.size))
     | .remote _ => decide (b.mask &&& a.mask ≠ 0) && b.fabClass != a.fabClass
     | _ => false)

/-- A request has a place in the remote request table, and its message among those to its package in its class that are not acknowledged (R166, R362,
R365). -/
def State.remoteRoom (s : State) (a : Access) : Bool :=
  let dst := BitVec.ofNat 7 (pkgOf a.pa)
  let cls := a.fabClass
  let leaving := ((s.accs.filter fun b => (match b.stage with | .remote _ => false | _ => s.leaves b) && pkgOf b.pa == pkgOf a.pa && b.fabClass == cls).map (·.req)).eraseDups
  decide (s.remotes < 65536) && !s.fab.waits dst cls && !s.fab.full dst cls (leaving.length + 1) &&
    decide ((s.fab.unacked.filter fun x => x.dst == dst && x.cls == cls).length + leaving.length < 4096)

/-- Accesses for another package leave, each request with one entry of the remote request table and one message (R165, R170, R317). Those held
back stay. -/
def State.depart (s : State) (ids : List Nat) : State :=
  ids.foldl (fun s id =>
    match s.acc? id with
    | none => s
    | some a =>
      match a.stage with
      | .held =>
        let group := s.accs.filter fun b => b.req == a.req && (match b.stage with | .held => true | _ => false)
        if group.any s.heldBehind then s
        else if !s.peerUp (pkgOf a.pa) then group.foldl (fun s b => s.failAcc b.id .absent (pkgOf b.pa)) s
        else if 65536 ≤ s.tableUse then s
        else
          let e := s.remoteEntry
          State.send { s with accs := mapIf (fun b => group.any fun c => c.id == b.id) (fun b => { b with stage := .remote e }) s.accs }
            (s.requestMsg (group.headD a) group e)
      | _ => s) s

/-- A resolved access goes where R54 sends it: an operator window, the home here, or the home on another package, for which it waits to leave. A
load that hits in the core's L1 or remote-read path is served there (R167, R292); LDA, atomics, watches, ports and device registers are not
cached. -/
def State.route (s : State) (id : Nat) : State :=
  match s.acc? id with
  | none => s
  | some a =>
    match s.windowAt a.pa with
    | some _ =>
      (match a.kind with
       | .pref => s.due [evn .loadDataArrival id]
       | .load | .lda _ | .tld .. | .tldh | .watch _ => s.due [evn .owLoadArrival id]
       | .store | .tste .. | .atomic .. | .engWrite _ | .engAtom _ => s.due [evn .iwStoreArrival id]
       | .desc _ | .engRead _ => s.due [evn .owLoadArrival id])
    | none =>
      let cacheable := a.isLoad && !(match a.kind with | .lda _ => true | _ => false) || (match a.kind with | .pref => true | _ => false)
      match (if cacheable && !s.ownWrite a then s.cacheFind a.core (a.pa / 64) a.keyid else none) with
      | some c =>
        (s.cacheTouch c).mapAcc id (fun a => { a with data := c.data, psn := c.marks, stage := .performed, nokeep := true })
          |>.due [evn .loadDataArrival id]
      | none => if pkgOf a.pa = s.fab.pkg then s.due [evn .homeAccess id] else s.mapAcc id fun a => { a with stage := .held }

/-- One access on its way. -/
def State.sendOff (s : State) (id : Nat) : State := (s.route id).depart [id]

/-- Some accesses that have been issued on their way: first each finds out where it goes, in thread order, then those for other packages leave together. -/
def State.sendThose (s : State) (l : List Nat) : State :=
  let ids := (s.accs.filter fun a => l.contains a.id && (match a.stage with | .issued => true | _ => false)).map (·.id)
  (ids.foldl State.route s).depart ids

/-- The accesses that an instruction has begun, those with numbers from `since` on, on their way. -/
def State.sendAll (s : State) (since : Nat) : State := s.sendThose ((s.accs.filter fun a => decide (since ≤ a.id)).map (·.id))

/-- The translation kind of an access (R163, R320). -/
def AccKind.kind : AccKind → Kind
  | .store | .tste .. => .write | .atomic .. => .atomic | .pref => .prefetch | _ => .read

/-- 64 bytes that a port returns: free (log 22). -/
def portLine (n : Nat) : BitVec 512 := Config.freePort (n + 3) ++ Config.freePort (n + 2) ++ Config.freePort (n + 1) ++ Config.freePort n

/-- Access rights to the device range (R40, R383, R386, R402, R411): none where the access may go on. Only aligned words reach it. The
unassigned ranges hold nothing: PROT (R53). -/
def deviceCheck (s : State) (w : Wave) (a : Nat) (size : Nat) (wr : Bool) : Option TrapClass :=
  if regionOf a = .unassigned then some .prot
  else if regionOf a ≠ .device then none
  else
    let m := match w.level with | .m => true | _ => false
    let part := match w.loc with | .vent p _ => s.partOfProc p | _ => none
    let own : Bool :=
      if a < 0x1F0000004000 then m || (!wr && (decide (a - 0x1F0000000000 < 0xC) || (decide (0x1F0000000C00 ≤ a) && decide (a < 0x1F0000001000) &&
        (part.isSome && s.partOf ((a - 0x1F0000000C00) / 16) == part))))
      else if a < 0x1F0000005000 then
        let q := s.queue ((a - 0x1F0000004000) / 16)
        m || (!(wr && decide (a % 16 = 12)) && q.own.getLsbD 7 && part == some (q.own.toNat % 8))
      else if a < 0x1F0000008000 then false
      else if a < 0x1F0000010000 then m || part == some ((a - 0x1F0000008000) / 0x1000)
      else if a < 0x1F0000050000 then m || (part.isSome && s.partOf ((a - 0x1F0000010000) / 0x1000) == part)
      else if 0x1F1000000000 ≤ a ∧ a < 0x1F2000000000 then
        let n := (a - 0x1F1000000000) / 0x10000000
        m || (match part.bind fun p => (s.part p).desc with | some d => d.netrp == n || d.storrp == n | none => false)
      else false
    if !own then some .prot
    else if a < 0x1F0000050000 ∧ (size ≠ 4 ∨ a % 4 ≠ 0) then some .align
    else none

/-- The requester of a bundle's accesses: the lane's last-page register serves them if it holds the page of the lowest active thread's address
(R321). -/
def State.bundleWho (s : State) (w : Wave) (va : DWord) : Who :=
  let q := s.who w
  { q with last := q.last.filter fun x => x.covers q.vd q.ctx va }

/-- An access would miss in every structure while the cluster's walker runs its 8 walks (R322). -/
def State.walkerBusy (s : State) (q : Who) (va : DWord) : Bool :=
  match s.view q with
  | some (v, c) => (s.tlbFind { q with vd := v, ctx := c } va).isNone && decide (8 ≤ (s.walksOf q.cl).length)
  | none => false

/-- The threads of an access wait: they issue the instruction again, from its first prefix (R24, R71). -/
def State.waitAt (s : State) (a : Access) : State := s.mapWave a.wave fun w => w.mapMask a.mask fun th => { th with pc := s.issue.repPc }

/-- A class raised in the threads that an access traps; the others it stands for go on (R21, log 8). -/
def State.trapAcc (s : State) (a : Access) (cls : TrapClass) : State :=
  ((tids a.tmask).foldl (fun s t => s.raise a.wave t cls 0 (lowWord a.va) s.issue.repPc a.va) s).advance a.wave (a.mask &&& ~~~a.tmask)

/-- A prefetch that is dropped: it completes with nothing placed (R185). -/
def State.dropPref (s : State) (a : Access) : State := (s.enlist { a with stage := .failed .prot 0 } true).due [evn .loadDataArrival a.id]

/-- What becomes of an access after its address is known. A store updates the core's copy of its line as it issues; where it fails later, at an absent peer, the
copy keeps the datum, of which the rules do not speak (R167, R290; DESIGN CHOICE, log 81). A deferred class traps its threads, with the address as information; a
resolvable class is logged, or blocks the threads when the log is full (R267, R269); where no place is free for it they wait (R166); otherwise
it is ready to go. `since` is the number of the bundle's first access. A Vent thread has no operand log, and PAGE and RDW enter
its next level (log 29). -/
def State.begin (s : State) (q : Who) (w : Wave) (a : Access) (entry : Option Nat) (since : Nat) : State :=
  let pref := match a.kind with | .pref => true | _ => false
  let watch := match a.kind with | .watch _ => true | _ => false
  if a.va.toNat % a.size ≠ 0 then s.trapAcc a .align
  else if s.walkerBusy q a.va && !(pref && !w.isVent) then s.waitAt a
  else if pref ∧ !w.isVent ∧ (s.tlbFind q a.va).isNone then
    match s.accs.find? fun b => decide (since ≤ b.id) && (match b.stage with | .walking => true | _ => false) && a.va.toNat / 64 == b.va.toNat / 64 with
    | some b => s.enlist { a with stage := .walking, req := b.req } true
    | none =>
    if !s.accRoom a.core then s.waitAt a
    else
      let s := s.enlist { a with stage := .walking } true
      State.due { s with walks := s.walks ++ [Walk.mk a.id a.id false] } [evn .pageWalkComplete a.id]
  else
    match s.resolve q a.kind.kind a.va false with
    | (s, .fault c) =>
      if pref then s.dropPref a
      else if (c = .page ∨ c = .rdw) ∧ !w.isVent then
        match entry with
        | none => s.blockAt a.wave a.mask s.issue.repPc .logfull
        | some e =>
          let s := s.enlist { a with stage := .logged e c, entry := some e } !watch
          let s := if watch then s.blockAt a.wave a.mask s.issue.pc (.waitm a.id) else s
          s.faultRequest a.kind.kind.code c a.vd a.ctx a.va a.wtag
      else s.trapAcc a c
    | (s, .ok pa key) =>
      match (if pkgOf pa = s.fab.pkg then deviceCheck s w (localOf pa) a.size (a.kind.kind.isWrite) else none) with
      | some c => if pref then s.dropPref a else s.trapAcc a c
      | none =>
        let port := match regionOf (localOf pa) with | .port _ | .device => true | _ => false
        let noPort := port && (match a.kind with | .atomic .. | .watch _ => true | _ => false)
        if noPort then s.trapAcc a .prot
        else if port ∧ pref then s.dropPref a
        else
          let a := { a with pa := pa, keyid := key, page := s.pageOf q a.va }
          let first := s.accs.find? fun b => decide (since ≤ b.id) && (match b.stage with | .issued => true | _ => false) && a.joins b
          if first.isNone && (!s.accRoom a.core || (pkgOf pa != s.fab.pkg && !s.remoteRoom a)) then s.waitAt a
          else
            let s := s.enlist { a with req := first.elim a.id (·.req) } !watch
            match a.kind with
            | .tste .. | .atomic .. => s.dropLine a.core (pa / 64)
            | .store => s.ownCopy a.core key pa ((leBytes 64 a.data.toNat).take a.size)
            | .watch _ => s.blockAt a.wave a.mask s.issue.pc (.waitm a.id)
            | _ => s

/-- A load or prefetch of an episode: a prefetch of a valid address, with its walk (R161, R189, R285); destinations are marked by the instruction. A
class that would be raised ends the episode, but that PREF raises none of translation; PAGE and RDW install and request nothing. R189 names POISON, ALIGN, PROT
and UDI; a load that would raise KRF ends the episode as well (DESIGN CHOICE, log 81). -/
def State.aheadLoad (s : State) (w : Wave) (i : Instr) (t : Nat) (a : BitVec 6) (va : DWord) (size : Nat) : State :=
  let pref := match i with | .pref .. => true | _ => false
  let cp := if pref then s.issue.cp.toNat else 1
  if w.invalid t a.toNat || w.invalid t (a.toNat + 1) then s
  else if va.toNat % size ≠ 0 then s.mapWave w.id Wave.endEpisode
  else if !canonical va && !pref then s.mapWave w.id Wave.endEpisode
  else if (s.tlbFind (s.who w) va).isNone then
    let x := { s.newAccess w i t .pref va 64 with mask := 0, flags := [], cp := cp, stage := .walking, core := w.coreNo }
    let s := { s with accs := s.accs ++ [x], walks := s.walks ++ [Walk.mk x.id x.id true], nextId := s.nextId + 1 }
    s.due [evn .pageWalkComplete x.id]
  else
    match s.resolve (s.who w) .prefetch va false with
    | (s, .fault c) => if c = .page ∨ c = .rdw ∨ pref then s else s.mapWave w.id Wave.endEpisode
    | (s, .ok pa key) =>
      if (s.windowAt pa).isSome || (match regionOf (localOf pa) with | .hbm | .lpddr => false | _ => true) then s
      else
        let x := { s.newAccess w i t .pref va 64 with pa := pa / 64 * 64, keyid := key, mask := 0, flags := [], cp := cp, page := s.pageOf (s.who w) va }
        let s := { s with accs := s.accs ++ [x], nextId := s.nextId + 1 }
        let s := s.mapVd w.vd fun v => { v with prefetches := v.prefetches + 1 }
        s.sendOff x.id

end Sys2Proof.Machine
end

