-- ==== Sys2Proof/Machine/MemEvents.lean ====
section
/-!
DEFINITION. Accesses at their home and their replies: the operations of atomics (R177), what the home slice does with an access
(R158, R168, R178, R179), the write of a line seen by watches, and the events LOAD_DATA_ARRIVAL, STORE_ACK, ATOMIC_REPLY, WAITM_REPLY
and WATCH_REEVALUATE.
-/

namespace Sys2Proof.Machine

/-! ## Atomics (R177) -/

/-- The lesser or greater of two words as FMIN and FMAX choose (R145). -/
def fMinMax (mx : Bool) (a b : Word) : Word :=
  let x := decF a
  let y := decF b
  if x.isNan then (if y.isNan then poisonFloat else b)
  else if y.isNan then a
  else if x.isZero && y.isZero then (if (x.sign == mx) then b else a)
  else if fvLt x y != mx then a else b

/-- The new value of an atomic on n-byte numbers, with the FPSTAT bits of ATFADD. -/
def atomNew (op : AtOp) (n : Nat) (old d new : Nat) : Nat × BitVec 5 :=
  let m := 2 ^ (8 * n)
  let lt := sval (8 * n) old < sval (8 * n) d
  match op with
  | .add => ((old + d) % m, 0)
  | .sub => ((old + m - d % m) % m, 0)
  | .mins => (if lt then old else d, 0)
  | .maxs => (if lt then d else old, 0)
  | .minz => (min old d, 0)
  | .maxz => (max old d, 0)
  | .and => (old &&& d, 0)
  | .or => (old ||| d, 0)
  | .xor => (old ^^^ d, 0)
  | .xch => (d, 0)
  | .inc => (if d ≤ old then 0 else old + 1, 0)
  | .fadd => let (x, fl) := f32Result .rne false (fvAdd .rne (decF (BitVec.ofNat 32 old)) (decF (BitVec.ofNat 32 d))); (x.toNat, fl)
  | .fmin => ((fMinMax false (BitVec.ofNat 32 old) (BitVec.ofNat 32 d)).toNat, 0)
  | .fmax => ((fMinMax true (BitVec.ofNat 32 old) (BitVec.ofNat 32 d)).toNat, 0)
  | .cas => (if old = d then new else old, 0)

/-- TSTE on a block (R158): the block after it, and the flags. Every bit outside the element stays: R104 names TSTE among the writers that
write pad bytes as zero, R158 says that the block's other bits are unchanged, and the model follows R158 (log 64). -/
def tsteBlock (b i : Nat) (md : Mode) (sat : Bool) (x : Word) : Nat × BitVec 5 :=
  let f := BFmt.ofCode (blkCode b)
  if f = .zero ∨ f = .bad ∨ f.count ≤ i then (b, 0)
  else let (c, fl) := f.enc md sat ((decF x).scale (-(blkScale b))); (blkSet f b i c, fl)

/-- The bytes of a line that a TSTE writes, those its element lies in, and the flags. -/
def tsteBytes (b i : Nat) (md : Mode) (sat : Bool) (x : Word) : List (Option Byte) × BitVec 5 :=
  let f := BFmt.ofCode (blkCode b)
  let (new, fl) := tsteBlock b i md sat x
  let none_ := f = .zero ∨ f = .bad ∨ f.count ≤ i
  ((List.range 64).map fun n => if ¬ none_ ∧ f.place i / 8 ≤ n ∧ n ≤ (f.place i + f.width - 1) / 8 then some (BitVec.ofNat 8 (new / 2 ^ (8 * n))) else none, fl)

/-! ## Accesses at their home -/

/-- The words of an access that are marked, as words of its line. -/
def Access.span (a : Access) : BitVec 16 :=
  (List.range 16).foldl (fun m i => if a.pa % 64 < 4 * i + 4 ∧ 4 * i < a.pa % 64 + a.size then m ||| (1#16 <<< i) else m) 0

/-- An uncorrectable error found by a read is reported to the reader's VD with the physical address (R111, R265, R396). -/
def State.eccReport (s : State) (vd key pa : Nat) : State :=
  s.logErr vd .ecc 0 0 (BitVec.ofNat 32 pa) (BitVec.ofNat 64 pa) true key

/-- The KeyID an access's agent runs under, for R399. -/
def State.agentKey (s : State) (wid : Nat) : Nat := match s.wave? wid with | some w => s.keyOf w | none => 0

/-- The line of an access leaves the caches of its wave's cores (R178, R234). -/
def State.dropLines (s : State) (a : Access) : State := s.onCores a.wave a.core fun s k => s.dropLine k (a.pa / 64)

/-- An access performed by its home in local memory (R158, R168, R178, R179, R312); its reply is due. -/
def State.performLocal (s : State) (a : Access) : State :=
  let la := localOf a.pa
  let cs := decide (a.cp = 3)
  match a.kind with
  | .load | .lda _ | .tld .. | .tldh | .pref | .desc _ | .engRead _ =>
    let far := !s.inL2 (la / 64)
    let s := s.sliceRead a.vd a.keyid (la / 64) (decide (512 ≤ a.core ∧ a.core < 1024)) cs
    let line := BitVec.ofNat 512 (leVal (s.lineBytes a.keyid (la / 64)))
    let marks := s.marksOf la
    let s := if marks &&& a.span ≠ 0 ∧ a.isLoad then s.eccReport a.vd (s.agentKey a.wave) a.pa else s
    (s.mapAcc a.id fun a => { a with data := line, psn := marks, far := far, stage := .performed }).due [evn .loadDataArrival a.id]
  | .store =>
    let bs := (leBytes 64 a.data.toNat).take a.size
    let s := (s.homeWriteMasked a.vd a.keyid la cs (bs.map some)).onCores a.wave a.core fun s k => s.storeThrough k a.keyid a.pa bs
    (s.mapAcc a.id fun a => { a with stage := .performed }).due [evn .storeAck a.id]
  | .engAtom _ =>
    let old := leVal (s.getBytes a.keyid la 8)
    let s := (s.homeWrite a.vd a.keyid la (leBytes 8 (old + a.data.toNat))).dropLines a
    (s.mapAcc a.id fun a => { a with stage := .performed }).due [evn .storeAck a.id]
  | .engWrite _ =>
    let bs := (leBytes 64 a.data.toNat).take a.size
    let s := (s.homeWrite a.vd a.keyid la bs).dropLines a
    (s.mapAcc a.id fun a => { a with stage := .performed }).due [evn .storeAck a.id]
  | .tste i md sat =>
    let old := leVal (s.lineBytes a.keyid (la / 64))
    let (bytes, fl) := tsteBytes old i (Mode.ofBits md) sat (BitVec.ofNat 32 a.data.toNat)
    let s := (s.homeWriteMasked a.vd a.keyid (la / 64 * 64) cs bytes).dropLines a
    (s.mapAcc a.id fun a => { a with stage := .performed, fp := fl }).due [evn .storeAck a.id]
  | .atomic op _ _ =>
    let s := s.sliceRead a.vd a.keyid (la / 64) false false
    let old := leVal (s.getBytes a.keyid la a.size)
    let marks := s.marksOf la
    let (new, fl) := atomNew op a.size old (a.data.toNat % 2 ^ (8 * a.size)) (a.cmp.toNat % 2 ^ (8 * a.size))
    let s := if marks &&& a.span ≠ 0 then s.eccReport a.vd (s.agentKey a.wave) a.pa else s
    let s := (s.homeWrite a.vd a.keyid la (leBytes a.size new)).dropLines a
    (s.mapAcc a.id fun a => { a with data := BitVec.ofNat 512 old, psn := marks, fp := fl, stage := .performed }).due [evn .atomicReply a.id]
  | .watch _ =>
    let s := s.sliceRead a.vd a.keyid (la / 64) false false
    match s.watchSeen a with
    | some word => s.watchDone a.id word
    | none => s.mapAcc a.id fun a => { a with stage := if s.watchRoom la then .watching else .polled }

/-- An earlier access of the same wave to some of the same bytes is not performed yet, where one of the two writes them: program order of a thread (R169),
and thread order in a bundle (R158, R165, R178). Or an earlier access of the same thread to the same root port is not (R171). -/
def State.orderedBehind (s : State) (a : Access) : Bool :=
  s.accs.any fun b =>
    decide (b.id < a.id) && b.wave == a.wave && (match b.stage with | .issued => true | _ => false) &&
    (((b.counts || a.counts) && decide (b.pa < a.pa + a.size) && decide (a.pa < b.pa + b.size)) ||
      (match regionOf (localOf a.pa), regionOf (localOf b.pa) with
       | .port n, .port m => n == m && decide (b.pa ≠ 0) && decide (b.mask &&& a.mask ≠ 0)
       | _, _ => false))

/-! ## Replies -/

/-- The registers an arriving load writes (R168, R153, R154), and the FPSTAT bits of TLD. `psn` marks the words of the line. TLD and TLDH read the
whole block, so a mark on any word of the line poisons their result, also where others have been written since (R111, R414, log 64). -/
def Access.regs (a : Access) : List Reg × BitVec 5 :=
  let off := a.pa % 64
  let w (j : Nat) : Reg :=
    let x := BitVec.ofNat 32 (a.data.toNat / 2 ^ (8 * off + 32 * j))
    let x := if a.size = 1 then x &&& 0xFF else if a.size = 2 then x &&& 0xFFFF else x
    if a.psn.getLsbD (off / 4 + j) then ⟨poisonFloat, true⟩ else ⟨x, false⟩
  match a.kind with
  | .tld i md sat =>
    if a.psn ≠ 0 then ([⟨poisonFloat, true⟩], 0)
    else
      match blkRead a.data.toNat i with
      | none => ([⟨poisonFloat, true⟩], 0)
      | some v => let (x, fl) := f32Result (Mode.ofBits md) sat (v, false); ([⟨x, false⟩], fl)
  | .tldh =>
    if a.psn ≠ 0 then ([⟨poisonFloat, true⟩], 0)
    else
      let b := a.data.toNat
      ([⟨BitVec.ofNat 32 (b % 2 ^ 16 + (BFmt.ofCode (blkCode b)).count * 2 ^ 16), false⟩], 0)
  | _ => ((List.range a.nreg).map w, 0)

/-- A reply's effect on its thread: registers, FPSTAT, ERRSTAT. PL is set when a load delivers a poisoned word (R28, R111). -/
def replyEffect (a : Access) (rs : List Reg) (fp : BitVec 5) (err : Word) (w : Wave) : Wave :=
  let w := w.deliverAll a.tid a.dst rs
  let load : Bool := match a.kind with | .atomic .. | .watch .. => false | _ => true
  let err := if load && rs.any (·.psn) then err ||| ePL else err
  w.mapArch a.mask fun th => (th.setFp fp).setErr err

/-- The poisoned group of a failed or refused access. -/
def Access.poisonGroup (a : Access) : List Reg := List.replicate a.nreg ⟨poisonFloat, true⟩

/-- A line that a load brought is kept in L1 or the remote-read path, as its cache policy and its home say (R167, R170); not where its wave runs on another
core by then. -/
def State.fill (s : State) (a : Access) : State :=
  let cached := match regionOf (localOf a.pa) with | .hbm | .lpddr | .relay => true | _ => false
  let cs := decide (a.cp = 3)
  if a.nokeep ∨ !cached ∨ (s.windowAt a.pa).isSome ∨ s.coresOf a.wave a.core ≠ [a.core] then s
  else if a.cp = 2 then
    (if pkgOf a.pa = s.fab.pkg then s else s.cachePut ⟨a.core, true, a.pa / 64, a.keyid, a.data, a.psn, false⟩)
  else s.cachePut ⟨a.core, false, a.pa / 64, a.keyid, a.data, a.psn, cs⟩

/-- A refusal also raises OPREF in the thread where OPTRAP.REF of its VD is set (R41, R206). -/
def State.opTrap (s : State) (a : Access) (reason : Nat) : State :=
  if (s.vd a.vd).ctl.optrap.getLsbD 0 then s.raiseNow a.wave a.tid .opref reason (BitVec.ofNat 32 reason) a.pc a.va else s

/-- The entry of a failed access (R52, R170): ABSENT with the package. -/
def State.absentReport (s : State) (a : Access) (info : Nat) : State :=
  s.logErr a.vd .absent 0 a.wtag (BitVec.ofNat 32 info) a.va false (s.agentKey a.wave)

/-- The acquire actions of a scope: from .cluster up, the core's L1 and remote-read path are emptied (R172). -/
def State.acquire (s : State) (core scope : Nat) : State := if 2 ≤ scope then s.invalidate core else s

/-- The acquire of an operation of a wave, at the core it issued on and at the one the wave runs on now (R36, R294). -/
def State.acquireAt (s : State) (wid core scope : Nat) : State := s.onCores wid core fun s k => s.acquire k scope

/-- The entry of an access that failed: ABSENT, or the class with which its home on another package turned it away (R242, R367). -/
def State.failReport (s : State) (a : Access) (cls : TrapClass) (info : Nat) : State :=
  match cls with
  | .absent => s.absentReport a info
  | .prot | .krf => s.logErr a.vd cls 0 a.wtag (lowWord a.va) a.va false (s.agentKey a.wave)
  | _ => s

/-- The status of an engine's access that failed (R236). -/
def failStatus (cls : TrapClass) : Nat := if cls = .absent then 4 else 2

/-- What the entry of an engine's failed access will carry (R265): the package, or the port, for ABSENT, else the address. -/
def failInfo (a : Access) (cls : TrapClass) (info : Nat) : Word := if cls = .absent then BitVec.ofNat 32 info else lowWord a.va

/-- The event by which a command goes on. -/
def CmdOp.event : CmdOp → Instr
  | .cpy _ | .cpyw | .gath | .scat | .bind | .free | .launch _ | .mcastIn | .evinc _ | .portIn .. => .engineCommandComplete
  | .publish _ => .shadowFlip
  | .coll | .mcast => .collCombine
  | .opinst => .opinstComplete
  | .opfree | .opswap | .opqry | .opfire | .opdrop | .opgrant | .opwait => .operatorCommandArrival
  | .tile .. => .tileCommandRetire
  | .errpop | .tlbinv _ | .tfence | .keyload | .keyrevoke | .ctxsave | .ctxrest | .ctxkill | .pgsplit | .partctl _ => .privilegedCompletion

/-- The event of a command's work. -/
def Cmd.event (c : Cmd) : Event := match c.op with | .tile cl e => { row := .tileCommandRetire, n := cl, m := e } | _ => evn c.op.event c.id

/-- A command goes on. -/
def State.wakeCmd (s : State) (id : Nat) : State := match s.cmd? id with | some c => s.due [c.event] | none => s

/-- Bytes of the line an access brought, from its address on, with the poison of their words. -/
def Access.lineData (a : Access) : List Byte × BitVec 16 :=
  (((leBytes 64 a.data.toNat).drop (a.pa % 64)).take a.size, a.psn >>> (a.pa % 64 / 4))

/-- The read of a descriptor or of an engine has come back: its command has the bytes, and the status of a failure; 256 more marks that an
engine's read failed, 512 more that the command is ending. -/
def State.engineData (s : State) (a : Access) (cmd : Nat) (status : Nat) (info : Word) : State :=
  let (bs, psn) := a.lineData
  let desc : Bool := match a.kind with | .desc _ => true | _ => false
  let bs := if status = 0 then bs else zeros a.size
  (s.finish a id).mapCmd cmd (fun c =>
    let c := if status = 0 ∨ 512 ≤ c.status then c
      else { c with status := if desc then status else status + 256, info := info, bad := a.va }
    let c := if desc ∧ psn ≠ 0 ∧ c.buf.isNone then { c with info := BitVec.ofNat 32 a.pa, bad := BitVec.ofNat 64 a.pa } else c
    { c with bytes := if desc then c.bytes ++ bs else c.bytes,
             buf := if desc then (if psn = 0 then c.buf else some ([], psn)) else some (bs, psn), stage := .queued }) |>.wakeCmd cmd

/-- A write of an engine at a home elsewhere or at a window has been answered; a refusal, or an index skipped for an
uncorrectable error, gives way to another failure, which also leaves an empty `buf`. -/
def State.engineAck (s : State) (a : Access) (cmd : Nat) (status : Nat) (info : Word) : State :=
  (s.finish a id).mapCmd cmd (fun c =>
    let c := if status = 0 ∨ (status = 7 ∧ c.status ≠ 0) ∨ !([0, 3, 7].contains c.status) then c else { c with status := status, info := info, bad := a.va }
    { c with buf := if status = 0 ∨ status = 7 then none else some ([], 0), prog := c.prog + a.size, stage := .queued }) |>.wakeCmd cmd

/-- LOAD_DATA_ARRIVAL (R166): the data are in the register, and the load completes; LDA acquires before its line is kept (R173, R294). -/
def execLoadDataArrival (s : State) : Out :=
  match s.acc? s.ev.n with
  | none => .next s
  | some a =>
    match a.kind, a.stage with
    | .pref, .walking => .next s
    | .pref, _ =>
      let s := match a.stage with | .performed => s.fill a | _ => s
      .next (s.finish a id)
    | .desc c, .performed | .engRead c, .performed => .next (s.engineData a c 0 0)
    | .desc c, .failed cls info | .engRead c, .failed cls info => .next (s.engineData a c (failStatus cls) (failInfo a cls info))
    | .desc c, .refused r | .engRead c, .refused r => .next (s.engineData a c 7 (BitVec.ofNat 32 r))
    | _, .performed =>
      let (rs, fp) := a.regs
      let s := (match a.kind with | .lda sc => s.acquireAt a.wave a.core sc | _ => s).fill a
      .next (s.finish a (replyEffect a rs fp 0))
    | _, .failed cls info =>
      let s := s.failReport a cls info
      .next (s.finish a (replyEffect a a.poisonGroup 0 (if cls = .opunr then eUR ||| ePL else ePL)))
    | _, .refused reason => .next ((s.finish a (replyEffect a a.poisonGroup 0 (eSR ||| ePL))).opTrap a reason)
    | _, _ => .next s

/-- STORE_ACK (R30, R166): performed, refused or failed, the store is complete. -/
def execStoreAck (s : State) : Out :=
  match s.acc? s.ev.n with
  | none => .next s
  | some a =>
    match a.kind, a.stage with
    | .engWrite c, .performed | .engAtom c, .performed => .next ((s.dropLines a).engineAck a c 0 0)
    | .engWrite c, .failed cls info | .engAtom c, .failed cls info =>
      let tile : Bool := match s.cmd? c with | some x => (match x.op with | .tile .. => true | _ => false) | none => false
      .next ((if tile then s.failReport a cls info else s).engineAck a c (failStatus cls) (failInfo a cls info))
    | .engWrite c, .refused r | .engAtom c, .refused r => .next (s.engineAck a c 7 (BitVec.ofNat 32 r))
    | _, .performed =>
      let s := match a.kind with
        | .store => s.onCores a.wave a.core fun s k => s.ownCopy k a.keyid a.pa ((leBytes 64 a.data.toNat).take a.size)
        | _ => s.dropLines a
      .next (s.finish a (replyEffect a [] a.fp 0))
    | _, .failed cls info =>
      let s := s.failReport a cls info
      .next (s.finish a (replyEffect a [] 0 eSF))
    | _, .refused reason => .next ((s.finish a (replyEffect a [] 0 eSR)).opTrap a reason)
    | _, _ => .next s

/-- ATOMIC_REPLY (R178): the old value to the group with .rt, the acquire of the scope, and the core's line of it invalidated. -/
def execAtomicReply (s : State) : Out :=
  match s.acc? s.ev.n with
  | none => .next s
  | some a =>
    let (rt, scope) := match a.kind with | .atomic _ rt scope => (rt, scope) | _ => (false, 0)
    match a.stage with
    | .performed =>
      let s := s.dropLines a
      let s := if rt ∧ scope ≠ 0 then s.acquireAt a.wave a.core scope else s
      let rs := if rt then
          (if a.psn &&& a.span ≠ 0 then a.poisonGroup else (List.range a.nreg).map fun j => ⟨BitVec.ofNat 32 (a.data.toNat / 2 ^ (32 * j)), false⟩)
        else []
      .next (s.finish a (replyEffect a rs a.fp 0))
    | .failed cls info =>
      let s := s.failReport a cls info
      .next (s.finish a (replyEffect a (if rt then a.poisonGroup else []) 0 eSF))
    | .refused reason => .next ((s.finish a (replyEffect a (if rt then a.poisonGroup else []) 0 (if rt then eSR ||| ePL else eSR))).opTrap a reason)
    | _ => .next s

/-- WAITM_REPLY (R179): D receives the word, and the thread goes on after the acquire of .pkg or .pod; a failed or refused watch gives
poison and acquires nothing. -/
def execWaitmReply (s : State) : Out :=
  match s.acc? s.ev.n with
  | none => .next s
  | some a =>
    let wake (s : State) (rs : List Reg) (err : Word) : State :=
      s.finish a fun w =>
        let w := replyEffect a rs 0 err w
        w.mapArch a.mask fun th => match th.cond with | .blocked (.waitm i) => if i = a.id then th.wakeNext s.cycle else th | _ => th
    match a.stage with
    | .performed => .next (wake (s.acquireAt a.wave a.core 4) (List.replicate a.nreg ⟨BitVec.ofNat 32 a.data.toNat, false⟩) 0)
    | .failed cls info =>
      let s := s.failReport a cls info
      .next (wake s a.poisonGroup 0)
    | .refused reason => .next ((wake s a.poisonGroup (eSR ||| ePL)).opTrap a reason)
    | _ => .next s

/-- WATCH_REEVALUATE (R179): a watch that found no place is evaluated again, one of this package (n: access), or, with `ok`, one of another (n:
package, m: its entry). A place that is free by then is taken. -/
def execWatchReevaluate (s : State) : Out :=
  if s.ev.ok then
    match s.fab.watches.find? fun x => !x.placed && x.hdr.src.toNat == s.ev.n && x.entry == s.ev.m with
    | none => .next s
    | some x =>
      let s := s.sliceRead x.hdr.vd.toNat 0 (x.addr / 64) false false
      match s.remoteSeen x with
      | some word => .next (s.remoteWatchDone x word)
      | none =>
        let put := s.watchRoom x.addr
        .next { s with fab := { s.fab with watches := mapIf (fun y => y == x) (fun y => { y with placed := put }) s.fab.watches } }
  else
    match s.acc? s.ev.n with
    | none => .next s
    | some a =>
      match a.stage with
      | .polled => .next (s.performLocal a)
      | _ => .next s

end Sys2Proof.Machine
end

