-- ==== Sys2Proof/Machine/Transc.lean ====
section
/-!
DEFINITION. The nine correctly rounded functions of R98 and R148. Quotients and roots are exact: an integer part with a sticky bit.
The transcendental functions are computed in fixed point to a relative error below 2^-90 and rounded once, RNE, as inexact; their
exact results (R148) are taken out before. That no FP32 argument's result lies within 2^-90 of a rounding boundary is DEDUCED from
counting the arguments (log 25).
-/

namespace Sys2Proof.Machine

/-- A magnitude known as an integer part and whether anything is left over: the left-over part as one more bit. -/
def withSticky (s : Bool) (m : Nat) (e : Int) (rest : Bool) : FVal := .fin s (2 * m + (if rest then 1 else 0)) (e - 1)

/-- The integer square root by bits from the top. -/
def isqrtGo (x : Nat) : Nat → Nat → Nat
  | 0, r => r
  | k + 1, r => let r' := r + 2 ^ k; isqrtGo x k (if r' * r' ≤ x then r' else r)
def isqrt (x : Nat) : Nat := isqrtGo x (Nat.log2 x / 2 + 1) 0

/-- m1 × 2^e1 over m2 × 2^e2, to 64 bits beyond the operands. -/
def fvQuot (s : Bool) (m1 : Nat) (e1 : Int) (m2 : Nat) (e2 : Int) : FVal :=
  let n := m1 * 2 ^ 64
  withSticky s (n / m2) (e1 - e2 - 64) (decide (n % m2 ≠ 0))

/-- The root of m × 2^e. -/
def fvSqrt (m : Nat) (e : Int) : FVal :=
  let (m, e) := if e % 2 = 0 then (m, e) else (2 * m, e - 1)
  let x := m * 2 ^ 128
  let r := isqrt x
  withSticky false r (e / 2 - 64) (decide (r * r ≠ x))

/-! ## Fixed point: integers over 2^P -/

/-- Bits of the fixed point. -/
def fxP : Nat := 200
def fxOne : Int := 2 ^ fxP
def fxMul (a b : Int) : Int := a * b / fxOne

/-- ln 2 = Σ 1 / (k 2^k). -/
def ln2Go : Nat → Nat → Int → Int
  | 0, _, acc => acc
  | n + 1, k, acc => ln2Go n (k + 1) (acc + fxOne / ((k : Int) * 2 ^ k))
def fxLn2 : Int := ln2Go 210 1 0

/-- atan (1/q) = Σ (−1)^k / ((2k+1) q^(2k+1)). -/
def atanGo (q : Int) : Nat → Nat → Int → Int → Int
  | 0, _, _, acc => acc
  | n + 1, k, p, acc => atanGo q n (k + 1) (p / (q * q)) (if k % 2 = 0 then acc + p / (2 * k + 1) else acc - p / (2 * k + 1))

/-- π by Machin's formula. -/
def fxPi : Int := 4 * (4 * atanGo 5 100 0 (fxOne / 5) 0 - atanGo 239 40 0 (fxOne / 239) 0)

/-- e^r = Σ r^k / k!, for r from 0 to ln 2. -/
def expGo (r : Int) : Nat → Int → Int → Int → Int
  | 0, _, _, acc => acc
  | n + 1, k, t, acc => expGo r n (k + 1) (fxMul t r / k) (acc + t)
def fxExp (r : Int) : Int := expGo r 60 1 fxOne 0

/-- 2 atanh z = 2 Σ z^(2k+1) / (2k+1), for z from 0 to 1/3. -/
def logGo (z2 : Int) : Nat → Int → Int → Int → Int
  | 0, _, _, acc => acc
  | n + 1, k, t, acc => logGo z2 n (k + 2) (fxMul t z2) (acc + t / k)
def fxLogRatio (z : Int) : Int := 2 * logGo (fxMul z z) 70 1 z 0

/-- sin y = Σ (−1)^k y^(2k+1) / (2k+1)!, for y from 0 to π/2, in units of 2^-Q given as `one`. -/
def sinGo (one y2 : Int) : Nat → Int → Int → Int → Int
  | 0, _, _, acc => acc
  | n + 1, k, t, acc => sinGo one y2 n (k + 2) (-(t * y2 / one) / ((k + 1) * (k + 2))) (acc + t)

/-- A fixed-point magnitude as a value that is known to be inexact. -/
def fxVal (s : Bool) (x : Int) (e : Int) : FVal := withSticky s x.natAbs e true

/-! ## The functions -/

/-- 2^x for x = (−1)^s × m × 2^e not an integer: 2^n × e^(f ln 2), f the fraction. Magnitudes from 2^8 up lie beyond every result. -/
def exp2V (s : Bool) (m : Nat) (e : Int) : FVal :=
  if 9 ≤ (Nat.log2 m : Int) + e then (if s then .fin false 1 (-400) else .fin false 1 400)
  else
    let x : Int := if -(fxP : Int) ≤ e then (m : Int) * 2 ^ (e + fxP).toNat else (m : Int) / 2 ^ (-(e + fxP)).toNat
    let x := if s then (if x = 0 then -1 else -x) else x
    let n := x / fxOne
    fxVal false (fxExp (fxMul (x - n * fxOne) fxLn2)) (n - fxP)

/-- log2 (m × 2^e) for a magnitude that is no power of two: the exponent plus ln of the significand over ln 2. -/
def log2V (m : Nat) (e : Int) : FVal :=
  let k := Nat.log2 m
  let num : Int := (m : Int) - 2 ^ k
  let den : Int := (m : Int) + 2 ^ k
  let frac := fxLogRatio (num * fxOne / den) * fxOne / fxLn2
  let x := ((k : Int) + e) * fxOne + frac
  fxVal (decide (x < 0)) x (-fxP)

/-- sin (π y) for y = m × 2^e, 0 < y ≤ 1/2; small y in finer units so that the result keeps its relative precision. -/
def sinPiV (s : Bool) (m : Nat) (e : Int) : FVal :=
  let top := (Nat.log2 m : Int) + e
  if top < -80 then
    let p := fxPi.natAbs
    withSticky s (m * p) (e - fxP) true
  else
    let y := (m : Int) * fxPi * 2 ^ (e + 160).toNat / 2 ^ 160
    fxVal s (sinGo fxOne (fxMul y y) 40 1 y 0) (-fxP)

/-- sin (π a) or cos (π a) of a finite a, reduced exactly: a mod 2 in units of 2^e. -/
def sinCosPi (cos : Bool) (s : Bool) (m : Nat) (e : Int) : FVal :=
  if 1 ≤ e then (if cos then .fin false 1 0 else .fin s 0 0)
  else
    let k := (-e).toNat
    let one := 2 ^ k
    let x := m % (2 * one)
    -- in units of 2^-k: the angle, its half-turn, and the place in the half-turn
    if cos then
      let x := if x > one then 2 * one - x else x
      let neg := decide (one < 2 * x)
      let y := if neg then 2 * x - one else one - 2 * x
      if y = 0 then .fin false 0 0
      else if y = one then .fin neg 1 0
      else sinPiV neg y (e - 1)
    else
      let neg := decide (one ≤ x)
      let r := x % one
      let y := if one < 2 * r then one - r else r
      if r = 0 then .fin s 0 0
      else if 2 * y = one then .fin (s != neg) 1 0
      else sinPiV (s != neg) y e

/-- tanh x for x = m × 2^e > 0: x less a little below 2^-40, 1 less a little from 16 up, else (E − 1) / (E + 1) with E = e^(2x). -/
def tanhV (s : Bool) (m : Nat) (e : Int) : FVal :=
  let top := (Nat.log2 m : Int) + e
  if 4 ≤ top then withSticky s (2 ^ 60 - 1) (-60) true
  else if top < -40 then withSticky s (m * 2 ^ 60 - 1) (e - 60) true
  else
    let x := 2 * ((m : Int) * 2 ^ (e + fxP).toNat)
    let n := x / fxLn2
    let ex := fxExp (x - n * fxLn2) * 2 ^ n.toNat
    fxVal s ((ex - fxOne) * fxOne / (ex + fxOne)) (-fxP)

/-- The results of R148: a value and the flags that do not come from its rounding; none for the canonical NaN. -/
structure FRes where
  val : FVal
  fl  : BitVec 5

def quiet0 (v : FVal) : FRes := ⟨v, 0⟩

def fDivR (a b : FVal) : FRes :=
  match a, b with
  | .nan, _ => quiet0 .nan
  | _, .nan => quiet0 .nan
  | .inf _, .inf _ => ⟨.nan, fNV⟩
  | .inf s, .fin t _ _ => quiet0 (.inf (s != t))
  | .fin s _ _, .inf t => quiet0 (.fin (s != t) 0 0)
  | .fin s m e, .fin t n f =>
    if n = 0 then (if m = 0 then ⟨.nan, fNV⟩ else ⟨.inf (s != t), fDZ⟩)
    else if m = 0 then quiet0 (.fin (s != t) 0 0)
    else quiet0 (fvQuot (s != t) m e n f)

def fSqrtR : FVal → FRes
  | .nan => quiet0 .nan
  | .inf s => if s then ⟨.nan, fNV⟩ else quiet0 (.inf false)
  | .fin s m e => if m = 0 then quiet0 (.fin s 0 0) else if s then ⟨.nan, fNV⟩ else quiet0 (fvSqrt m e)

def fRcpR (a : FVal) : FRes := fDivR (.fin false 1 0) a

/-- 1 / √a: the root of the reciprocal, whose sticky bit lies far below the root's last bit. An exact reciprocal root is a power of
two: m is a power of two with an even exponent. -/
def fRsqR : FVal → FRes
  | .nan => quiet0 .nan
  | .inf s => if s then ⟨.nan, fNV⟩ else quiet0 (.fin false 0 0)
  | .fin s m e =>
    if m = 0 then ⟨.inf s, fDZ⟩
    else if s then ⟨.nan, fNV⟩
    else
      let (m, e) := if e % 2 = 0 then (m, e) else (2 * m, e - 1)
      let n := 2 ^ 256
      let r := isqrt (n / m)
      quiet0 (withSticky false r (-(e / 2) - 128) (decide (r * r * m ≠ n)))

def fEx2R : FVal → FRes
  | .nan => quiet0 .nan
  | .inf s => quiet0 (if s then .fin false 0 0 else .inf false)
  | .fin s m e =>
    if m = 0 then quiet0 (.fin false 1 0)
    else if 0 ≤ e ∨ m % 2 ^ (-e).toNat = 0 then
      let n : Nat := if 0 ≤ e then m * 2 ^ (min e 20).toNat else m / 2 ^ (-e).toNat
      quiet0 (.fin false 1 (if s then -(min n 4096 : Nat) else (min n 4096 : Nat)))
    else quiet0 (exp2V s m e)

def fLg2R : FVal → FRes
  | .nan => quiet0 .nan
  | .inf s => if s then ⟨.nan, fNV⟩ else quiet0 (.inf false)
  | .fin s m e =>
    if m = 0 then ⟨.inf true, fDZ⟩
    else if s then ⟨.nan, fNV⟩
    else if m = 2 ^ Nat.log2 m then quiet0 (ofInt ((Nat.log2 m : Int) + e))
    else quiet0 (log2V m e)

def fSinCosR (cos : Bool) : FVal → FRes
  | .nan => quiet0 .nan
  | .inf _ => ⟨.nan, fNV⟩
  | .fin s m e => if m = 0 then quiet0 (if cos then .fin false 1 0 else .fin s 0 0) else quiet0 (sinCosPi cos s m e)

def fTanhR : FVal → FRes
  | .nan => quiet0 .nan
  | .inf s => quiet0 (.fin s 1 0)
  | .fin s m e => if m = 0 then quiet0 (.fin s 0 0) else quiet0 (tanhV s m e)

/-- The rounded result of a function, always RNE (R98). -/
def FRes.word (r : FRes) : Word × BitVec 5 := let (x, fl) := roundF .rne r.val; (x, fl ||| r.fl)

end Sys2Proof.Machine
end

