-- ==== Sys2Proof/Machine/FloatOps.lean ====
section
/-!
DEFINITION. Floating-point, conversion, packed, scale and poison instructions (R141 to R152, R155, R156, R160).
-/

namespace Sys2Proof.Machine

/-! ## Shapes of a float result (R143, R144) -/

/-- A float result of the values of A, or the poisoned one. -/
def float1 (d a : BitVec 6) (f : FVal → Word × BitVec 5) (c : Ctx) : Res :=
  let x := c.read a
  if x.psn then c.ret d poisonFloat true
  else let (r, fl) := f (decF x.val); (c.ret d r false).flags fl

/-- A float result of the words A and B. -/
def float2 (d a b : BitVec 6) (f : Word → Word → Word × BitVec 5) (c : Ctx) : Res :=
  let x := c.read a
  let y := c.read b
  if x.psn || y.psn then c.ret d poisonFloat true
  else let (r, fl) := f x.val y.val; (c.ret d r false).flags fl

/-- A float result of the words D, A and B. -/
def float3 (d a b : BitVec 6) (f : Word → Word → Word → Word × BitVec 5) (c : Ctx) : Res :=
  let z := c.read d
  let x := c.read a
  let y := c.read b
  if z.psn || x.psn || y.psn then c.ret d poisonFloat true
  else let (r, fl) := f z.val x.val y.val; (c.ret d r false).flags fl

/-! ## FP32 arithmetic (R144 to R147) -/

def execFadd (d a b : BitVec 6) (s : State) : Out :=
  simt (.fadd d a b) (fun c => float2 d a b (fun x y => f32Result c.mode c.sat (fvAdd c.mode (decF x) (decF y))) c) s
def execFsub (d a b : BitVec 6) (s : State) : Out :=
  simt (.fsub d a b) (fun c => float2 d a b (fun x y => f32Result c.mode c.sat (fvAdd c.mode (decF x) (decF y).neg)) c) s
def execFmul (d a b : BitVec 6) (s : State) : Out :=
  simt (.fmul d a b) (fun c => float2 d a b (fun x y => f32Result c.mode c.sat (fvMul (decF x) (decF y))) c) s
def execFfma (d a b : BitVec 6) (s : State) : Out :=
  simt (.ffma d a b) (fun c => float3 d a b (fun z x y => f32Result c.mode c.sat (fvFma c.mode (decF z) (decF x) (decF y))) c) s

/-- The exponent of FSCALE, held to ±600: beyond that every finite value overflows, or rounds as any value below half the least
subnormal does, so the result is the same. -/
def scaleBy (b : Word) : Int := max (-600) (min 600 b.toInt)

def execFscale (d a b : BitVec 6) (s : State) : Out :=
  simt (.fscale d a b) (fun c => float2 d a b (fun x y => f32Result c.mode c.sat ((decF x).scale (scaleBy y), false)) c) s

def execFmin (d a b : BitVec 6) (s : State) : Out := simt (.fmin d a b) (float2 d a b fun x y => (fMinMax false x y, 0)) s
def execFmax (d a b : BitVec 6) (s : State) : Out := simt (.fmax d a b) (float2 d a b fun x y => (fMinMax true x y, 0)) s

/-- A change of the sign bit; a NaN leaves as the canonical one (R145). -/
def signOp (f : Word → Word) (x : Word) : Word := if (decF x).isNan then poisonFloat else f x

/-- A float result of the word A, with no flag. -/
def word1 (d a : BitVec 6) (f : Word → Word) (c : Ctx) : Res :=
  let x := c.read a
  if x.psn then c.ret d poisonFloat true else c.ret d (f x.val) false

def execFabs (d a : BitVec 6) (s : State) : Out := simt (.fabs d a) (word1 d a (signOp fun x => x &&& 0x7FFFFFFF)) s
def execFneg (d a : BitVec 6) (s : State) : Out := simt (.fneg d a) (word1 d a (signOp fun x => x ^^^ 0x80000000)) s

def execFcmp (p : BitVec 2) (c : BitVec 4) (a b : BitVec 6) (s : State) : Out :=
  simt (.fcmp p c a b) (fun x => cmpBody p (x.read a) (x.read b) (fun u v => fcond c.toNat (decF u) (decF v)) x) s

/-- The class bit of R147. -/
def fclassWord (x : Word) : Word :=
  let e := (x.extractLsb' 23 8).toNat
  let f := (x.extractLsb' 0 23).toNat
  let neg := x.msb
  let bit : Nat :=
    if e = 255 then (if f ≠ 0 then 8 else if neg then 0 else 7)
    else if e = 0 then (if f = 0 then (if neg then 3 else 4) else if neg then 2 else 5)
    else if neg then 1 else 6
  1#32 <<< bit

def execFclass (d a : BitVec 6) (s : State) : Out := simt (.fclass d a) (word1 d a fclassWord) s

/-! ## Correctly rounded functions (R148) -/

def execFdiv (d a b : BitVec 6) (s : State) : Out := simt (.fdiv d a b) (float2 d a b fun x y => (fDivR (decF x) (decF y)).word) s
def execFsqrt (d a : BitVec 6) (s : State) : Out := simt (.fsqrt d a) (float1 d a fun x => (fSqrtR x).word) s
def execFrcp (d a : BitVec 6) (s : State) : Out := simt (.frcp d a) (float1 d a fun x => (fRcpR x).word) s
def execFrsq (d a : BitVec 6) (s : State) : Out := simt (.frsq d a) (float1 d a fun x => (fRsqR x).word) s
def execFex2 (d a : BitVec 6) (s : State) : Out := simt (.fex2 d a) (float1 d a fun x => (fEx2R x).word) s
def execFlg2 (d a : BitVec 6) (s : State) : Out := simt (.flg2 d a) (float1 d a fun x => (fLg2R x).word) s
def execFsinp (d a : BitVec 6) (s : State) : Out := simt (.fsinp d a) (float1 d a fun x => (fSinCosR false x).word) s
def execFcosp (d a : BitVec 6) (s : State) : Out := simt (.fcosp d a) (float1 d a fun x => (fSinCosR true x).word) s
def execFtanh (d a : BitVec 6) (s : State) : Out := simt (.ftanh d a) (float1 d a fun x => (fTanhR x).word) s

/-! ## Conversions (R149, R150) -/

/-- A rounded to an integral value; a zero result keeps the sign of A (R149). -/
def frndWord (md : Mode) (x : FVal) : Word × BitVec 5 :=
  match x with
  | .fin s m e =>
    let (n, inexact) := toInt md s m e
    ((roundF .rne (.fin s n.natAbs 0)).1, if inexact then fNX else 0)
  | y => roundF .rne y

def execFrnd (d a : BitVec 6) (s : State) : Out := simt (.frnd d a) (fun c => float1 d a (frndWord c.mode) c) s

/-- F2I: the ends of the range are those of the type (R97, R149). -/
def f2iBody (d a : BitVec 6) (t : BitVec 1) (c : Ctx) : Res :=
  let x := c.read a
  if x.psn then c.ret d poisonInt true
  else
    let (lo, hi) : Int × Int := if t = 0 then (-2 ^ 31, 2 ^ 31 - 1) else (0, 2 ^ 32 - 1)
    let (n, fl) := cvtInt c.mode lo hi (decF x.val)
    (c.ret d (wordOfInt n) false).flags fl

def execF2i (d a : BitVec 6) (t : BitVec 1) (s : State) : Out := simt (.f2i d a t) (f2iBody d a t) s

/-- I2F. -/
def i2fBody (d a : BitVec 6) (t : BitVec 1) (c : Ctx) : Res :=
  let x := c.read a
  if x.psn then c.ret d poisonFloat true
  else let (r, fl) := roundF c.mode (ofInt (typed t x.val)); (c.ret d r false).flags fl

def execI2f (d a : BitVec 6) (t : BitVec 1) (s : State) : Out := simt (.i2f d a t) (i2fBody d a t) s

/-- FCVTO: the code of the narrow format, zero-extended (R96, R150). -/
def fcvtoWord (f : BitVec 6) (md : Mode) (sat : Bool) (x : FVal) : Word × BitVec 5 :=
  let (n, fl) := (BFmt.ofSel f.toNat).enc md sat x
  (BitVec.ofNat 32 n, fl)

def execFcvto (d a f : BitVec 6) (s : State) : Out := simt (.fcvto d a f) (fun c => float1 d a (fcvtoWord f c.mode c.sat) c) s

/-- FCVTI: exact; the F8E4 code 0x80 writes the poisoned result (R150). -/
def fcvtiBody (d a f : BitVec 6) (c : Ctx) : Res :=
  let x := c.read a
  let fm := BFmt.ofSel f.toNat
  let n := x.val.toNat % 2 ^ fm.width
  if x.psn || (decide (fm = .f8e4) && decide (n = 0x80)) then c.ret d poisonFloat true
  else c.ret d (roundF .rne (fm.dec n)).1 false

def execFcvti (d a f : BitVec 6) (s : State) : Out := simt (.fcvti d a f) (fcvtiBody d a f) s

/-! ## Packed pairs (R151, R152) -/

def lo16 (x : Word) : Nat := x.toNat % 65536
def hi16 (x : Word) : Nat := x.toNat / 65536

/-- Two element results packed, with the flags of both. -/
def pack16 (lo hi : Nat × BitVec 5) : Word × BitVec 5 := (BitVec.ofNat 32 (hi.1 * 65536 + lo.1), lo.2 ||| hi.2)

def add2 (f : Fmt) (md : Mode) (sat : Bool) (x y : Word) : Word × BitVec 5 :=
  let g (u v : Nat) := f.result md sat (fvAdd md (f.dec u) (f.dec v))
  pack16 (g (lo16 x) (lo16 y)) (g (hi16 x) (hi16 y))
def mul2 (f : Fmt) (md : Mode) (sat : Bool) (x y : Word) : Word × BitVec 5 :=
  let g (u v : Nat) := f.result md sat (fvMul (f.dec u) (f.dec v))
  pack16 (g (lo16 x) (lo16 y)) (g (hi16 x) (hi16 y))
def fma2 (f : Fmt) (md : Mode) (sat : Bool) (z x y : Word) : Word × BitVec 5 :=
  let g (t u v : Nat) := f.result md sat (fvFma md (f.dec t) (f.dec u) (f.dec v))
  pack16 (g (lo16 z) (lo16 x) (lo16 y)) (g (hi16 z) (hi16 x) (hi16 y))

def execHadd2 (d a b : BitVec 6) (s : State) : Out := simt (.hadd2 d a b) (fun c => float2 d a b (add2 fp16 c.mode c.sat) c) s
def execHmul2 (d a b : BitVec 6) (s : State) : Out := simt (.hmul2 d a b) (fun c => float2 d a b (mul2 fp16 c.mode c.sat) c) s
def execHfma2 (d a b : BitVec 6) (s : State) : Out := simt (.hfma2 d a b) (fun c => float3 d a b (fma2 fp16 c.mode c.sat) c) s
def execBadd2 (d a b : BitVec 6) (s : State) : Out := simt (.badd2 d a b) (fun c => float2 d a b (add2 bf16 c.mode c.sat) c) s
def execBmul2 (d a b : BitVec 6) (s : State) : Out := simt (.bmul2 d a b) (fun c => float2 d a b (mul2 bf16 c.mode c.sat) c) s
def execBfma2 (d a b : BitVec 6) (s : State) : Out := simt (.bfma2 d a b) (fun c => float3 d a b (fma2 bf16 c.mode c.sat) c) s

/-- HDOT2: two rounded products, their rounded sum, and the rounded sum with D (R152). -/
def hdot2 (f : Fmt) (md : Mode) (sat : Bool) (z x y : Word) : Word × BitVec 5 :=
  let p (u v : Nat) := f32Result md false (fvMul (f.dec u) (f.dec v))
  let (p0, f0) := p (lo16 x) (lo16 y)
  let (p1, f1) := p (hi16 x) (hi16 y)
  let (t, f2) := f32Result md false (fvAdd md (decF p0) (decF p1))
  let (r, f3) := f32Result md sat (fvAdd md (decF z) (decF t))
  (r, f0 ||| f1 ||| f2 ||| f3)

def execHdot2F16 (d a b : BitVec 6) (s : State) : Out := simt (.hdot2F16 d a b) (fun c => float3 d a b (hdot2 fp16 c.mode c.sat) c) s
def execHdot2Bf16 (d a b : BitVec 6) (s : State) : Out := simt (.hdot2Bf16 d a b) (fun c => float3 d a b (hdot2 bf16 c.mode c.sat) c) s

/-! ## Computed scale (R155, R156) -/

/-- The registers of a block group that supply elements, for the threads of a bundle: (thread, element, register) (R155). -/
def groupRegs (w : Wave) (f a : BitVec 6) (ts : List Nat) : List (Nat × Nat × Reg) :=
  let e := (BFmt.ofSel f.toNat).count
  ts.flatMap fun t => (List.range (groupSize f)).filterMap fun j =>
    if t + 32 * j < e then some (t, t + 32 * j, readReg w (w.th t) (a.toNat + j)) else none

def tsclBody (d a f : BitVec 6) (c : Ctx) : Res :=
  let l := groupRegs c.w f a (c.group (.tscl d a f))
  if l.any (fun x => x.2.2.psn) then c.ret d poisonFloat true
  else c.ret d (wordOfInt (computedScale (BFmt.ofSel f.toNat) (l.map fun x => decF x.2.2.val))) false

def execTscl (d a f : BitVec 6) (s : State) : Out := simt (.tscl d a f) (tsclBody d a f) s

/-! ## Poison instructions (R160) -/

def execPsnq (d a : BitVec 6) (s : State) : Out := simt (.psnq d a) (fun c => c.ret d (if (c.read a).psn then 1 else 0) false) s
def execPsns (d a : BitVec 6) (s : State) : Out := simt (.psns d a) (fun c => c.ret d (c.read a).val true) s
def execPsnc (d a : BitVec 6) (s : State) : Out := simt (.psnc d a) (fun c => c.ret d (c.read a).val false) s

end Sys2Proof.Machine
end

