-- ==== Sys2Proof/Machine/Ready.lean ====
section
/-!
DEFINITION. When a thread is ready (R24): the classes of instructions that interlocks, releases and acquires hold (R172, R174, R217,
R233, R268), the limits of R166 and R233, the followed PC of a turn (R129), the lane arbiter (R337) and its buckets (R340).
-/

namespace Sys2Proof

/-! ## Classes of instructions -/

/-- A memory access of chapter 07, or a block access of chapter 06: it makes accesses of R166. -/
def Instr.access : Instr → Bool
  | .tld .. | .tldh .. | .tstw .. | .tste .. | .ldb .. | .ldh .. | .ldw .. | .ldd .. | .ldq .. | .stb .. | .sth .. | .stw ..
  | .std .. | .stq .. | .lda .. | .stl .. | .atadd .. | .atsub .. | .atmins .. | .atminz .. | .atmaxs .. | .atmaxz .. | .atand ..
  | .ator .. | .atxor .. | .atxch .. | .atinc .. | .atfadd .. | .atfmin .. | .atfmax .. | .atcas .. | .atcas64 .. | .waitm ..
  | .pref .. => true
  | _ => false

/-- An engine command (R233). -/
def Instr.engine : Instr → Bool
  | .cpy .. | .gath _ | .scat _ | .cpyw _ | .shdwBind .. | .shdwFree _ | .shdwGen .. | .publish .. | .coll .. | .mcast _
  | .launch .. => true
  | _ => false

/-- An operator instruction (R213). -/
def Instr.operator : Instr → Bool
  | .opinst .. | .opfree _ | .opswap _ | .opqry .. | .opfire .. | .opdrop .. | .opfence | .opgrant .. | .opwait .. | .opseq _ => true
  | _ => false

/-- The scope of an atomic, none for another instruction. -/
def Instr.atomScope : Instr → Option (BitVec 3)
  | .atadd _ _ _ _ c | .atsub _ _ _ _ c | .atmins _ _ _ _ c | .atminz _ _ _ _ c | .atmaxs _ _ _ _ c | .atmaxz _ _ _ _ c
  | .atand _ _ _ _ c | .ator _ _ _ _ c | .atxor _ _ _ _ c | .atxch _ _ _ _ c | .atinc _ _ _ _ c => some c
  | .atfadd _ _ _ c | .atfmin _ _ _ c | .atfmax _ _ _ c | .atcas _ _ _ c | .atcas64 _ _ _ c => some c
  | _ => none

/-- An instruction that waits for the release condition in its threads before it acts (R172, R174, R180, R184, R218, R233, R258). -/
def Instr.releases (i : Instr) : Bool :=
  match i with
  | .stl .. | .fenceFull _ | .fenceRel _ | .bar .. | .bara .. | .rput _ | .rfree _ | .opseq _ | .tfence _ => true
  | _ => i.engine || (match i.atomScope with | some c => c != 0 | none => false)

/-- An instruction that a thread with accesses in the operand log does not issue (R268), and that a pending acquire holds (R172).
ACKQ is not among them: it does not wait (R188). -/
def Instr.held (i : Instr) : Bool :=
  match i with
  | .fenceFull _ | .fenceAcq _ | .fenceRel _ | .lds .. | .sts .. | .bar .. | .bara .. | .barw _ | .rget .. | .rput _ | .rfree _
  | .rtake .. | .invl1 | .waitf _ | .tfence _ => true
  | _ => i.access || i.operator || i.engine

/-- An instruction that issues once for its bundle although it is not uniform (R62). -/
def Instr.once : Instr → Bool
  | .bra _ | .call _ | .ret | .exit | .yield | .rgn | .jset _ | .join _ | .jdrop _ | .vgrow _ | .vshrink _ | .fenceFull _
  | .fenceAcq _ | .fenceRel _ | .invl1 | .opfence | .himm _ | .hcls .. | .hmod .. | .hintReservedF6 .. | .hintReservedF8 .. => true
  | .brp p _ _ => p == 0
  | .calli a => decide (48 ≤ a.toNat)
  | _ => false

/-- An instruction that acts once for its bundle after a wait of every thread of it (R184, R218). -/
def Instr.gathers : Instr → Bool | .rput _ | .rfree _ | .opseq _ => true | _ => false

/-- An access, a scratch access or a window operation, which an acquire of its thread that has not acted yet holds (R172); OPFENCE waits for no
load (R217). -/
def Instr.afterAcquire (i : Instr) : Bool :=
  match i with
  | .opfence | .waitf _ => false
  | _ => i.held || i.releases

/-- A hint word: S is ignored in it (R59). -/
def Instr.hint : Instr → Bool
  | .himm _ | .hcls .. | .hmod .. | .hintReservedF6 .. | .hintReservedF8 .. => true
  | _ => false

/-- The issue cycles an instruction of n active threads occupies its lane for (R62, R73, R140, R162). -/
def Instr.cycles (i : Instr) (n : Nat) : Nat :=
  if i.uniform || i.once then 1
  else
    match i with
    | .imadw .. => 2 * n
    | .idiv .. | .irem .. | .fdiv .. | .fsqrt .. | .frcp .. | .frsq .. | .fex2 .. | .flg2 .. | .fsinp .. | .fcosp .. | .ftanh .. => 4 * n
    | _ => n

end Sys2Proof

namespace Sys2Proof.Machine

/-! ## Interlocks (R24, R166, R172, R233, R268) -/

/-- Thread t has a load outstanding. -/
def State.loadsOut (s : State) (wid t : Nat) : Bool := s.accs.any fun a => a.isLoad && a.ofThread wid t

/-- The release condition of R172; scratch stores are performed as they issue (R175). -/
def State.released (s : State) (w : Wave) (t : Nat) : Bool := (w.arch t).stores == 0 && !s.loadsOut w.id t

/-- An acquire of thread t has not acted yet: an LDA whose data are on their way, or an atomic with .rt that acquires (R172, R178). -/
def State.acquiring (s : State) (wid t : Nat) : Bool :=
  s.accs.any fun a => a.ofThread wid t && (match a.kind with | .lda _ => true | .atomic _ rt sc => rt && sc != 0 | _ => false)

/-- A place is free for what an instruction posts (R166, R233, R249). -/
def State.room (s : State) (w : Wave) (t : Nat) (i : Instr) : Bool :=
  let copies (e : Engine) := decide ((s.cmds.filter fun c => c.eng == e).length < 256)
  let copy := match w.loc with | .lane cl _ _ => copies (.copy cl) | _ => copies .sysCopy
  match i with
  | .cpy .. | .gath _ | .scat _ | .cpyw _ => copy
  | .coll .. | .mcast _ => decide ((s.cmds.filter fun c => c.eng == Engine.coll).length < 1024)
  | .launch _ _ b =>
    let q := ((readReg w (w.th t) b.toNat).val.toNat) % 16
    decide ((s.launches.filter fun l => l.vd == w.agentVd && l.queue == q && !l.dispatched).length +
      (s.cmds.filter fun c => c.vd == w.agentVd && c.op == CmdOp.launch q).length < 64)
  | _ => !i.access || s.accRoom w.coreNo

/-- No interlock, release or acquire holds thread t at an instruction. A thread with accesses in the operand log issues a held one in
so far as it blocks there (R268). -/
def State.clear (s : State) (w : Wave) (t : Nat) (i : Instr) : Bool :=
  if i.held && s.hasLogged w.id t then true
  else
    !s.awaited w t i && (!i.releases || s.released w t) && (!i.afterAcquire || !s.acquiring w.id t) && s.room w t i &&
    (match i with
     | .fenceAcq _ => !s.loadsOut w.id t
     | .opfence => (w.arch t).stores == 0
     | _ => true)

/-- The instruction a thread stands at, as far as it can be read ahead of its issue. -/
def State.at (s : State) (w : Wave) (pc : DWord) : Option Instr :=
  match s.peek w pc with
  | some x => (match decodeWord x with | .ok i => some i | .error _ => none)
  | none => none

/-- Thread t can issue what it stands at, `i` (R24). In a fumarole episode nothing holds a running thread (R284). -/
def State.ready (s : State) (w : Wave) (t : Nat) (i : Option Instr) : Bool :=
  let th := w.th t
  match th.cond with
  | .run =>
    if w.episode.isSome then !(w.marks t).stop
    else th.clause.mask &&& th.flagMask == 0 && (match i with | some i => s.clear w t i | none => true)
  | _ => false

/-! ## The PC a turn follows (R129) -/

/-- The wave can issue at all: it is on a lane or a Vent hardware thread and is not stopped. -/
def Wave.resident (w : Wave) : Bool := !w.halted && !w.trapsTaken && (match w.saveReq with | some r => r.kind.isNone | none => true) && (match w.loc with | .saved _ | .gone => false | _ => true)

/-- The threads of a wave that stand ready at a PC. RPUT, RFREE and OPSEQ wait for every thread of their bundle. -/
def State.readyAt (s : State) (w : Wave) (pc : DWord) : BitVec 32 :=
  let i := s.at w pc
  let m := maskOf fun t => match w.threads[t]? with | some th => th.pc == pc && s.ready w t i | none => false
  match i with
  | some j =>
    if j.gathers then
      (if m = maskOf fun t => match w.threads[t]? with | some th => th.pc == pc && s.ready w t none | none => false then m else 0)
    else m
  | none => m

/-- The live PCs with their leaders, by leader. -/
def Wave.leaders (w : Wave) : List (Nat × DWord) :=
  (List.range w.threads.length).foldl (fun l t =>
    match (w.th t).cond with
    | .exited => l
    | _ => if l.any (fun x => x.2 == (w.th t).pc) then l else l ++ [(t, (w.th t).pc)]) []

/-- What a wave would issue: the PC, the bundle, and whether its turn goes on; a new turn starts at the next live PC by leader. -/
structure Pick where
  wave  : Wave
  pc    : DWord
  mask  : BitVec 32
  cont  : Bool
  tier1 : Bool
  leader : Nat

def State.fresh? (s : State) (w : Wave) : Option Pick :=
  let l : List (Nat × DWord × BitVec 32) := w.leaders.filterMap fun x => let m := s.readyAt w x.2; if m = 0 then none else some (x.1, x.2, m)
  let next : Option (Nat × DWord × BitVec 32) := match w.lastLeader with | some n => l.find? fun x => decide (n < x.1) | none => none
  (next <|> l.head?).map fun x => ⟨w, x.2.1, x.2.2, false, false, x.1⟩

/-- The issue a wave offers. A prefix binds its bundle to its target (R71). -/
def State.offer (s : State) (w : Wave) : Option Pick :=
  if !w.resident then none
  else
    match w.pfx with
    | some p =>
      let pc := (w.th (lowest p.mask)).pc
      let m := s.readyAt w pc
      if p.mask &&& ~~~m = 0 then some ⟨w, pc, p.mask, true, (match w.turn with | some tn => tn.tier1 | none => false), lowest p.mask⟩ else none
    | none =>
      match w.turn with
      | some tn =>
        let m := s.readyAt w tn.pc
        if m = 0 ∨ tn.left = 0 then s.fresh? w else some ⟨w, tn.pc, m, true, tn.tier1, lowest m⟩
      | none => s.fresh? w

/-! ## Arbiters (R337, R340) -/

/-- The arbiter a wave issues through: class and instance. -/
def Wave.arbiter (w : Wave) : Nat × Nat :=
  match w.loc with | .lane cl core lane => (0, (4 * cl + core) * 16 + lane) | .vent proc _ => (5, proc) | .saved _ | .gone => (0, 8192)

/-- A wave on a lane is served in tier 1: its VD holds a token at the arbiter, or owns the cluster (R337, R345). -/
def State.isTier1 (s : State) (w : Wave) : Bool :=
  match w.loc with
  | .lane cl _ _ => (s.cluster cl).owner == some w.vd || decide (1024 ≤ s.level w.arbiter.1 w.arbiter.2 w.agentVd)
  | _ => false

/-- The one that has waited longest for a turn; the older wave on a tie (R337). -/
def longest : List Pick → Option Pick
  | [] => none
  | p :: t =>
    match longest t with
    | none => some p
    | some q =>
      if q.wave.waitSince < p.wave.waitSince ∨ (q.wave.waitSince = p.wave.waitSince ∧ q.wave.age < p.wave.age) then some q else some p

/-- The issue an arbiter chooses among what its waves offer (R337), with the pointer of tier 2 where it moved. Class 5 arbitrates the call records of a Vent
processor (R344); its hardware threads take turns, the one that has waited longest first (DESIGN CHOICE, log 3). -/
def State.choose (s : State) (arb : Nat × Nat) (ps : List Pick) : Option (Pick × Option (Nat × Nat)) :=
  let anew : Option (Pick × Option (Nat × Nat)) :=
    if arb.1 = 5 then (longest ps).bind fun p => (s.fresh? p.wave).map fun q => (q, none) else
    match longest (ps.filter fun p => s.isTier1 p.wave) with
    | some p => ((s.fresh? p.wave).map fun q => ({ q with tier1 := true }, none))
    | none =>
      match s.tier2 arb (ps.map fun p => p.wave.agentVd) with
      | some (v, left) => (longest (ps.filter fun p => p.wave.agentVd == v)).bind fun p => (s.fresh? p.wave).map fun q => (q, some (v, left))
      | none => none
  match ps.find? fun p => p.cont with
  | none => anew
  | some p =>
    if !p.tier1 && ps.any (fun q => q.wave.id != p.wave.id && s.isTier1 q.wave) then anew
    else if p.tier1 && !s.isTier1 p.wave && ps.any (fun q => q.wave.id != p.wave.id) then anew
    else some (p, none)

/-- The arbiters with a resident wave, in the order of the waves. -/
def State.arbiters (s : State) : List (Nat × Nat) := ((s.waves.filter fun w => w.resident).map Wave.arbiter).eraseDups

/-- What an arbiter issues next. A lane waits for a VSHRINK of one of its waves (R137), and between a prefix and its target for the target (R71). -/
def State.issueAt (s : State) (arb : Nat × Nat) : Option (Pick × Option (Nat × Nat)) :=
  let ws := s.waves.filter fun w => w.arbiter == arb && w.resident
  if ws.any fun w => w.vshr != 0 then none
  else
    match ws.find? fun w => w.pfx.isSome with
    | some w => (s.offer w).map fun p => (p, none)
    | none => s.choose arb (ws.filterMap s.offer)

end Sys2Proof.Machine
end

