-- ==== Sys2Proof/Machine/Sync.lean ====
section
/-!
DEFINITION. Fences, block barriers, stage rings, and the waits of chapter 07 that hold no access (R172, R174, R180 to R184, R186 to
R188). The releases and waits of R172 are interlocks: a thread is not ready before they are met (Sys2Proof/Machine/Ready.lean).
-/

namespace Sys2Proof.Machine

/-! ## Fences (R172, R174, R186) -/

/-- The threads of the bundle go on. -/
def State.pass (s : State) : State := s.advance s.issue.wave s.issue.mask

/-- The core of the wave in progress. -/
def State.issueCore (s : State) : Nat := match s.wave? s.issue.wave with | some w => w.coreNo | none => 1024

/-- A fence whose release condition is met: its acquire actions, and the bundle goes on. -/
def fence (i : Instr) (acq : Bool) (c : BitVec 3) (s : State) : Out :=
  skipAhead i (fun s w => (if acq then s.acquire w.coreNo c.toNat else s).pass) s

def execFenceFull (c : BitVec 3) (s : State) : Out := fence (.fenceFull c) true c s
def execFenceAcq (c : BitVec 3) (s : State) : Out := fence (.fenceAcq c) true c s
def execFenceRel (c : BitVec 3) (s : State) : Out := fence (.fenceRel c) false c s
def execInvl1 (s : State) : Out := skipAhead .invl1 (fun s w => (s.invalidate w.coreNo).pass) s

/-- ACKQ: the store counter at issue (R188). -/
def execAckq (d : BitVec 6) (s : State) : Out := simt (.ackq d) (fun c => c.ret d (BitVec.ofNat 32 c.th.stores) false) s

/-- WAITF: a thread whose masked flags are clear goes on; another blocks, and issues again when they are (R187). It acts in each active thread, a poisoned A
in each of them too, where A is a k register and R21 has a uniform instruction run once (DESIGN CHOICE, log 8). -/
def State.waitf (s : State) (w : Wave) (a : BitVec 6) (t : Nat) : State :=
  let x := readReg w (w.th t) a.toNat
  if x.psn then s.raise w.id t .poison 0 1 s.issue.repPc 0
  else
    let m : BitVec 12 := x.val.extractLsb' 0 12
    if (w.th t).flagMask &&& m = 0 then s.advance w.id (1#32 <<< t) else s.blockAt w.id (1#32 <<< t) s.issue.repPc (.waitf m)

def execWaitf (a : BitVec 6) (s : State) : Out := skipAhead (.waitf a) (fun s w => (tids s.issue.mask).foldl (fun s t => s.waitf w a t) s) s

/-! ## Block barriers (R180, R181) -/

/-- The waves of a block. -/
def State.wavesOf (s : State) (b : Nat) : List Wave := s.waves.filter fun w => w.block == b

def Block.bar (b : Block) (n : Nat) : Bar := b.bars[n]?.getD ⟨0, 0, 0, false, 0⟩

/-- The waves that share the barriers of a wave: those of its block, or a Vent thread alone (R293). -/
def State.mates (s : State) (w : Wave) : List Wave := if w.isVent then (s.wave? w.id).toList else s.wavesOf w.block

/-- Barrier n of a wave's block, or of a Vent thread. -/
def State.barAt (s : State) (w : Wave) (n : Nat) : Bar :=
  if w.isVent then ((s.wave? w.id).bind fun v => v.vbars[n]?).getD ⟨0, 0, 0, false, 0⟩
  else match s.block? w.block with | some b => b.bar n | none => ⟨0, 0, 0, false, 0⟩

def State.putBar (s : State) (w : Wave) (n : Nat) (x : Bar) : State :=
  if w.isVent then s.mapWave w.id fun v => { v with vbars := v.vbars.set n x } else s.mapBlock w.block fun b => { b with bars := b.bars.set n x }

/-- A barrier's expected count as it stands. -/
def State.expected (s : State) (w : Wave) (x : Bar) : Nat :=
  if x.all then (s.mates w).foldl (fun n v => n + (v.threads.filter fun th => match th.cond with | .exited => false | _ => true).length) 0 else x.expect

/-- Threads blocked on a phase of a barrier become ready after their BAR or BARW. -/
def Wave.barWake (w : Wave) (n : Nat) (phase : Word) (now : Nat) : Wave :=
  w.mapArchAll fun th =>
    match th.cond with
    | .blocked (.bar m p) => if m.toNat = n ∧ p = phase then { th.wakeNext now with limit := 0 } else th
    | _ => th

/-- The phase completes when the arrivals reach the expected count: the phase number rises, the count returns to 0, and its waiters
wake. A phase without an arrival does not complete. -/
def State.barCheck (s : State) (w : Wave) (n : Nat) : State :=
  let x := s.barAt w n
  if x.count = 0 ∨ x.count < s.expected w x then s
  else
    let s := s.putBar w n { x with phase := x.phase + 1, count := 0, all := false, expect := 0, limit := 0 }
    (s.mates w).foldl (fun s v => s.onWave v.id fun v => v.barWake n x.phase s.cycle) s

/-- Every barrier of a wave's block whose expected count is that of its live threads, evaluated again at an EXIT. -/
def State.barsCheck (s : State) (w : Wave) : State :=
  (List.range 16).foldl (fun s n => if (s.barAt w n).all then s.barCheck w n else s) s

/-- One arrival of a thread: the first of a phase sets the expected count and starts the watchdog. -/
def State.arrive (s : State) (w : Wave) (n : BitVec 4) (t count : Nat) (all : Bool) : State :=
  let x := s.barAt w n.toNat
  let x := if x.count = 0 then
      { x with expect := count, all := all, limit := match (s.vd w.vd).ctl.barto.toNat with | 0 => 0 | l => s.cycle + 4000 * l }
    else x
  (s.putBar w n.toNat { x with count := x.count + 1 }).mapWave w.id fun w =>
    w.mapTh t fun th => { th with barPhase := th.barPhase.setIfInBounds n.toNat (some x.phase) }

/-- BAR and BARA: every active thread arrives, or traps where its count is poisoned, with a k count too (DESIGN CHOICE, log 8), and then blocks or goes on; the phase completes once, at the arrival of the bundle, if the count has been
reached or passed, and its waiters wake. -/
def arriveAll (i : Instr) (wait : Bool) (a : BitVec 6) (n : BitVec 4) (s : State) : Out :=
  skipAhead i (fun s w =>
    let psn (t : Nat) : Bool := (readReg w (w.th t) a.toNat).psn
    ((tids s.issue.mask).foldl (fun s t =>
      let m := 1#32 <<< t
      if psn t then s.raise w.id t .poison 0 1 s.issue.repPc 0
      else
        let s := s.arrive w n t (readReg w (w.th t) a.toNat).val.toNat (a == 63)
        if wait then s.blockAt w.id m s.issue.pc (.bar n (s.barAt w n.toNat).phase) else s.advance w.id m) s).barCheck w n.toNat) s

def execBar (a : BitVec 6) (n : BitVec 4) (s : State) : Out := arriveAll (.bar a n) true a n s
def execBara (a : BitVec 6) (n : BitVec 4) (s : State) : Out := arriveAll (.bara a n) false a n s

/-- BARW: a thread blocks until the phase of its last arrival has completed. -/
def execBarw (n : BitVec 4) (s : State) : Out :=
  skipAhead (.barw n) (fun s w =>
    let now := (s.barAt w n.toNat).phase
    (tids s.issue.mask).foldl (fun s t =>
      match ((w.th t).barPhase[n.toNat]?).getD none with
      | some p => if p = now then s.blockAt w.id (1#32 <<< t) s.issue.pc (.bar n p) else s.advance w.id (1#32 <<< t)
      | none => s.advance w.id (1#32 <<< t)) s) s

/-- A thread waits on a phase of a barrier longer than the watchdog allows: the phase's, or, once its wave has been saved and restored
meanwhile, its own (R181, R280). -/
def barOver (x : Bar) (n now : Nat) (th : Thread) : Bool :=
  match th.cond with
  | .blocked (.bar k p) =>
    k.toNat == n && p == x.phase && (if th.limit = 0 then x.limit != 0 && decide (x.limit ≤ now) else decide (th.limit ≤ now))
  | _ => false

/-- BARTO_EXPIRY (R181; n: block, or with `ok` a Vent thread's wave; m: barrier): every thread blocked on the phase is trapped with BARDL, at its first prefix (R71), but those of saved
waves, whose time stands still (R280). A trapped thread counts as not having arrived by its BAR: its record of the phase goes, and the count
stays. The watchdog of a phase fires once: a thread that blocks on the phase after that is not trapped by it (DESIGN CHOICE, log 66). -/
def execBartoExpiry (s : State) : Out :=
  let ws := s.waves.filter fun w => if s.ev.ok then w.isVent && w.id == s.ev.n else !w.isVent && w.block == s.ev.n && w.lane?.isSome
  match ws with
  | [] => .next s
  | w :: _ =>
    let n := s.ev.m
    let x := s.barAt w n
    let ids := ws.flatMap fun w => (List.range w.threads.length).filterMap fun t => if barOver x n s.cycle (w.arch t) then some (w.id, t, (w.arch t).rep) else none
    let s := if x.limit ≠ 0 ∧ x.limit ≤ s.cycle then s.putBar w n { x with limit := 0 } else s
    .next (ids.foldl (fun s y =>
      (s.raiseNow y.1 y.2.1 .bardl 0 (BitVec.ofNat 32 n) y.2.2 0).mapWave y.1 fun w => w.mapTh y.2.1 fun th =>
        { th with limit := 0, barPhase := th.barPhase.setIfInBounds n none }) s)

/-! ## Stage rings (R182 to R184) -/

/-- An index advanced: past the last slot it returns to 0 and its phase flips. -/
def RIdx.next (x : RIdx) (n : Nat) : RIdx := if x.i + 1 = n then ⟨0, !x.ph⟩ else ⟨x.i + 1, x.ph⟩

/-- What a ring operation does: the ring after it and the offset it gives, a wait, or a break of the index rules. -/
inductive RingRes where
  | ok (r : Ring) (off : Nat)
  | wait
  | bad
deriving DecidableEq, Repr

def Ring.get (r : Ring) : RingRes :=
  if r.free = 0 then .wait else .ok { r with free := r.free - 1, g := r.g.next r.n } (r.o + r.g.i * r.b)
def Ring.put (r : Ring) : RingRes := if r.u = r.g then .bad else .ok { r with filled := r.filled + 1, u := r.u.next r.n } 0
def Ring.take (r : Ring) : RingRes :=
  if r.filled = 0 then .wait else .ok { r with filled := r.filled - 1, k := r.k.next r.n } (r.o + r.k.i * r.b)
def Ring.release (r : Ring) : RingRes := if r.e = r.k then .bad else .ok { r with free := r.free + 1, e := r.e.next r.n } 0

def State.ring? (s : State) (b : Nat) (r : Nat) : Option Ring := (s.block? b).bind fun blk => blk.rings[r]?
def State.setRing (s : State) (b r : Nat) (x : Ring) : State := s.mapBlock b fun blk => { blk with rings := blk.rings.set r x }

/-- The least of a list by a number. -/
def leastBy {α : Type} (f : α → Nat) : List α → Option α
  | [] => none
  | x :: t => match leastBy f t with | some y => if f y < f x then some y else some x | none => some x

/-- A thread waits on the filled or the free side of a ring. -/
def Wake.onRing (r : Nat) (fill : Bool) : Wake → Bool
  | .rtake q _ => fill && q.toNat == r
  | .rget q _ => !fill && q.toNat == r
  | _ => false

/-- The register a thread gets its slot in. -/
def Thread.slotReg (th : Thread) : Option (BitVec 6) := match th.cond with | .blocked (.rget _ d) | .blocked (.rtake _ d) => d | _ => none

/-- The bundle that blocked first on one side of a ring, as (since, wave, mask). -/
def State.ringFirst (s : State) (b r : Nat) (fill : Bool) : Option (Nat × Nat × BitVec 32) :=
  leastBy (fun x => x.1) <| (s.wavesOf b).flatMap fun w =>
    let ths := match w.episode with | some e => e.threads | none => w.threads
    let hit (th : Thread) : Bool := match th.cond with | .blocked x => x.onRing r fill | _ => false
    let times := ((ths.filter hit).map (·.since)).eraseDups
    times.map fun n => (n, w.id, maskOf fun t => match ths[t]? with | some th => hit th && th.since == n | none => false)

/-- The sequencer of a block that waits for a slot of a ring: its entry, and since when (R229). -/
def Block.ringWaiter (b : Block) (r : Nat) : Option SeqEntry :=
  match b.seq with
  | none => none
  | some q => q.win.find? fun e =>
      e.issued && e.prog != 0 && (match decodeWord e.word with | .ok (.tring ..) => decide (e.qb.toNat % 8 = r) && !e.qb.getLsbD 8 | _ => false)

/-- The q register written by the entry of a sequencer that took a slot, and the entry retired. -/
def Seq.takeSlot (q : Seq) (e : SeqEntry) (off : Nat) : Seq :=
  let qa := match decodeWord e.word with | .ok (.tring _ _ x _) => x.toNat | _ => 32
  { q with q := q.q.setIfInBounds qa (BitVec.ofNat 64 (2 ^ 62 + off)), win := q.win.filter fun x => x.no != e.no }

/-- A slot given to a waiting bundle: D in every thread of it, which goes on. Threads whose wake word the operating system has written, so that no
register is known, issue again, and the slot stays in the ring. -/
def State.giveSlot (s : State) (wid b r : Nat) (m : BitVec 32) (x : Ring) (off : Nat) : State :=
  match s.wave? wid with
  | none => s
  | some w =>
    match (w.arch (lowest m)).slotReg with
    | some d =>
      (s.setRing b r x).onWave wid fun w =>
        ((tids m).foldl (fun w t => w.deliver t d.toNat ⟨BitVec.ofNat 32 off, false⟩) w).mapArch m fun th => th.wakeNext s.cycle
    | none => s.onWave wid fun w => w.mapArch m fun th => th.wakeAgain s.cycle

/-- The first that waits on the filled side of a ring takes a slot, or on the free side gets one, while one is available (R183). A sequencer's
wait began in the cycle before the one its entry holds (R229). -/
def State.ringWake (s : State) (b r : Nat) (fill : Bool) : State :=
  match s.ring? b r, s.block? b with
  | some x, some blk =>
    let res := if fill then x.take else x.get
    match res with
    | .ok x' off =>
      let toSeq (e : SeqEntry) : State := (s.setRing b r x').mapBlock b fun blk => { blk with seq := blk.seq.map fun q => q.takeSlot e off }
      (match s.ringFirst b r fill, (if fill then blk.ringWaiter r else none) with
       | some (n, wid, m), some e => if e.prog ≤ n then toSeq e else s.giveSlot wid b r m x' off
       | some (_, wid, m), none => s.giveSlot wid b r m x' off
       | none, some e => toSeq e
       | none, none => s)
    | _ => s
  | _, _ => s

/-- A misuse of a ring: PROT with the ring (R183, R265), in the lowest thread of a uniform instruction, else in every thread (R21, log 8). -/
def State.ringTrap (s : State) (w : Wave) (i : Instr) (r : BitVec 3) : State :=
  s.each i fun s t => s.trapFor w i t .prot 0 (r.zeroExtend 32) 0

/-- RGET and RTAKE: the slot offset to D in every active thread, or the bundle blocks in order (R183). -/
def ringGet (i : Instr) (d : BitVec 6) (r : BitVec 3) (fill : Bool) (s : State) : Out :=
  skipAhead i (fun s w =>
    match s.ring? w.block r.toNat with
    | none => s.ringTrap w i r
    | some x =>
      match (if fill then x.take else x.get) with
      | .ok x' off => (s.setRing w.block r.toNat x').simt i fun c => c.ret d (BitVec.ofNat 32 off) false
      | _ => s.blockAt w.id s.issue.mask s.issue.pc (if fill then .rtake r (some d) else .rget r (some d))) s

/-- RPUT and RFREE: the oldest slot is filled or freed, and the first that waits for it has it (R183). -/
def ringPut (i : Instr) (r : BitVec 3) (fill : Bool) (s : State) : Out :=
  skipAhead i (fun s w =>
    match s.ring? w.block r.toNat with
    | none => s.ringTrap w i r
    | some x =>
      match (if fill then x.put else x.release) with
      | .ok x' _ => ((s.setRing w.block r.toNat x').pass).ringWake w.block r.toNat fill
      | _ => s.ringTrap w i r) s

def execRget (d : BitVec 6) (r : BitVec 3) (s : State) : Out := ringGet (.rget d r) d r false s
def execRtake (d : BitVec 6) (r : BitVec 3) (s : State) : Out := ringGet (.rtake d r) d r true s
def execRput (r : BitVec 3) (s : State) : Out := ringPut (.rput r) r true s
def execRfree (r : BitVec 3) (s : State) : Out := ringPut (.rfree r) r false s

end Sys2Proof.Machine
end

