-- ==== Sys2Proof/Machine/MemInstr.lean ====
section
/-!
DEFINITION. Loads, stores, scratch accesses, atomics, watches, prefetches and block accesses (R153, R154, R157, R158, R163 to R178,
R185). Each access starts through State.begin; what it does at its home stands in Sys2Proof/Machine/MemEvents.lean.
-/

namespace Sys2Proof.Machine

/-! ## Shared parts -/

/-- The entry of the operand log that an instruction of a wave would take: the lowest free one (R267). -/
def State.logEntry (s : State) (w : Wave) : Option Nat := w.lane?.bind s.freeEntry

/-- The lowest poisoned operand of a thread among those that a list names as (position, poisoned) (R265). -/
def firstPoison : List (Nat × Bool) → Option Nat
  | [] => none
  | (n, p) :: t => if p then some n else firstPoison t

/-- The word group of n registers from f, low word first, and whether one is poisoned. -/
def groupVal (w : Wave) (th : Thread) (f : Nat) : Nat → Nat × Bool
  | 0 => (0, false)
  | n + 1 =>
    let x := readReg w th f
    let (v, p) := groupVal w th (f + 1) n
    (x.val.toNat + 2 ^ 32 * v, x.psn || p)

/-- The address pair of a thread. -/
def pairAt (w : Wave) (th : Thread) (a : BitVec 6) : DWord × Bool :=
  let lo := readReg w th a.toNat
  let hi := readReg w th (a.toNat + 1)
  (pairValue lo.val hi.val, lo.psn || hi.psn)

/-- The address X := A:A+1 + Imm × size (R163). -/
def memAddr (base : DWord) (h : Option (BitVec 22)) (o : BitVec 8) (size : Nat) : DWord := base + BitVec.ofInt 64 (immS h o * size)

/-- POISON in thread t, with the position of the operand. -/
def State.poisonTrap (s : State) (w : Wave) (i : Instr) (t pos : Nat) : State := s.trapFor w i t .poison 0 (BitVec.ofNat 32 pos) 0

/-- The threads an instruction with destination D performs accesses for: a k destination is loaded for the lowest only (R165). -/
def State.loadThreads (s : State) (i : Instr) (d : BitVec 6) : List Nat :=
  if i.uniform || decide (48 ≤ d.toNat) then [lowest s.issue.mask] else tids s.issue.mask

/-- The threads of the bundle that a load with a k destination performs nothing for: they go on. -/
def State.passOthers (s : State) (w : Wave) (i : Instr) (d : BitVec 6) : State :=
  if !i.uniform && decide (48 ≤ d.toNat) then s.advance w.id (s.issue.mask &&& ~~~(1#32 <<< lowest s.issue.mask)) else s

/-- The flags that the bundle's clauses select, one for each thread (R75). -/
def State.bundleFlags (s : State) (w : Wave) : List (Nat × Nat) :=
  (tids s.issue.mask).filterMap fun u => let f := (w.th u).flagOf s.issue.s; if f < 12 then some (u, f) else none

/-! ## Loads (R153, R154, R168, R173) -/

/-- The skip of a load in an episode; threads that found no place for their prefetch stay (R166). -/
def State.skipLate (s : State) (w : Wave) (i : Instr) (late : BitVec 32) : State :=
  let s' := s.mapWave w.id fun w => w.mapMask late fun th => { th with pc := s.issue.repPc }
  { State.skip { s' with issue := { s.issue with mask := s.issue.mask &&& ~~~late } } i with issue := s.issue }

/-- A load in an episode: prefetches of its valid addresses (R161, R189). A valid operand that is poisoned ends the episode. -/
def State.loadAhead (s : State) (w : Wave) (i : Instr) (d a : BitVec 6) (size : Nat) (idx : Bool) (addr : DWord → DWord) : State :=
  let ts := s.loadThreads i d
  let psn (t : Nat) : Bool :=
    (!(w.invalid t a.toNat || w.invalid t (a.toNat + 1)) && (pairAt w (w.th t) a).2) || (idx && !w.invalid t d.toNat && (readReg w (w.th t) d.toNat).psn)
  if ts.any psn then s.mapWave w.id Wave.endEpisode
  else
    let (s, late) := ts.foldl (fun (x : State × BitVec 32) t =>
      if x.1.accRoom w.coreNo then (x.1.aheadLoad w i t a (addr (pairAt w (w.th t) a).1) size, x.2) else (x.1, x.2 ||| s.actsFor i t)) (s, 0)
    match s.wave? w.id with
    | some x => if x.episode.isSome then s.skipLate w i late else s
    | none => s

/-- A load of every thread: `addr` forms the address from the base, `kind` the access of a thread; D receives n registers. In an episode
it is a prefetch (R189). `idx` tells whether D is also an operand (TLD). -/
def loadInstr (i : Instr) (d a : BitVec 6) (size n : Nat) (idx : Bool) (addr : DWord → DWord) (kind : Wave → Nat → AccKind) (plain : Bool)
    (s : State) : Out :=
  match s.wave? s.issue.wave with
  | none => .next s
  | some w =>
    if w.episode.isSome then .next (s.loadAhead w i d a size idx addr)
    else
      let e := s.logEntry w
      let since := s.nextId
      let q := s.bundleWho w (addr (pairAt w (w.th (lowest s.issue.mask)) a).1)
      let s := (s.loadThreads i d).foldl (fun s t =>
        let (base, pb) := pairAt w (w.th t) a
        match firstPoison [(0, idx && (readReg w (w.th t) d.toNat).psn), (1, pb)] with
        | some pos => s.poisonTrap w i t pos
        | none =>
          let acc := s.newAccess w i t (kind w t) (addr base) size
          s.begin q w { acc with dst := d.toNat, nreg := n, cp := if plain then acc.cp else 0,
                                 flags := if decide (48 ≤ d.toNat) then s.bundleFlags w else acc.flags } e since) s
      .next ((s.sendAll since).passOthers w i d)

/-- LDB to LDQ. -/
def plainLoad (i : Instr) (d a : BitVec 6) (o : BitVec 8) (size n : Nat) (s : State) : Out :=
  loadInstr i d a size n false (fun b => memAddr b s.issue.himm o size) (fun _ _ => .load) true s

def execLdb (d a : BitVec 6) (o : BitVec 8) (s : State) : Out := plainLoad (.ldb d a o) d a o 1 1 s
def execLdh (d a : BitVec 6) (o : BitVec 8) (s : State) : Out := plainLoad (.ldh d a o) d a o 2 1 s
def execLdw (d a : BitVec 6) (o : BitVec 8) (s : State) : Out := plainLoad (.ldw d a o) d a o 4 1 s
def execLdd (d a : BitVec 6) (o : BitVec 8) (s : State) : Out := plainLoad (.ldd d a o) d a o 8 2 s
def execLdq (d a : BitVec 6) (o : BitVec 8) (s : State) : Out := plainLoad (.ldq d a o) d a o 16 4 s

/-- Bytes of a width code 0, 1 or 2 of LDA and STL (R67). -/
def widthBytes (w : BitVec 2) : Nat := 4 * 2 ^ w.toNat

/-- LDA: the acquire actions of its scope, then a load at the home; they act again when the data arrive (R173, R294). -/
def execLda (d a : BitVec 6) (w : BitVec 2) (c : BitVec 3) (s : State) : Out :=
  let ahead := match s.wave? s.issue.wave with | some x => x.episode.isSome | none => true
  let s := if ahead then s else s.acquire s.issueCore c.toNat
  loadInstr (.lda d a w c) d a (widthBytes w) (widthBytes w / 4) false (fun b => b) (fun _ _ => .lda c.toNat) false s

/-- The rounding mode in force for thread t, as two bits (R141). -/
def Wave.modeBits (w : Wave) (is : Issue) (t : Nat) : BitVec 2 :=
  match modeOf is.rnd (w.th t).fpstat with | .rne => 0 | .rtz => 1 | .rup => 2 | .rdn => 3

def execTld (d a : BitVec 6) (o : BitVec 8) (s : State) : Out :=
  loadInstr (.tld d a o) d a 64 1 true (fun b => memAddr b s.issue.himm o 64)
    (fun w t => .tld (readReg w (w.th t) d.toNat).val.toNat (w.modeBits s.issue t) (s.issue.sat == 1)) true s

def execTldh (d a : BitVec 6) (o : BitVec 8) (s : State) : Out :=
  loadInstr (.tldh d a o) d a 64 1 false (fun b => memAddr b s.issue.himm o 64) (fun _ _ => .tldh) true s

/-- PREF: nothing is written (R185). -/
def execPref (a : BitVec 6) (o : BitVec 8) (s : State) : Out :=
  loadInstr (.pref a o) 0 a 64 0 false (fun b => memAddr b s.issue.himm o 64) (fun _ _ => .pref) true s

/-! ## Stores (R168, R173, R158) -/

/-- A store of every thread: the poison of the operands, then the access (R163). `ops` gives the operands in order of position. -/
def storeInstr (i : Instr) (a : BitVec 6) (size : Nat) (addr : DWord → DWord) (ops : Wave → Thread → List (Nat × Bool))
    (acc : Wave → Nat → Access → Access) (s : State) : Out :=
  skipAhead i (fun s w =>
    let e := s.logEntry w
    let since := s.nextId
    let q := s.bundleWho w (addr (pairAt w (w.th (lowest s.issue.mask)) a).1)
    (s.each i fun s t =>
      let th := w.th t
      let (base, _) := pairAt w th a
      match firstPoison (ops w th) with
      | some pos => s.poisonTrap w i t pos
      | none => s.begin q w (acc w t (s.newAccess w i t .store (addr base) size)) e since).sendAll since) s

/-- The operands of a store of n registers at D through the pair at A. -/
def storeOps (d a : BitVec 6) (n : Nat) (w : Wave) (th : Thread) : List (Nat × Bool) :=
  [(0, (groupVal w th d.toNat n).2), (1, (pairAt w th a).2)]

/-- The datum of n registers at D. -/
def datum (d : BitVec 6) (n size : Nat) (w : Wave) (t : Nat) (x : Access) : Access :=
  { x with data := BitVec.ofNat 512 ((groupVal w (w.th t) d.toNat n).1 % 2 ^ (8 * size)) }

/-- STB to STQ. -/
def plainStore (i : Instr) (d a : BitVec 6) (o : BitVec 8) (size n : Nat) (s : State) : Out :=
  storeInstr i a size (fun b => memAddr b s.issue.himm o size) (storeOps d a n) (datum d n size) s

def execStb (d a : BitVec 6) (o : BitVec 8) (s : State) : Out := plainStore (.stb d a o) d a o 1 1 s
def execSth (d a : BitVec 6) (o : BitVec 8) (s : State) : Out := plainStore (.sth d a o) d a o 2 1 s
def execStw (d a : BitVec 6) (o : BitVec 8) (s : State) : Out := plainStore (.stw d a o) d a o 4 1 s
def execStd (d a : BitVec 6) (o : BitVec 8) (s : State) : Out := plainStore (.std d a o) d a o 8 2 s
def execStq (d a : BitVec 6) (o : BitVec 8) (s : State) : Out := plainStore (.stq d a o) d a o 16 4 s

def execStl (d a : BitVec 6) (w : BitVec 2) (c : BitVec 3) (s : State) : Out :=
  let n := widthBytes w / 4
  storeInstr (.stl d a w c) a (widthBytes w) (fun b => b) (storeOps d a n) (fun v t x => { datum d n (widthBytes w) v t x with cp := 0 }) s

/-- TSTE: the value of D for element B of the block (R158). -/
def execTste (d a b : BitVec 6) (s : State) : Out :=
  storeInstr (.tste d a b) a 64 (fun x => x)
    (fun w th => [(0, (readReg w th d.toNat).psn), (1, (pairAt w th a).2), (2, (readReg w th b.toNat).psn)])
    (fun w t x => { datum d 1 4 w t x with kind := .tste (readReg w (w.th t) b.toNat).val.toNat (w.modeBits s.issue t) (s.issue.sat == 1) }) s

/-! ## Cooperative block stores (R155, R157) -/

/-- The block that the threads of C store, with the FPSTAT bits of each thread: elements at t + 32j, zero elsewhere. -/
def tstwBlock (f : BitVec 6) (m : BitVec 2) (w : Wave) (d : BitVec 6) (is : Issue) (c : List Nat) : List Byte × List (Nat × BitVec 5) :=
  let fm := BFmt.ofSel f.toNat
  let regs := groupRegs w f d c
  let val (r : Reg) : FVal := if m = 2 then ofInt r.val.toInt else decF r.val
  let sc : Int := if m = 0 then computedScale fm (regs.map fun x => val x.2.2) else 0
  let md (t : Nat) : Mode := modeOf is.rnd (w.th t).fpstat
  let coded := regs.map fun (t, e, r) => (t, e, fm.enc (md t) (is.sat == 1) ((val r).scale (-sc)))
  (blkBuild fm sc fun e => match coded.find? fun x => x.2.1 == e with | some x => x.2.2.1 | none => fm.zeroCode,
    c.map fun t => (t, coded.foldl (fun b x => if x.1 = t then b ||| x.2.2.2 else b) 0))

/-- TSTW for the threads that name one address: those with a poisoned value trap; the others store one block, which each of them counts
and has its flag set by, and whose fault they share. The FPSTAT bits are set as the access is issued, when the block is formed, whether it then performs
or waits in the operand log (log 19). -/
def State.tstwAt (s : State) (i : Instr) (q : Who) (w : Wave) (d f : BitVec 6) (m : BitVec 2) (va : DWord) (ts : List Nat) (e : Option Nat)
    (since : Nat) : State :=
  let bad (t : Nat) : Bool := (groupRegs w f d [t]).any fun x => x.2.2.psn
  let s := (ts.filter bad).foldl (fun s t => s.poisonTrap w i t 0) s
  let c := ts.filter fun t => !bad t
  match c with
  | [] => s
  | t :: _ =>
    let (bs, fl) := tstwBlock f m w d s.issue c
    let mask := if i.uniform then s.issue.mask else maskOf fun u => c.contains u
    let acc := s.newAccess w i t .store va 64
    let s' := s.begin q w { acc with mask := mask, tmask := maskOf fun u => c.contains u, data := BitVec.ofNat 512 (leVal bs),
                                     flags := (s.bundleFlags w).filter fun x => mask.getLsbD x.1,
                                     group := c.map fun u => (u, BitVec.ofNat 128 (groupVal w (w.th u) d.toNat (groupSize f)).1) } e since
    if (s'.acc? acc.id).isSome then
      s'.mapWave w.id fun w => fl.foldl (fun w x => if i.uniform then w.mapMask mask (fun th => th.setFp x.2) else w.mapTh x.1 fun th => th.setFp x.2) w
    else s'

/-- The distinct addresses of a list of (thread, address), in order, with the threads that name them. -/
def byAddress : List (Nat × DWord) → List (DWord × List Nat)
  | [] => []
  | (t, x) :: rest =>
    let l := byAddress rest
    match l.find? fun y => y.1 == x with
    | some y => (x, t :: y.2) :: l.filter fun z => z.1 != x
    | none => (x, [t]) :: l

def execTstw (d a f : BitVec 6) (m : BitVec 2) (s : State) : Out :=
  let i : Instr := .tstw d a f m
  skipAhead i (fun s w =>
    let ts := if i.uniform then [lowest s.issue.mask] else tids s.issue.mask
    let e := s.logEntry w
    let psn (t : Nat) : Bool := (pairAt w (w.th t) a).2
    let va (t : Nat) : DWord := (pairAt w (w.th t) a).1
    let s := (ts.filter psn).foldl (fun s t => s.poisonTrap w i t 1) s
    let rest := ts.filter fun t => !psn t
    let mis (t : Nat) : Bool := (va t).toNat % 64 != 0
    let s := (rest.filter mis).foldl (fun s t => s.trapFor w i t .align 0 (lowWord (va t)) (va t)) s
    let since := s.nextId
    let q := s.bundleWho w (va (lowest s.issue.mask))
    ((byAddress ((rest.filter fun t => !mis t).map fun t => (t, va t))).foldl (fun s x => s.tstwAt i q w d f m x.1 x.2 e since) s).sendAll since) s

/-! ## Scratch (R51, R175) -/

/-- Bytes of a scratch width code. -/
def scratchBytes (w : BitVec 3) : Nat := 2 ^ w.toNat

/-- The scratch offset of a thread, or the trap it raises. -/
def scratchAddr (ssize : Nat) (x : Reg) (datumPsn : Bool) (n : Nat) (off : Int) : Nat ⊕ Res :=
  match firstPoison [(0, datumPsn), (1, x.psn)] with
  | some pos => .inr (trapPoison pos)
  | none =>
    let y := (x.val + wordOfInt (off * n)).toNat
    if y % n ≠ 0 then .inr (.trap .align 0 (BitVec.ofNat 32 y) (BitVec.ofNat 64 y))
    else if ssize < y + n then .inr (.trap .prot 0 (BitVec.ofNat 32 y) (BitVec.ofNat 64 y))
    else .inl y

/-- n bytes of scratch from an offset. -/
def scratchGet (m : List Host.Cell) (a n : Nat) : List Byte := (List.range n).map fun i => sget 0 m (a + i)

/-- Bytes stored in scratch. -/
def scratchPut (m : List Host.Cell) (a : Nat) : List Byte → List Host.Cell
  | [] => m
  | b :: t => scratchPut (sput 0 m a b) (a + 1) t

/-- Bytes stored in a block's scratch; a word written whole is no longer under an error (R309). -/
def Block.putScratch (b : Block) (a : Nat) (bs : List Byte) : Block :=
  { b with scratch := scratchPut b.scratch a bs, smarks := b.smarks.filter fun x => !(decide (a ≤ 4 * x) && decide (4 * x + 4 ≤ a + bs.length)) }

/-- The scratchpad allocation of a wave's block. -/
def State.scratchOf (s : State) (w : Wave) : List Host.Cell := match s.block? w.block with | some b => b.scratch | none => []

/-- The word of a wave's scratch at an offset is under an uncorrectable error. -/
def State.scratchStruck (s : State) (w : Wave) (o : Nat) : Bool := match s.block? w.block with | some b => b.smarks.contains (o / 4) | none => false

/-- The registers that an LDS at an offset gives: the bytes, poison clear, and a word under an error as R111 has it. -/
def State.ldsRegs (s : State) (w : Wave) (wd : BitVec 3) (y : Nat) : List Reg :=
  let bs := scratchGet (s.scratchOf w) y (scratchBytes wd)
  (List.range (scratchRegs wd)).map fun j => if s.scratchStruck w (y + 4 * j) then ⟨poisonFloat, true⟩ else ⟨BitVec.ofNat 32 (field bs (4 * j) 4), false⟩

/-- LDS of a thread. A k destination is loaded for the lowest thread only. -/
def ldsBody (d a : BitVec 6) (w : BitVec 3) (o : BitVec 5) (c : Ctx) : Res :=
  if decide (48 ≤ d.toNat) && c.t != lowest c.is.mask then c.next
  else if c.w.episode.isSome && c.w.readsInvalid (.lds d a w o) c.t then c.next
  else
    match scratchAddr (c.s.ssize c.w) (c.read a) false (scratchBytes w) (immS c.is.himm o) with
    | .inr r => r
    | .inl y =>
      let rs := c.s.ldsRegs c.w w y
      (List.range (scratchRegs w)).foldl (fun r j => r.write (d.toNat + j) (rs[j]?.getD Reg.zero)) c.next

/-- The threads of an LDS that receive a word under an error, which sets ERRSTAT.PL in each of them (R28, R111). -/
def State.struckLoads (s : State) (v : Wave) (i : Instr) (d a : BitVec 6) (w : BitVec 3) (o : BitVec 5) : BitVec 32 :=
  let lo := lowest s.issue.mask
  maskOf fun t => s.issue.mask.getLsbD t && v.episode.isNone && (decide (d.toNat < 48) || i.uniform || decide (t = lo)) &&
    match scratchAddr (s.ssize v) (readReg v (v.th (if i.uniform then lo else t)) a.toNat) false (scratchBytes w) (immS s.issue.himm o) with
    | .inl y => (s.ldsRegs v w y).any (·.psn)
    | .inr _ => false

def execLds (d a : BitVec 6) (w : BitVec 3) (o : BitVec 5) (s : State) : Out :=
  let i : Instr := .lds d a w o
  let t := s.simt i (ldsBody d a w o)
  .next (match s.wave? s.issue.wave with
    | some v => let hit := s.struckLoads v i d a w o; if hit = 0 then t else t.mapWave v.id fun v => v.mapMask hit fun th => th.setErr ePL
    | none => t)

/-- STS of a thread. -/
def State.sts (s : State) (i : Instr) (w : Wave) (d a : BitVec 6) (n : Nat) (off : Int) (t : Nat) : State :=
  let (v, p) := groupVal w (w.th t) d.toNat ((n + 3) / 4)
  match scratchAddr (s.ssize w) (readReg w (w.th t) a.toNat) p n off with
  | .inr (.trap cls r info addr) => s.trapFor w i t cls r info addr
  | .inr _ => s
  | .inl y => (s.mapBlock w.block fun b => b.putScratch y (leBytes n v)).advance w.id (s.actsFor i t)

def execSts (d a : BitVec 6) (w : BitVec 3) (o : BitVec 5) (s : State) : Out :=
  let i : Instr := .sts d a w o
  skipAhead i (fun s v => s.each i fun s t => s.sts i v d a (scratchBytes w) (immS s.issue.himm o) t) s

/-! ## Atomics (R176 to R178) and WAITM (R179) -/

/-- An atomic of every thread: n operand registers at D, `size` bytes wide; with .rt the old value goes to D, for a k register from
the lowest thread only. -/
def atomicInstr (i : Instr) (op : AtOp) (d a : BitVec 6) (size n : Nat) (rt : Bool) (c : BitVec 3) (s : State) : Out :=
  let lo := lowest s.issue.mask
  storeInstr i a size (fun b => b) (storeOps d a n)
    (fun w t x =>
      let (v, _) := groupVal w (w.th t) d.toNat n
      let wr := rt && (decide (d.toNat < 48) || t == lo)
      { x with kind := .atomic op rt c.toNat, data := BitVec.ofNat 512 (v % 2 ^ (8 * size)), cmp := BitVec.ofNat 64 (v / 2 ^ (8 * size)), cp := 0,
               dst := d.toNat, nreg := if wr then size / 4 else 0 }) s

/-- An integer atomic with the width bit. -/
def intAtomic (i : Instr) (op : AtOp) (d a : BitVec 6) (r x : BitVec 1) (c : BitVec 3) (s : State) : Out :=
  if x = 1 then atomicInstr i op d a 8 2 (r == 1) c s else atomicInstr i op d a 4 1 (r == 1) c s

def execAtadd (d a : BitVec 6) (r x : BitVec 1) (c : BitVec 3) (s : State) : Out := intAtomic (.atadd d a r x c) .add d a r x c s
def execAtsub (d a : BitVec 6) (r x : BitVec 1) (c : BitVec 3) (s : State) : Out := intAtomic (.atsub d a r x c) .sub d a r x c s
def execAtmins (d a : BitVec 6) (r x : BitVec 1) (c : BitVec 3) (s : State) : Out := intAtomic (.atmins d a r x c) .mins d a r x c s
def execAtminz (d a : BitVec 6) (r x : BitVec 1) (c : BitVec 3) (s : State) : Out := intAtomic (.atminz d a r x c) .minz d a r x c s
def execAtmaxs (d a : BitVec 6) (r x : BitVec 1) (c : BitVec 3) (s : State) : Out := intAtomic (.atmaxs d a r x c) .maxs d a r x c s
def execAtmaxz (d a : BitVec 6) (r x : BitVec 1) (c : BitVec 3) (s : State) : Out := intAtomic (.atmaxz d a r x c) .maxz d a r x c s
def execAtand (d a : BitVec 6) (r x : BitVec 1) (c : BitVec 3) (s : State) : Out := intAtomic (.atand d a r x c) .and d a r x c s
def execAtor (d a : BitVec 6) (r x : BitVec 1) (c : BitVec 3) (s : State) : Out := intAtomic (.ator d a r x c) .or d a r x c s
def execAtxor (d a : BitVec 6) (r x : BitVec 1) (c : BitVec 3) (s : State) : Out := intAtomic (.atxor d a r x c) .xor d a r x c s
def execAtxch (d a : BitVec 6) (r x : BitVec 1) (c : BitVec 3) (s : State) : Out := intAtomic (.atxch d a r x c) .xch d a r x c s
def execAtinc (d a : BitVec 6) (r x : BitVec 1) (c : BitVec 3) (s : State) : Out := intAtomic (.atinc d a r x c) .inc d a r x c s
def execAtfadd (d a : BitVec 6) (r : BitVec 1) (c : BitVec 3) (s : State) : Out := atomicInstr (.atfadd d a r c) .fadd d a 4 1 (r == 1) c s
def execAtfmin (d a : BitVec 6) (r : BitVec 1) (c : BitVec 3) (s : State) : Out := atomicInstr (.atfmin d a r c) .fmin d a 4 1 (r == 1) c s
def execAtfmax (d a : BitVec 6) (r : BitVec 1) (c : BitVec 3) (s : State) : Out := atomicInstr (.atfmax d a r c) .fmax d a 4 1 (r == 1) c s
def execAtcas (d a : BitVec 6) (r : BitVec 1) (c : BitVec 3) (s : State) : Out := atomicInstr (.atcas d a r c) .cas d a 4 2 (r == 1) c s
def execAtcas64 (d a : BitVec 6) (r : BitVec 1) (c : BitVec 3) (s : State) : Out := atomicInstr (.atcas64 d a r c) .cas d a 8 4 (r == 1) c s

/-- WAITM: each thread blocks until the word at its address satisfies the condition; D may be k15 to discard it. -/
def execWaitm (d a b : BitVec 6) (c : BitVec 2) (s : State) : Out :=
  let lo := lowest s.issue.mask
  storeInstr (.waitm d a b c) a 4 (fun x => x) (fun w th => [(1, (pairAt w th a).2), (2, (readReg w th b.toNat).psn)])
    (fun w t x => { x with kind := .watch c.toNat, cmp := (readReg w (w.th t) b.toNat).val.zeroExtend 64, cp := 0, dst := d.toNat,
                           nreg := if decide (d.toNat < 48) || t == lo then 1 else 0, flags := [] }) s

end Sys2Proof.Machine
end

