-- ==== Sys2Proof/Machine/Control.lean ====
section
/-!
DEFINITION. Control transfer, rejoin masks, regions, register growth, hints and prefixes (R69 to R76, R126 to R139).
-/

namespace Sys2Proof.Machine

/-! ## Control transfer (R26, R126) -/

/-- The target an offset in words gives from the word's own address. -/
def Ctx.target (c : Ctx) (o : Int) : DWord := c.is.pc + BitVec.ofInt 64 (4 * o)

/-- The thread goes to an address. -/
def Ctx.goto (c : Ctx) (pc : DWord) : Res := .done { c.th with pc := pc } [] 0 false

/-- A transfer to an address a register or LNK gives: ALIGN where its low two bits are not zero (R26). -/
def Ctx.transfer (c : Ctx) (pc : DWord) (link : Bool) : Res :=
  if pc.extractLsb' 0 2 ≠ 0#2 then .trap .align 0 (lowWord pc) pc
  else .done { c.th with pc := pc, lnk := if link then c.is.pc + 4 else c.th.lnk } [] 0 false

/-- JMPI and CALLI: a poisoned target raises POISON. -/
def jumpTo (a : BitVec 6) (link : Bool) (c : Ctx) : Res :=
  let (pc, p) := c.pair a
  if p then trapPoison 1 else c.transfer pc link

def execBra (o : BitVec 20) (s : State) : Out := simt (.bra o) (fun c => c.goto (c.target (immS c.is.himm o))) s

/-- BRP: in an episode an invalid predicate falls through (R139). -/
def brpBody (p : BitVec 2) (n : BitVec 1) (o : BitVec 17) (c : Ctx) : Res :=
  if !predMark (c.w.marks c.t) p && (c.th.pred p != (n == 1)) then c.goto (c.target (immS c.is.himm o)) else c.next

def execBrp (p : BitVec 2) (n : BitVec 1) (o : BitVec 17) (s : State) : Out := simt (.brp p n o) (brpBody p n o) s
def execCall (o : BitVec 20) (s : State) : Out :=
  simt (.call o) (fun c => .done { c.th with pc := c.target (immS c.is.himm o), lnk := c.is.pc + 4 } [] 0 false) s

/-- A transfer whose target an episode does not know ends it (R139). -/
def jumpAhead (i : Instr) (body : Ctx → Res) (s : State) : Out :=
  match s.wave? s.issue.wave with
  | none => .next s
  | some w =>
    if w.episode.isSome && (tids s.issue.mask).any (fun t => w.readsInvalid i t || (match i with | .ret => (w.marks t).lnk | _ => false)) then
      .next (s.mapWave w.id Wave.endEpisode)
    else simt i body s

def execJmpi (a : BitVec 6) (s : State) : Out := jumpAhead (.jmpi a) (jumpTo a false) s
def execCalli (a : BitVec 6) (s : State) : Out := jumpAhead (.calli a) (jumpTo a true) s
def execRet (s : State) : Out := jumpAhead .ret (fun c => c.transfer c.th.lnk false) s

/-! ## Rejoin masks (R132 to R135) -/

def Wave.mask (w : Wave) (j : Nat) : BitVec 32 := w.j[j]?.getD 0
def Wave.setMask (w : Wave) (j : Nat) (m : BitVec 32) : Wave := { w with j := w.j.setIfInBounds j m }

/-- The threads that wait in JOIN j. -/
def Wave.waiting (w : Wave) (j : Nat) : BitVec 32 :=
  let ths := match w.episode with | some e => e.threads | none => w.threads
  maskOf fun t => match ths[t]? with | some th => (match th.cond with | .blocked (.join k) => k.toNat == j | _ => false) | none => false

/-- Every member of a mask has arrived. -/
def Wave.arrived (w : Wave) (j : Nat) : Bool := w.mask j != 0 && w.mask j &&& ~~~(w.waiting j) == 0

/-- A mask evaluated: its release is due when every member has arrived (R133). -/
def State.evalMask (s : State) (wid j : Nat) : State :=
  match s.wave? wid with
  | some w => if w.arrived j then s.due [{ row := .joinRelease, n := wid, m := j }] else s
  | none => s

/-- JSET: the mask becomes the PC group of the bundle unless every active thread is a member; a thread that waits in JOIN outside the
new mask is released. -/
def Wave.jset (w : Wave) (j : Nat) (is : Issue) (now : Nat) : Wave :=
  let w' := w.mapMask is.mask fun th => { th with pc := is.pc + 4 }
  if is.mask &&& ~~~(w.mask j) = 0 then w'
  else
    let m := w.maskBy fun th => th.pc == is.pc && (match th.cond with | .exited => false | _ => true)
    (w'.mapMask (w.waiting j &&& ~~~m) fun th => { th.wakeNext now with limit := 0 }).setMask j m

def execJset (j : BitVec 3) (s : State) : Out :=
  skipAhead (.jset j) (fun s w => (s.mapWave w.id fun w => w.jset j.toNat s.issue s.cycle).evalMask w.id j.toNat) s

/-- JOIN: members arrive and block, with the watchdog of JOINTO; the others pass. -/
def Wave.join (w : Wave) (j : BitVec 3) (is : Issue) (now jointo : Nat) : Wave :=
  let mem := w.mask j.toNat
  let w := w.mapMask (is.mask &&& ~~~mem) fun th => { th with pc := is.pc + 4 }
  w.mapMask (is.mask &&& mem) fun th =>
    { th.block (.join j) now with pc := is.pc, rep := is.repPc, limit := if jointo = 0 then 0 else now + 4000 * jointo }

def execJoin (j : BitVec 3) (s : State) : Out :=
  skipAhead (.join j) (fun s w =>
    (s.mapWave w.id fun w => w.join j s.issue s.cycle (s.vd w.vd).ctl.jointo.toNat).evalMask w.id j.toNat) s

def execJdrop (j : BitVec 3) (s : State) : Out :=
  skipAhead (.jdrop j) (fun s w =>
    ((s.pass).mapWave w.id fun w => w.setMask j.toNat (w.mask j.toNat &&& ~~~s.issue.mask)).evalMask w.id j.toNat) s

/-- JOIN_RELEASE (R133, R134; n: wave, m: mask): when every member has arrived and meets the release condition, the members go on at
the instruction after the JOIN together, and the mask becomes empty. -/
def execJoinRelease (s : State) : Out :=
  match s.wave? s.ev.n with
  | none => .next s
  | some w =>
    let j := s.ev.m
    if w.arrived j && (tids (w.mask j)).all (s.released w) then
      .next (s.onWave w.id fun w =>
        (w.mapArch (w.mask j) fun th => { th.wakeNext s.cycle with limit := 0 }).setMask j 0)
    else .next s

/-- JOINTO_EXPIRY (R135; n: wave, m: thread): a thread that has waited in one JOIN for longer than JOINTO is trapped with JTO, at its first prefix (R71). -/
def execJointoExpiry (s : State) : Out :=
  match s.wave? s.ev.n with
  | none => .next s
  | some w =>
    let th := w.arch s.ev.m
    match th.cond with
    | .blocked (.join j) =>
      if !w.resident ∨ th.limit = 0 ∨ s.cycle < th.limit then .next s
      else .next (s.raiseNow w.id s.ev.m .jto 0 (j.zeroExtend 32) th.rep 0)
    | _ => .next s

/-! ## EXIT (R128) -/

/-- The threads of a bundle exit and leave every rejoin mask. -/
def Wave.exit (w : Wave) (m : BitVec 32) (now : Nat) : Wave :=
  { w.mapMask m (fun th => { th with cond := .exited, since := now }) with j := w.j.map fun x => x &&& ~~~m }

/-- The masks an EXIT may have completed: those the threads were members of. -/
def State.evalMasks (s : State) (w : Wave) (m : BitVec 32) : State :=
  (List.range 8).foldl (fun s j => if w.mask j &&& m ≠ 0 then s.evalMask w.id j else s) s

/-- EXIT; in an episode the threads stop running ahead and stay. -/
def execExit (s : State) : Out :=
  match s.wave? s.issue.wave with
  | none => .next s
  | some w =>
    let m := s.issue.mask
    match w.episode with
    | some e =>
      .next (s.mapWave w.id fun w =>
        { w with episode := some { e with marks := mapFrom (fun t x => if m.getLsbD t then { x with stop := true } else x) 0 e.marks } })
    | none => .next (((s.mapWave w.id fun w => w.exit m s.cycle).evalMasks w m).barsCheck w)

/-! ## YIELD, regions, register growth (R130, R136, R137) -/

def execYield (s : State) : Out := skipAhead .yield (fun s _ => s.pass) s

def execRgn (s : State) : Out :=
  skipAhead .rgn (fun s w => s.mapWave w.id fun w => w.mapMask s.issue.mask fun th =>
    { th with pc := s.issue.pc + 4, rgnpc := s.issue.pc + 4, rgncnt := th.rgncnt + 1 }) s

/-- VGROW: the wave has one pending request, with the greatest target; its threads block until it is granted. -/
def execVgrow (n : BitVec 3) (s : State) : Out :=
  skipAhead (.vgrow n) (fun s w =>
    let target := 8 * n.toNat
    if target ≤ w.alloc then s.pass
    else
      let s := if w.vgt = 0 then { s with nextId := s.nextId + 1 } else s
      (s.mapWave w.id fun x => { x with vgt := max x.vgt target, vgAge := if x.vgt = 0 then s.nextId else x.vgAge }).blockAt
        w.id s.issue.mask s.issue.pc (.vgrow (max w.vgt target))) s

/-- A load to a register at or above n is outstanding. -/
def State.loadsAbove (s : State) (wid n : Nat) : Bool :=
  s.accs.any fun a => a.wave == wid && decide (a.nreg ≠ 0) && decide (a.dst < 48) && decide (n < a.dst + a.nreg)

/-- Registers at or above n lose their contents (R39). -/
def Thread.cut (n : Nat) (th : Thread) : Thread := { th with v := vecFill th.v fun i => if i < n then getV th i else Reg.zero }

/-- An allocation reduced to n. -/
def Wave.shrink (w : Wave) (n : Nat) : Wave := { w with alloc := n, vshr := 0, threads := w.threads.map (Thread.cut n) }

/-- VSHRINK: at once when no load to a freed register is outstanding; else the lane waits until the last has completed. -/
def execVshrink (n : BitVec 3) (s : State) : Out :=
  skipAhead (.vshrink n) (fun s w =>
    let k := 8 * n.toNat
    if w.alloc ≤ k then s.pass
    else if s.loadsAbove w.id k then (s.pass).mapWave w.id fun w => { w with vshr := k }
    else (s.pass).mapWave w.id fun w => w.shrink k) s

/-- VSHRINK_FREE (R137; n: wave). -/
def execVshrinkFree (s : State) : Out :=
  match s.wave? s.ev.n with
  | none => .next s
  | some w =>
    if w.vshr = 0 ∨ w.episode.isSome ∨ s.loadsAbove w.id w.vshr then .next s
    else .next (s.mapWave w.id fun w => if w.alloc ≤ w.vshr then { w with vshr := 0 } else w.shrink w.vshr)

/-! ## Hints and prefixes (R69 to R74) -/

/-- HIMM: its payload waits for the target; an HMOD before it still applies. -/
def execHimm (p : BitVec 22) (s : State) : Out :=
  .next ((s.pass).mapWave s.issue.wave fun w =>
    { w with pfx := some ⟨s.issue.mask, s.issue.rnd, s.issue.sat, s.issue.cp, some p, s.issue.repPc⟩ })

/-- HMOD: its fields wait for the target. -/
def execHmod (r : BitVec 3) (t c : BitVec 2) (s : State) : Out :=
  .next ((s.pass).mapWave s.issue.wave fun w => { w with pfx := some ⟨s.issue.mask, r, t, c, none, s.issue.repPc⟩ })

/-- HCLS: a clause opens in each active thread; it starts once the masked flags are clear. In an episode it does not wait, and a thread
with a masked flag still set takes every later load as invalid (R76). -/
def execHcls (m : BitVec 12) (a b : BitVec 4) (s : State) : Out :=
  .next ((s.pass).mapWave s.issue.wave fun w =>
    let bad (t : Nat) : Bool := s.issue.mask.getLsbD t && (w.th t).flagMask &&& m != 0
    { w.mapMask s.issue.mask (fun th => { th with clause := ⟨m, a, b⟩ }) with
      episode := w.episode.map fun e => { e with marks := mapFrom (fun t x => if bad t then { x with hcls := true } else x) 0 e.marks } })

def execHintReservedF6 (_h : BitVec 1) (_x : BitVec 20) (s : State) : Out := .next s.pass
def execHintReservedF8 (_h : BitVec 3) (_x : BitVec 20) (s : State) : Out := .next s.pass

end Sys2Proof.Machine
end

