-- ==== Sys2Proof/Machine/Issue.lean ====
section
/-!
DEFINITION. From a chosen bundle to an instruction: the fetch (R26, R58, R416), the fate of the word (R79, R80, R82), the operand-log
hold (R268), what an issue takes from its prefixes (R71), and the turn and the charge after it (R129, R337).
-/

namespace Sys2Proof.Machine

/-! ## Fetch -/

/-- What a fetch gives. -/
inductive Fetched where
  | word (x : Word)
  /-- A fault, with the information it reports. -/
  | fault (cls : TrapClass) (info : Word)
  /-- A PAGE fault, which a compute thread waits for (R416). -/
  | page
  /-- A thread at M has come to the boot ROM (R409, log 5). -/
  | boot
  /-- The cluster's walker runs its 8 walks, and the fetch waits (R322). -/
  | busy
deriving DecidableEq, Repr

/-- The word at a PC, translated with kind exec (R26). A word homed on another package is a free value (log 28); a fetch from a port,
an operator window or the device range raises PROT (log 27), but at the boot ROM's place, where a thread at M runs the ROM; one under an uncorrectable error, or from an absent peer, raises POISON with 0xFF (R265). -/
def State.fetch (s : State) (w : Wave) (pc : DWord) : State × Fetched :=
  let n := s.freeCtr
  if s.walkerBusy (s.fetcher w) pc then (s, .busy)
  else
  match s.resolve (s.fetcher w) .exec pc false with
  | (s, .fault c) => (s, if c = .page ∧ !w.isVent then .page else .fault c (lowWord pc))
  | (s, .ok pa key) =>
    if pkgOf pa ≠ s.fab.pkg then
      (if s.peerUp (pkgOf pa) then ({ s with freeCtr := s.freeCtr + 1 }, .word (Config.freeFetch n)) else (s, .fault .poison 0xFF))
    else if (s.windowAt pa).isSome then (s, .fault .prot (lowWord pc))
    else
      match regionOf (localOf pa) with
      | .device => (s, if localOf pa = Config.bootPc ∧ w.level = .m then .boot else .fault .prot (lowWord pc))
      | .port _ | .unassigned => (s, .fault .prot (lowWord pc))
      | _ =>
        let s := s.sliceRead w.agentVd key (localOf pa / 64) w.isVent false
        if s.mem.marked (localOf pa) then (s, .fault .poison 0xFF)
        else (s, .word (BitVec.ofNat 32 (leVal (s.getBytes key (localOf pa) 4))))

/-! ## The fate of a word (R79) -/

/-- What becomes of a word: it executes, or raises a class with a reason and information; `own` where the trap reports the word's own
address and not its first prefix's. -/
inductive Fate where
  | run (i : Instr)
  | trap (cls : TrapClass) (reason : Nat) (info : Word) (own : Bool)
deriving DecidableEq, Repr

/-- An opcode that HIMM may precede (R69). -/
def himmOp (op : Nat) : Bool :=
  [0x02, 0x15, 0x16, 0x17, 0x2A, 0x26, 0x80, 0x81, 0x82, 0x83, 0x84, 0x85, 0x86, 0x87, 0x88, 0x89, 0x60, 0x61, 0xA4, 0xB0, 0x8D, 0x8E,
    0x30, 0x33, 0x31, 0xD0].contains op

/-- A word that breaks the order of prefixes (R71). -/
def orderBroken (p : Option Pfx) (op : Nat) : Bool :=
  match p with
  | none => false
  | some p => match p.himm with | some _ => !himmOp op | none => decide (op = 0xF4) || decide (op = 0xF5)

/-- A privileged opcode below the level it needs (R48, R256). -/
def privBroken (w : Wave) (op : Nat) : Bool :=
  decide (0xE0 ≤ op) && decide (op ≤ 0xEF) &&
    (!w.isVent || (match w.level with | .u => true | .s => decide (0xED ≤ op) | .m => false))

def udi (r : UdiReason) (own : Bool) : Fate := .trap .udi r.code (BitVec.ofNat 32 r.code) own

/-- The checks of R79, in order. -/
def fate (w : Wave) (x : Word) : Fate :=
  let op := (opOf x).toNat
  match decodeWord x with
  | .error .allZero => udi .allZero false
  | .error .unassigned => udi .unassigned false
  | d =>
    if 0xC0 ≤ op ∧ op ≤ 0xCF then udi .tileInSimt false
    else if privBroken w op then .trap .priv 0 (BitVec.ofNat 32 op) false
    else if orderBroken w.pfx op then udi .hintOrder true
    else
      match d with
      | .error r => udi r false
      | .ok i => match i.regCheck w.alloc with | some r => udi r false | none => .run i

/-! ## Issue -/

/-- What the step does next. -/
inductive Issued where
  /-- An instruction runs in this state; the pick it comes from, none for a tile command. -/
  | run (i : Instr) (s : State) (p : Option Pick)
  /-- Something else happened: a trap, a wait, a fetch. -/
  | done (s : State)
  /-- The thread of a wave runs the boot ROM. -/
  | boot (wave : Nat) (s : State)

/-- A trap of the word raised in every thread of the bundle; in an episode it ends the episode (R82). -/
def State.raiseBundle (s : State) (w : Wave) (m : BitVec 32) (cls : TrapClass) (reason : Nat) (info : Word) (pc addr : DWord) : State :=
  if w.episode.isSome then s.mapWave w.id Wave.endEpisode
  else (tids m).foldl (fun s t => s.raise w.id t cls reason info pc addr) (s.mapWave w.id fun w => { w with pfx := none })

/-- The issue of a word for a bundle, and its wave ready to run it: prefixes are consumed and clauses have started (R71, R74). -/
def State.issueFor (s : State) (w : Wave) (m : BitVec 32) (x : Word) (pc : DWord) : State :=
  let p := w.pfx
  let is : Issue :=
    { wave := w.id, mask := m, s := (schedOf x).eff, rnd := p.elim 0 (·.rnd), sat := p.elim 0 (·.sat), cp := p.elim 0 (·.cp),
      himm := p.bind (·.himm), word := x, pc := pc, repPc := p.elim pc (·.firstPc), cl := 0, entry := 0 }
  { s.mapWave w.id fun w => { w.mapMask m (fun th => { th with clause := { th.clause with mask := 0 } }) with pfx := none } with issue := is }

/-- A chosen bundle: its word is fetched and meets its fate. Threads with accesses in the operand log block at a held instruction. -/
def State.issuePick (s : State) (p : Pick) : Issued :=
  let w := p.wave
  let rep := w.pfx.elim p.pc (·.firstPc)
  match s.fetch w p.pc with
  | (s, .boot) => .boot w.id s
  | (s, .busy) => .done s
  | (s, .page) =>
    if w.episode.isSome then .done (s.mapWave w.id Wave.endEpisode)
    else
      let s := s.mapWave w.id fun w => { w.mapMask p.mask (fun th => { th.block .fetch s.cycle with pc := rep }) with pfx := none }
      .done (s.faultRequest 3 .page w.vd w.ctx p.pc (threadTag s.fab.pkg w.id (lowest p.mask)))
  | (s, .fault cls info) => .done (s.raiseBundle w p.mask cls 0 info rep p.pc)
  | (s, .word x) =>
    match fate w x with
    | .trap cls reason info own => .done (s.raiseBundle w p.mask cls reason info (if own then p.pc else rep) 0)
    | .run i =>
      let logged := if i.held && w.episode.isNone then p.mask &&& maskOf (s.hasLogged w.id) else 0
      let s := if logged = 0 then s else s.mapWave w.id fun w => w.mapMask logged fun th => { th.block .log s.cycle with pc := rep }
      let m := p.mask &&& ~~~logged
      if m = 0 then .done (s.mapWave w.id fun w => { w with pfx := none }) else .run i (s.issueFor w m x p.pc) (some p)

/-! ## After an issue (R129, R286, R337) -/

/-- A turn of a wave begins, with the quantum that QUANT holds then (R34, R129); a turn of another wave at the arbiter has ended, and that wave waits
for its next from now on (R337). -/
def State.startTurn (s : State) (p : Pick) : State :=
  if p.cont then s
  else
    { s with waves := s.waves.map fun w =>
        if w.id == p.wave.id then { w with turn := some ⟨p.pc, w.quantum, p.tier1⟩, lastLeader := some p.leader }
        else if w.arbiter == p.wave.arbiter && w.turn.isSome then { w with turn := none, waitSince := s.cycle }
        else w }

/-- The turn after an instruction of a wave: it goes on at the new PC of its lowest thread until the quantum, S[1] or YIELD ends it; S means
nothing in a hint word (R59), and a prefix extends the turn to its target (R71). -/
def Wave.turnAfter (w : Wave) (i : Instr) (is : Issue) (now : Nat) : Wave :=
  let n := (w.turn.elim 0 (·.left)) - 1
  let stop := (match i with | .yield => w.episode.isNone | _ => !i.hint && is.s.getLsbD 1) || decide (n = 0)
  let ends := stop && w.pfx.isNone
  { w with
    turn := if ends then none else w.turn.map fun tn => { tn with pc := (w.th (lowest is.mask)).pc, left := n },
    waitSince := if ends then now else w.waitSince,
    episode := w.episode.map fun e => { e with issued := e.issued + 1 } }

/-- The charge of an issue to its VD; on a cluster that the VD owns its tokens are without limit (R337, R345). Of Vent time each issue cycle is charged while a call
record is held, to the VD served (R344). -/
def State.chargeIssue (s : State) (p : Pick) (i : Instr) : State :=
  let n := i.cycles (tids s.issue.mask).length
  let count (s : State) (t1 : Bool) (v cls : Nat) : State :=
    s.mapRate v cls fun r => if t1 then { r with g1 := r.g1 + BitVec.ofNat 64 n } else { r with g2 := r.g2 + BitVec.ofNat 64 n }
  match p.wave.loc, p.wave.held with
  | .vent proc _, some r => count (s.setLevel 5 proc r.vd (s.level 5 proc r.vd - 1024 * n)) r.tier1 r.vd 5
  | .vent .., none => s
  | .lane cl .., _ =>
    if p.tier1 && (s.cluster cl).owner == some p.wave.vd then count s true p.wave.vd 0
    else s.grantTier p.tier1 0 p.wave.arbiter.2 p.wave.vd n
  | _, _ => s

/-- An episode ends with its instruction limit (R286). -/
def Wave.episodeLimit (w : Wave) : Wave := match w.episode with | some e => if e.limit ≤ e.issued then w.endEpisode else w | none => w

/-- The wave and the arbiter after an issue. -/
def State.afterIssue (s : State) (i : Instr) : Option Pick → State
  | some p => (s.chargeIssue p i).mapWave p.wave.id fun w => (w.turnAfter i s.issue s.cycle).episodeLimit
  | none => s

/-! ## The next agent -/

/-- The agents that issue (model): for each arbiter its first wave, then the sequencers at work. -/
def State.agents (s : State) : List Agent :=
  (s.arbiters.filterMap fun a => (s.waves.find? fun w => w.resident && w.arbiter == a).map fun w => Agent.wave w.id) ++
    s.blocks.filterMap fun b =>
      match b.seq, b.st with
      | some q, .resident => if q.ended then none else some (Agent.seq b.cl)
      | _, _ => none

/-- The arbiter an agent belongs to, or its sequencer. -/
def State.place (s : State) : Agent → (Nat × Nat) ⊕ Nat
  | .wave id => .inl (match s.wave? id with | some w => w.arbiter | none => (0, 8192))
  | .seq cl => .inr cl

/-- The agents from the selected one on. -/
def State.turnOrder (s : State) : List Agent :=
  let l := s.agents
  let n := (l.findIdx? fun a => s.place a == s.place s.sel).getD 0
  l.drop n ++ l.take n

/-! ## Time passes -/

/-- How thread t stands: it runs, is blocked, exited or trapped. A thread whose instruction still has to take effect waits, at no blocking point of
R24. A thread held at an instruction that reads a register awaiting a tier
load or an unready window load counts as blocked (R24). -/
inductive Stand where
  | run | blocked | exited | trapped
deriving DecidableEq, Repr

def State.stand (s : State) (w : Wave) (t : Nat) : Stand :=
  match (w.th t).cond with
  | .blocked (.effect _) => .run
  | .blocked _ => .blocked
  | .exited => .exited
  | .trapped _ => .trapped
  | .run => match s.at w (w.th t).pc with | some i => if (s.heldWord w t i).isSome then .blocked else .run | none => .run

/-- Every thread is exited, trapped or blocked, and one at least stands as given (R270, R275, R276). -/
def State.allStand (s : State) (w : Wave) (x : Stand) : Bool :=
  let l := (List.range w.threads.length).map (s.stand w)
  l.all (fun y => y != .run) && l.any fun y => y == x

def State.allBlocked (s : State) (w : Wave) : Bool := s.allStand w .blocked

/-- The waits of a wave as they stand: a turn ends when no thread at its PC is ready (R129); a wave waits for a turn since it was last not ready or its
turn ended; WAITTO runs while it is blocked (R275, R337). -/
def State.settleWave (s : State) (w : Wave) : Wave :=
  let over_ : Bool := match w.turn with | some tn => w.pfx.isNone && s.readyAt w tn.pc == 0 | none => false
  { w with
    turn := if over_ then none else w.turn,
    waitSince := if over_ || (s.offer w).isNone then s.cycle else w.waitSince,
    waitLimit := if w.isVent || !w.resident || !s.allBlocked w then 0
      else if w.waitLimit ≠ 0 then w.waitLimit
      else match (s.vd w.vd).ctl.waitto.toNat with | 0 => 0 | t => s.cycle + usCycles t }

/-- Time passes: at least one cycle and a free number more (log 4). -/
def State.tick (s : State) : State :=
  let now := s.cycle + 1 + Config.freeCycles s.freeCtr
  let at' := s.mgmt.wakeat.toNat
  State.due { s with cycle := now, freeCtr := s.freeCtr + 1 }
    (if at' ≠ 0 ∧ s.cycle < at' ∧ at' ≤ now then [evn .wakeatExpiry 0] else [])

def State.settle (s : State) : State := { s with waves := s.waves.map s.settleWave }

end Sys2Proof.Machine
end

