-- ==== Sys2Proof/Machine/Residence.lean ====
section
/-!
DEFINITION. Where blocks and waves stand: what a core has free (R37, R331), save requests and the points at which a wave is saved (R275,
R276), the save area (R384), a save and a restore (R277, R278, R281), the trap queue (R271, R272), and the kill of blocks and launches
(R231, R288).
-/

namespace Sys2Proof.Machine

/-! ## What a core has free (R37, R331) -/

/-- The waves resident on a lane. -/
def State.laneWaves (s : State) (cl core lane : Nat) : List Wave :=
  s.waves.filter fun w => match w.loc with | .lane c k l => c == cl && k == core && l == lane | _ => false

/-- The granules of a wave: its allocation, and as many again for the overlay of an episode (R37, R284). -/
def Wave.granules (w : Wave) : Nat := w.alloc / 8 + if w.episode.isSome then w.alloc / 8 else 0

def State.freeGranules (s : State) (cl core lane : Nat) : Nat := 48 - (s.laneWaves cl core lane).foldl (fun n w => n + w.granules) 0

/-- Free granules and free context entries of the lanes of a core. -/
def State.coreRoom (s : State) (cl core : Nat) : List (Nat × Nat) :=
  (List.range 16).map fun l => (s.freeGranules cl core l, 8 - (s.laneWaves cl core l).length)

/-- The lane with the most free granules that has a free entry; the lowest on a tie. -/
def bestLane : Nat → List (Nat × Nat) → Option (Nat × Nat)
  | _, [] => none
  | n, (g, e) :: t =>
    match bestLane (n + 1) t with
    | none => if e = 0 then none else some (n, g)
    | some (m, h) => if e ≠ 0 ∧ h ≤ g then some (n, g) else some (m, h)

/-- Lanes for waves that need granules as listed, one after another (R331); none where one finds no room. -/
def assignLanes : List Nat → List (Nat × Nat) → Option (List Nat)
  | [], _ => some []
  | n :: t, room =>
    match bestLane 0 room with
    | none => none
    | some (l, g) =>
      if g < n then none
      else (assignLanes t (mapFrom (fun i x => if i = l then (x.1 - n, x.2 - 1) else x) 0 room)).map fun ls => l :: ls

/-- Scratch bytes free on a core. -/
def State.freeScratch (s : State) (cl core : Nat) : Nat :=
  262144 - (s.blocks.filter fun b => b.onCore && b.cl == cl && b.core == core).foldl (fun n b => n + b.ssize) 0

/-- The lowest place for n contiguous bytes in a core's scratch (R331; that it is the lowest is a DESIGN CHOICE, log 32). -/
def State.scratchAt (s : State) (cl core n : Nat) : Option Nat :=
  let used := ((s.blocks.filter fun b => b.onCore && b.cl == cl && b.core == core).map fun b => (b.sofs, b.ssize)).filter fun x => x.2 != 0
  leastBy id ((0 :: used.map fun x => x.1 + x.2).filter fun o =>
    decide (o + n ≤ 262144) && used.all fun x => decide (o + n ≤ x.1) || decide (x.1 + x.2 ≤ o))

/-- The cluster's sequencer runs no block (R220). -/
def State.seqFree (s : State) (cl : Nat) : Bool := !s.blocks.any fun b => b.onCore && b.cl == cl && b.seq.isSome

/-- The granules that the waves of a launch's block need, copy waves first (R331). -/
def LaunchRec.needs (r : LaunchRec) : List Nat := List.replicate (r.cwaves + r.vwaves) (r.regs / 8)

/-- The waves of a saved block that return with it, in the order of R331. -/
def State.savedWaves (s : State) (b : Nat) : List Wave :=
  let l := (s.wavesOf b).filter fun w => match w.loc with | .saved _ => true | _ => false
  (l.filter fun w => match w.role with | .copy => true | _ => false) ++ l.filter fun w => match w.role with | .copy => false | _ => true

/-- Granules a saved wave needs, its pending growth counted (R138, R277). -/
def Wave.needs (w : Wave) : Nat := max w.alloc w.vgt / 8

/-- The granules of the waves saved singly that wait to return to a core, ahead of any block newly placed there (R277). -/
def State.backNeeds (s : State) (cl core : Nat) : List Nat :=
  (s.waves.filter fun w => !w.trapsTaken && (match w.loc with | .saved _ => true | _ => false) &&
    (match s.block? w.block with | some b => (match b.st with | .resident => true | _ => false) && b.cl == cl && b.core == core | none => false)).map Wave.needs

/-- Lanes of a core for waves and scratch, once the waves that return to the core have theirs; none where they do not fit. -/
def State.fits (s : State) (cl core : Nat) (needs : List Nat) (scratch : Nat) (seq : Bool) : Option (List Nat) :=
  let back := s.backNeeds cl core
  if (s.scratchAt cl core scratch).isNone ∨ (seq ∧ !s.seqFree cl) then none
  else (assignLanes (back ++ needs) (s.coreRoom cl core)).map fun ls => ls.drop back.length

/-! ## Save requests (R275, R276, R347) -/

/-- A save request: an episode ends; a wave that has one keeps one, with the earlier deadline; the taking of traps makes it a full save (R270). -/
def Wave.askSave (w : Wave) (deadline : Nat) (traps reclaim : Bool) (order : Nat) : Wave :=
  { w.endEpisode with saveReq := some (match w.saveReq with
      | none => ⟨deadline, traps, reclaim, none, false, order, false⟩
      | some r => { r with deadline := min r.deadline deadline, traps := r.traps || traps, reclaim := r.reclaim || reclaim,
                           kind := if traps then r.kind.map fun _ => 2 else r.kind, order := if traps then order else r.order }) }

/-- PREEMPTTO of a VD from now. -/
def State.preemptAt (s : State) (vd : Nat) : Nat := s.cycle + usCycles ((s.vd vd).ctl.preemptto.toNat % 65536)

def State.askSave (s : State) (wid : Nat) : State := s.mapWave wid fun w => w.askSave (s.preemptAt w.vd) false false 0

/-- Save requests to the waves of a block, which leaves its core when all are saved. -/
def State.askBlock (s : State) (b deadline : Nat) (reclaim : Bool) : State :=
  let s := s.mapBlock b fun b => match b.st with | .resident => { b with st := .saving } | _ => b
  { s with waves := mapIf (fun w => w.block == b && w.lane?.isSome) (fun w => w.askSave deadline false reclaim 0) s.waves }

/-- Every non-exited thread stands at one PC, nothing is logged, no prefix waits and no episode runs. -/
def State.reconverged (s : State) (w : Wave) : Bool :=
  w.leaders.length == 1 && !((List.range w.threads.length).any (s.hasLogged w.id))

/-- The point a save request has reached, as a KIND of R278, but for the forced save. -/
def State.savePoint (s : State) (w : Wave) (r : SaveReq) : Option Nat :=
  if w.pfx.isSome ∨ w.episode.isSome then none
  else if r.traps then some 2
  else if s.allBlocked w then some 0
  else if s.reconverged w then some 1
  else none

/-! ## The save area (R384) -/

/-- Units of 64 KiB that a block's image takes: scratch, accumulator and sequencer state (DESIGN CHOICE, log 33). -/
def Block.units (b : Block) : Nat := (b.ssize + 8 * b.arows * b.acols + 1024 + 65535) / 65536

/-- The bytes of a block's image: its scratch, then value and poison of each element of its accumulator by rows, then the stream address, the q registers and
the signal count of its sequencer. The spec gives no layout (DESIGN CHOICE, log 33). -/
def Block.imageBytes (b : Block) : List Byte :=
  (List.range b.ssize).map (sget 0 b.scratch) ++
    ((List.range b.arows).flatMap fun r => (List.range b.acols).flatMap fun c =>
      let x := sget Reg.zero b.acc (1024 * r + c)
      leBytes 4 x.val.toNat ++ leBytes 4 (if x.psn then 1 else 0)) ++
    (match b.seq with | some q => leBytes 8 q.pc.toNat ++ q.q.toList.flatMap (fun x => leBytes 8 x.toNat) ++ leBytes 8 q.sc.toNat | none => [])

/-- The ranges of a VD's save area in use, as addresses and lengths. -/
def State.saveUsed (s : State) (vd : Nat) : List (Nat × Nat) :=
  (s.waves.filterMap fun w => match w.loc with | .saved a => if w.vd = vd then some (a, 65536) else none | _ => none) ++
    s.blocks.filterMap fun b => if b.image ≠ 0 ∧ b.vd = vd then some (b.image, 65536 * b.units) else none

/-- Room for some units in a VD's save area, first fit; a place in another partition's memory is none (R379, log 26). -/
def State.saveRoom (s : State) (vd units : Nat) : Option Nat :=
  let base := s.vdField vd 0x80 8
  let size := s.vdField vd 0x88 8
  let used := s.saveUsed vd
  let free (a : Nat) : Bool :=
    decide (base ≤ a) && decide (a + 65536 * units ≤ base + size) && s.within (s.partOf vd) a (65536 * units) && used.all fun (b, n) => decide (a + 65536 * units ≤ b) || decide (b + n ≤ a)
  leastBy id ((base :: used.map fun (b, n) => b + n).filter free)

/-! ## The trap queue (R271, R272) -/

/-- One entry of a trap record. -/
def trapEntry (tid : Nat) (t : Trap) (rgnpc : DWord) (rgncnt : Word) : List Byte :=
  leBytes 1 tid ++ leBytes 1 t.cls.code ++ leBytes 2 t.reason ++ leBytes 4 t.info.toNat ++ leBytes 8 t.pc.toNat ++ leBytes 8 rgnpc.toNat
    ++ leBytes 4 rgncnt.toNat ++ zeros 4 ++ leBytes 8 t.addr.toNat ++ zeros 8

/-- The header of a record. -/
def trapHeader (n waveno vd ctx : Nat) (launch : Word) (blkid wid role pkg image trapped exited : Nat) : List Byte :=
  leBytes 4 (64 + 48 * n) ++ leBytes 4 waveno ++ leBytes 1 vd ++ leBytes 1 ctx ++ leBytes 1 n ++ zeros 1 ++ leBytes 4 launch.toNat
    ++ leBytes 4 blkid ++ leBytes 2 wid ++ leBytes 1 role ++ leBytes 1 pkg ++ leBytes 8 image ++ leBytes 4 trapped ++ leBytes 4 exited ++ zeros 24

/-- The record of a wave whose traps are taken, saved at an image. -/
def State.waveRecord (s : State) (w : Wave) (image : Nat) : List Byte :=
  let es := (List.range w.threads.length).filterMap fun t =>
    match (w.th t).cond with | .trapped x => some (trapEntry t x (w.th t).rgnpc (w.th t).rgncnt) | _ => none
  trapHeader es.length w.id w.vd w.ctx (match s.launchOf w with | some l => l.id | none => 0)
    (match s.block? w.block with | some b => b.blkid | none => 0) w.wid (match w.role with | .copy => 1 | _ => 0) s.fab.pkg (s.podAddr image)
    (w.maskBy fun th => match th.cond with | .trapped _ => true | _ => false).toNat
    (w.maskBy fun th => match th.cond with | .exited => true | _ => false).toNat ++ es.flatten

/-- A record put among those that wait, in the order of trapping. -/
def putRecord (x : TrapRec) : List TrapRec → List TrapRec
  | [] => [x]
  | y :: t => if x.order < y.order then x :: y :: t else y :: putRecord x t

/-- A record on its way to the VD's trap queue (R271). -/
def State.trapRecord (s : State) (vd order : Nat) (bytes : List Byte) : State :=
  (s.mapVd vd fun v => { v with heldTraps := putRecord ⟨order, bytes⟩ v.heldTraps }).due [evn .trapRecordAppend vd]

/-- Base, size and service queue of a VD's trap queue (R384). -/
def State.trapQueue (s : State) (vd : Nat) : Nat × Nat × Nat :=
  let c := s.vdField vd 0x98 4
  (s.vdField vd 0x90 8, 64 * (c % 65536), c / 65536 % 256)

/-- The length of a record in its queue. -/
def roundUp64 (n : Nat) : Nat := (n + 63) / 64 * 64

/-- The oldest record of a VD fits its queue (R271); a queue that reaches another partition's memory takes none (R379, log 26). -/
def State.trapFits (s : State) (vd : Nat) : Bool :=
  match (s.vd vd).heldTraps with
  | [] => false
  | r :: _ =>
    let size := (s.trapQueue vd).2.1
    let h := (s.vd vd).ctl.tqhead.toNat
    let t := (s.vd vd).ctl.tqtail.toNat
    let free := if h = t then size else (t + size - h) % size
    decide (roundUp64 r.bytes.length + 64 ≤ free) && s.within (s.partOf vd) (s.trapQueue vd).1 size

/-- Bytes written at their home, going on at the base of a ring from its end. -/
def State.ringWrite (s : State) (vd base size off : Nat) (bs : List Byte) : State :=
  let n := size - off
  let s := s.homeWrite vd 0 (base + off) (bs.take n)
  if (bs.drop n).isEmpty then s else s.homeWrite vd 0 base (bs.drop n)

/-! ## Saving a wave (R277, R278) -/

/-- The datum of an operand-log item: the register group of a store or atomic (R267). -/
def Access.datum (a : Access) : Nat := a.data.toNat % 2 ^ (8 * min 16 a.size) + a.cmp.toNat * 2 ^ (8 * a.size)

/-- The operand-log items of a wave (R267, R278): one for each access, and of a TSTW one for each of its threads. -/
def State.logItems (s : State) (wid : Nat) : List (List Byte) :=
  let item (a : Access) (e t datum : Nat) : List Byte :=
    leBytes 4 a.word.toNat ++ leBytes 1 t ++ leBytes 1 e ++ zeros 2 ++ leBytes 8 a.va.toNat ++ leBytes 16 datum
  (s.accs.filter fun a => a.wave == wid).flatMap fun a =>
    match a.entry with
    | some e => if a.group.isEmpty then [item a e a.tid a.datum] else a.group.map fun x => item a e x.1 x.2.toNat
    | none => []

/-- The watchdogs of a JOIN and of a barrier's phase stop for a thread while its wave is saved: what is left is kept (R135, R181, R280). `phase` gives
the deadline of the phase a thread waits on. -/
def Thread.pause (now : Nat) (phase : Nat → Word → Nat) (th : Thread) : Thread :=
  let l := if th.limit ≠ 0 then th.limit else match th.cond with | .blocked (.bar n p) => phase n.toNat p | _ => 0
  if l = 0 then th else { th with limit := max 1 (l - now) }
def Thread.resume (now : Nat) (th : Thread) : Thread := if th.limit = 0 then th else { th with limit := th.limit + now }

/-- A block leaves its core when the last of its waves is saved and its sequencer holds no issued command (R222, R277). -/
def State.blockSaved (s : State) (b : Block) : Bool :=
  (match b.st with | .resident | .saving => true | _ => false) &&
    (s.wavesOf b.id).all (fun w => match w.loc with | .saved _ | .gone => true | _ => false) &&
    ((s.wavesOf b.id).any (fun w => match w.loc with | .saved _ => true | _ => false) || (match b.st with | .saving => true | _ => false)) &&
    (match b.seq with | some q => q.win.all fun e => !e.issued | none => true)

/-- A CTXSAVE that is not complete names a launch (R262). -/
def State.ctxSaves (s : State) (l : Launch) : Bool :=
  s.cmds.any fun c => match c.op with | .ctxsave => c.vd == l.vd && c.ctx == l.ctx && (c.b == 0xFFFFFFFF || c.b == l.id.zeroExtend 64) | _ => false

/-- The block is saved: its image takes room in the save area, written under its world's key (R392), and the watchdogs of its barriers stop (R181). A save that
finds no room waits, with one entry (R384). A CTXSAVE that names its launch keeps it until CTXREST (R262); one that a reclaim stopped by force may hold a lock
(R348). -/
def State.saveBlock (s : State) (b : Block) : State :=
  match s.saveRoom b.vd b.units with
  | none => if b.told then s else (s.mapBlock b.id fun b => { b with told := true }).logErr b.vd .prot 0x20 0 0 0 false b.keyid
  | some a =>
    let s := s.homeWrite b.vd b.keyid a b.imageBytes
    let ctx := match s.launch? b.launch with | some l => s.ctxSaves l | none => false
    let s := s.mapBlock b.id fun b => { b with
      st := if ctx then .parked else .saved, image := a, savedNo := s.nextId, told := false,
      bars := b.bars.map fun x => if x.limit = 0 then x else { x with limit := max 1 (x.limit - s.cycle) } }
    { s with nextId := s.nextId + 1 }

/-- The image of a stopped wave is written and the wave leaves its lane; for traps, which were taken when it stopped, their record follows (R270, R277). A block
whose wave a reclaim stopped for a forced save may hold a lock (R348). -/
def State.saveWave (s : State) (w : Wave) (r : SaveReq) (kind : Nat) : State :=
  match s.saveRoom w.vd 1 with
  | none =>
    if r.told then s
    else
      (s.mapWave w.id fun w => { w with saveReq := some { r with kind := some kind, told := true } }).logErr w.vd .prot 0x20 0 0
        0 false (s.keyOf w)
  | some a =>
    let s := s.mapWave w.id fun w => { w with threads := w.threads.map fun th => match th.cond with | .trapped _ => { th with pc := th.rgnpc } | _ => th }
    let w := (s.wave? w.id).getD w
    let img := w.image (s.imageCtx w kind (if kind = 2 then s.logItems w.id else []) (s.at w))
    let s := s.homeWrite w.vd (s.keyOf w) a img
    let rec_ := s.waveRecord w a
    let phase (n : Nat) (p : Word) : Nat := if (s.barAt w n).phase = p then (s.barAt w n).limit else 0
    let s := s.mapWave w.id fun w =>
      { w with loc := .saved a, saveReq := none, turn := none, waitLimit := 0, trapsTaken := r.traps,
               threads := w.threads.map (Thread.pause s.cycle phase) }
    let s := if r.reclaim ∧ r.forced then s.mapBlock w.block fun b => { b with holder := true } else s
    let s := if r.traps then s.trapRecord w.vd r.order rec_ else s
    match s.block? w.block with
    | some b => if s.blockSaved b then s.saveBlock b else s
    | none => s

/-- A wave's stores are all acknowledged (R277 step 2). -/
def Wave.drained (w : Wave) : Bool := w.threads.all fun th => th.stores == 0

/-! ## Killing (R231, R288) -/

/-- A wave that ends without being saved. -/
def Wave.kill (w : Wave) (now : Nat) : Wave :=
  { w with loc := .gone, episode := none, saveReq := none, pfx := none, turn := none, waitLimit := 0, trapsTaken := false,
           j := w.j.map fun _ => 0, threads := w.threads.map fun th => { th with cond := .exited, since := now } }

/-- The waves of a block stop, its sequencer ends with every entry of its window, its scratch and accumulator are scrubbed, and it ends; its
waves' calls have no caller any more (R282). -/
def State.killBlock (s : State) (b : Nat) (st : BlockSt) : State :=
  let ids := (s.wavesOf b).map (·.id)
  let s := { s with
    waves := mapIf (fun w => w.block == b) (Wave.kill · s.cycle) s.waves,
    cmds := s.cmds.filter fun c => !((match c.op with | .tile .. => true | _ => false) && c.block == b),
    vds := s.vds.map fun (v : VD) => { v with calls := v.calls.filter fun c => !ids.contains c.wave } }
  s.mapBlock b fun b =>
    { b with st := st, scratch := [], acc := [], image := 0, holder := false,
             seq := b.seq.map fun (q : Seq) => { q with win := [], ended := true, hold := true } }

/-! ## Restoring a wave (R273, R277, R281) -/

/-- The operand-log entries a wave holds. -/
def State.entriesOf (s : State) (wid : Nat) : List Nat := ((s.accs.filter fun a => a.wave == wid).filterMap (·.entry)).eraseDups

/-- A lane's operand log has room for the entries of a wave that returns to it (R267, log 70). -/
def State.logRoom (s : State) (w : Wave) (lane : Nat) : Bool := decide ((s.logEntries lane).length + (s.entriesOf w.id).length ≤ 8)

/-- The entries of a wave take the lowest free numbers of the log of the lane it is restored to. -/
def State.moveLog (s : State) (wid lane : Nat) : State :=
  let old := s.entriesOf wid
  let new := ((List.range 8).filter fun e => !(s.logEntries lane).contains e).take old.length
  { s with accs := mapIf (fun a => a.wave == wid) (fun a => { a with
      entry := a.entry.map fun e => ((old.findIdx? (· == e)).bind fun n => new[n]?).getD e,
      stage := match a.stage with | .logged e c => .logged (((old.findIdx? (· == e)).bind fun n => new[n]?).getD e) c | x => x }) s.accs }

/-- A wave restored onto a lane from its image. Of the record for an image that cannot be read, R281 gives class, ADDR and TID; its PC, TRAPMASK and EXITMASK are
zero (DESIGN CHOICE, log 83). It has no previous turn: its first takes the least leader (DESIGN CHOICE, log 67). An image line read under
an uncorrectable error leaves it unrestored: its block is killed and ends as trapped (R281, log 68). -/
def State.restoreWave (s : State) (w : Wave) (cl core lane : Nat) : State :=
  match w.loc with
  | .saved a =>
    let n := s.mem.val a 4
    let len := match s.world? (s.keyOf w) with | some _ => leVal (s.getBytes (s.keyOf w) a 4) | none => n
    let s := (linesOf a len).foldl (fun s l => s.sliceRead w.vd (s.keyOf w) l false false) s
    let bs := s.getBytes (s.keyOf w) a len
    match (List.range ((len + 63) / 64)).find? fun i => s.mem.poison (a + 64 * i) 64 != 0 with
    | some i =>
      let l := s.launchOf w
      let bad := BitVec.ofNat 64 (s.podAddr (a + 64 * i))
      let t : Trap := ⟨.ecc, 0, lowWord bad, 0, bad⟩
      let rec_ := trapHeader 1 w.id w.vd w.ctx (match l with | some l => l.id | none => 0)
        (match s.block? w.block with | some b => b.blkid | none => 0) w.wid (match w.role with | .copy => 1 | _ => 0) s.fab.pkg (s.podAddr a) 0 0
        ++ trapEntry 0xFF t 0 0
      ({ s.killBlock w.block (.ended true) with nextId := s.nextId + 1 }).trapRecord w.vd s.nextId rec_
    | none =>
      let c := s.imageCtx w (field bs 0xA 1) [] (s.at w)
      let s := (s.moveLog w.id ((4 * cl + core) * 16 + lane)).invalidate (4 * cl + core)
      let s := s.mapWave w.id fun w =>
        let w := w.ofImage c bs
        { w with loc := .lane cl core lane, age := s.nextId, saveReq := none, turn := none, lastLeader := none, waitSince := s.cycle,
                 threads := w.threads.map (Thread.resume s.cycle) }
      { s with nextId := s.nextId + 1 }
  | _ => s

end Sys2Proof.Machine
end

