-- ==== Sys2Proof/Machine/Traps.lean ====
section
/-!
DEFINITION. The events of chapters 10 and 14: faults posted, repaired and replayed (R267 to R269, R323, R325, R326, R416), traps taken
and recorded (R270 to R272), waves saved and restored (R273 to R281), register growth (R138), and fumarole episodes (R283 to R286).
-/

namespace Sys2Proof.Machine

/-! ## Fault requests (R325, R326) -/

/-- The fault ring of a partition: base, entries, service queue (R383). -/
def Partition.faultRing (p : Partition) : Nat × Nat × Nat :=
  (p.fring.toNat, p.fringctl.toNat % 65536, p.fringctl.toNat / 65536 % 256)

/-- A request as 64 bytes. -/
def FaultReq.bytes (f : FaultReq) (pkg : Nat) : List Byte :=
  leBytes 4 f.seq ++ leBytes 1 f.kind ++ leBytes 1 f.cls.code ++ leBytes 1 f.vd ++ leBytes 1 f.ctx ++ leBytes 8 f.va.toNat
    ++ leBytes 4 f.tag.toNat ++ leBytes 1 pkg ++ zeros 43

/-- The oldest request of a partition that is not in its ring yet. -/
def State.nextFault (s : State) (p : Nat) : Option FaultReq := s.faults.find? fun f => f.ring.isNone && s.partOf f.vd == some p

/-- Where the next request of a partition goes; none while the ring is full or absent, or its slot is in another partition's memory (R379, log 26). -/
def State.faultSlot (s : State) (p : Nat) : Option Nat :=
  let (base, n, _) := (s.part p).faultRing
  let a := base + 64 * ((s.part p).findex % max 1 n)
  if n = 0 ∨ s.faults.any (fun f => f.ring == some a) ∨ !s.within (some p) a 64 then none else some a

/-- FAULT_REQUEST_POST (R325; n: request): the oldest request that waits for its partition's ring is written there, and the ring's queue
notified. -/
def execFaultRequestPost (s : State) : Out :=
  match s.faults.find? fun f => f.seq == s.ev.n with
  | none => .next s
  | some f =>
    match s.partOf f.vd with
    | none => .next s
    | some p =>
      match s.nextFault p, s.faultSlot p with
      | some g, some a =>
        let (_, n, q) := (s.part p).faultRing
        let s := s.homeWrite (s.sysvd p) 0 a (g.bytes s.fab.pkg)
        let s := { s with faults := mapIf (fun x => x.seq == g.seq) (fun x => { x with ring := some a }) s.faults }
        .next ((s.mapPart p fun x => { x with findex := (x.findex + 1) % n }).notify q 4)
      | _, _ => .next s

/-- A request covers an address of a VD and context. -/
def FaultReq.covers (f : FaultReq) (vd ctx : Nat) (va : DWord) : Bool :=
  f.vd == vd && f.ctx == ctx && f.va.toNat / 4096 == va.toNat / 4096

/-- The page a thread blocked on a fetch fault waits for: that of its PC, or of the word a prefix there leads to. -/
def State.fetchPage (s : State) (w : Wave) (pc : DWord) : Option FaultReq :=
  [pc, pc + 4, pc + 8].findSome? fun a => s.faults.find? fun f => f.covers w.vd w.ctx a && f.cls == .page

/-- Threads that wait on a fetch fault of this request: woken to fetch again, or trapped with PROT (R416). -/
def State.fetchDone (s : State) (f : FaultReq) (ok : Bool) : State :=
  let l := s.waves.flatMap fun w =>
    (List.range w.threads.length).filterMap fun t =>
      match (w.arch t).cond with
      | .blocked .fetch => if s.fetchPage w (w.arch t).pc = some f then some (w.id, t, (w.arch t).pc) else none
      | _ => none
  if ok then
    l.foldl (fun s x => s.onWave x.1 fun w => w.mapArch (1#32 <<< x.2.1) fun th => th.wakeAgain s.cycle) s
  else l.foldl (fun s x => s.raiseNow x.1 x.2.1 .prot 0 (lowWord x.2.2) x.2.2 x.2.2) s

/-- The register that a wait for a launch or a collective writes as it ends, and the flag it holds. -/
def Wake.dest : Wake → Option (BitVec 6)
  | .lwait _ d | .collw _ d _ => d
  | _ => none
def Wake.flag : Wake → Nat
  | .collw _ _ f => f
  | _ => 15

/-- The threads that wait for a launch or a collective, named by a test, go on: the register of their instruction receives a value, the flag is detached
(R75), and their core acquires at .pod (R294). One whose wake word the operating system has written issues again. -/
def State.wakeWith (s : State) (p : Wave → Wake → Bool) (x : Word) : State :=
  s.waves.foldl (fun s w =>
    (List.range w.threads.length).foldl (fun s t =>
      match (w.arch t).cond with
      | .blocked k =>
        if p w k then
          (s.acquire w.coreNo 5).onWave w.id fun v =>
            let v := if k.flag < 12 then v.detach (1#32 <<< t) k.flag s.cycle else v
            match k.dest with
            | some d => (v.deliver t d.toNat ⟨x, false⟩).mapArch (1#32 <<< t) fun th => th.wakeNext s.cycle
            | none => v.mapArch (1#32 <<< t) fun th => th.wakeAgain s.cycle
        else s
      | _ => s) s) s

/-- A command whose descriptor's read is trapped is not posted: it and its flags are gone, and a collective's number ends with FAULT. -/
def State.unpost (s : State) (c : Cmd) : State :=
  let nums := (s.colls.filter fun x => x.cmd == c.id && x.status.isNone).map (·.num)
  let s := { s.dropCmd c.id with colls := mapIf (fun x => x.cmd == c.id && x.status.isNone) (fun x => { x with status := some 2 }) s.colls }
  (s.onWave c.wave fun w => w.detachAll c.flags s.cycle).wakeWith (fun _ k => match k with | .collw n _ _ => nums.contains n.toNat | _ => false) 2

/-- A class raised in the threads a logged access traps (R21, R157), and the access ends (R269); so does a command whose descriptor it reads. -/
def State.replayTrap (s : State) (a : Access) (c : TrapClass) : State :=
  let s := match a.kind with
    | .desc id => (match s.cmd? id with | some x => s.unpost x | none => s)
    | _ => s
  let s := match a.kind with
    | .desc _ => { s with accs := s.accs.filter fun b => b.kind != a.kind || b.id == a.id }
    | _ => s
  (tids a.tmask).foldl (fun s t => s.raiseNow a.wave t c 0 (lowWord a.va) a.pc a.va) (s.finish { a with nreg := 0 } id)

/-- A logged access replayed with the operands of its entry (R269): it is issued again, with those of its bundle that share its line (R165), or it keeps its
entry with a new request, or it traps. The lines of a descriptor that can be read now are read by its command. -/
def State.replay (s : State) (a : Access) : State :=
  match s.wave? a.wave with
  | none => s.dropAcc a.id
  | some w =>
    match s.resolve (s.who w) a.kind.kind a.va false with
    | (s, .fault c) =>
      if c = .page ∨ c = .rdw then
        (s.mapAcc a.id fun a => { a with stage := .logged (a.entry.getD 0) c }).faultRequest a.kind.kind.code c a.vd a.ctx a.va a.wtag
      else s.replayTrap a c
    | (s, .ok pa key) =>
      match (if pkgOf pa = s.fab.pkg then deviceCheck s w (localOf pa) a.size a.kind.kind.isWrite else none) with
      | some c => s.replayTrap a c
      | none =>
        let port := match regionOf (localOf pa) with | .port _ | .device => true | _ => false
        if port && (match a.kind with | .atomic .. | .watch _ => true | _ => false) then s.replayTrap a .prot
        else
          let first := s.accs.find? fun b => b.entry == a.entry && decide (b.id < a.id) && (match b.stage with | .issued => true | _ => false) &&
            { a with pa := pa }.joins b
          let go (s : State) : State := s.mapAcc a.id fun a =>
            { a with pa := pa, keyid := key, stage := .issued, req := first.elim a.id (·.req), page := s.pageOf (s.who w) a.va }
          match a.kind with
          | .desc c =>
            let s := s.finish a id
            if s.accs.any fun b => b.kind == .desc c then s else (s.mapCmd c fun c => { c with stage := .queued }).wakeCmd c
          | .tste .. | .atomic .. => go (s.dropLines { a with pa := pa })
          | .store => go (s.onCores a.wave a.core fun s k => s.ownCopy k key pa ((leBytes 64 a.data.toNat).take a.size))
          | _ => go s

/-- A block that a sequencer fault killed is to be placed anew, or its fault becomes PROT (R231, R326). -/
def State.blockDone (s : State) (f : FaultReq) (ok : Bool) : State :=
  s.blocks.foldl (fun s b =>
    match b.st with
    | .faulted pc va cls =>
      if f.covers b.vd b.ctx va ∧ f.cls = cls then
        if ok then s.mapBlock b.id fun b => { b with st := .relaunch }
        else
          let l := s.launch? b.launch
          State.trapRecord { s.mapBlock b.id (fun b => { b with st := .ended true }) with nextId := s.nextId + 1 } b.vd s.nextId
            (trapHeader 1 0xFFFFFFFF b.vd b.ctx (match l with | some l => l.id | none => 0) b.blkid 0 2 s.fab.pkg 0 0 0
              ++ trapEntry 0xFE ⟨.prot, 0, lowWord va, pc, va⟩ 0 0)
      else s
    | _ => s) s

/-- The address at which a command waits for the service. -/
def Cmd.waitsAt (c : Cmd) (va : DWord) : DWord := match c.stage with | .faulted x .. => x | _ => va

/-- A logged access would be walked for while its cluster's walker runs its 8 walks (R322). -/
def State.replayBusy (s : State) (a : Access) : Bool := match s.wave? a.wave with | some w => s.walkerBusy (s.who w) a.va | none => false

/-- FAULT_DONE (R326; n: request): DONE is 1, and every access attached is replayed, resumed, relaunched or fetched again; or it is 2, and
each raises PROT. Any other value leaves the request pending. A replay that needs the walker waits for it (R322). -/
def execFaultDone (s : State) : Out :=
  match s.faults.find? fun f => f.seq == s.ev.n with
  | none => .next s
  | some f =>
    match f.ring with
    | none => .next s
    | some a =>
      let done := s.mem.val (a + 32) 4
      if done ≠ 1 ∧ done ≠ 2 then .next s
      else
        let ok := decide (done = 1)
        let fetched := fun s : State => s.fetchDone f ok
        let logged := s.accs.filter fun x => (match x.stage with | .logged _ c => c == f.cls && f.covers x.vd x.ctx x.va | _ => false)
        let cmds := s.cmds.filter fun c => (match c.stage with | .faulted va cls _ => cls == f.cls && f.covers c.vd c.ctx va | _ => false)
        if ok ∧ logged.any s.replayBusy then .next (s.due [evn .faultDone f.seq])
        else
        let s := fetched s
        let s := { s with faults := s.faults.filter fun x => x.seq != f.seq }
        let s := logged.foldl (fun s x => if ok then s.replay x else s.replayTrap x .prot) s
        let s := s.sendThose (logged.map (·.id))
        let refusal := fun (c : Cmd) => match c.op with | .coll | .mcast | .mcastIn => 258 | _ => 2
        let s := cmds.foldl (fun s c =>
          (s.mapCmd c.id fun c =>
            if ok then { c with stage := .queued }
            else { c with stage := .queued, status := refusal c, info := lowWord (c.waitsAt f.va), bad := c.waitsAt f.va }).wakeCmd c.id) s
        let s := s.blockDone f ok
        let next := (s.partOf f.vd).bind s.nextFault
        .next (match next with | some g => s.due [evn .faultRequestPost g.seq] | none => s)

/-- The prefetches that wait for the walk of one of them end (R165, R185). -/
def State.finishAll (s : State) (a : Access) : State :=
  (s.accs.filter fun b => b.req == a.req && (match b.stage with | .walking => true | _ => false)).foldl (fun s b => s.finish b id) s

/-- PAGE_WALK_COMPLETE (R185, R285, R323; n: access): the walk of a prefetch has ended; the prefetch goes on, or is dropped at a fault. In an episode a
class that the load would raise ends the episode (R82, R189). A walk that is not among the first 8 of its cluster has not begun (R322). -/
def execPageWalkComplete (s : State) : Out :=
  match s.acc? s.ev.n, s.walks.find? fun x => x.acc == s.ev.n with
  | some a, some k =>
    match s.wave? a.wave with
    | none => .next { s.dropAcc a.id with walks := s.walks.filter fun x => x.acc != a.id }
    | some w =>
      let q := { s.who w with spec := k.spec }
      if !((s.walksOf q.cl).take 8).contains k then .next (s.due [evn .pageWalkComplete a.id])
      else
        let s := { s with walks := s.walks.filter fun x => x.acc != a.id }
        match s.resolve q .prefetch a.va false with
        | (s, .fault c) =>
          let ends := k.spec && !(c == .page || c == .rdw) && opOf a.word != 0xA4
          let s := s.finishAll a
          .next (if ends then s.mapWave a.wave Wave.endEpisode else s)
        | (s, .ok pa key) =>
          let local_ := match regionOf (localOf pa) with | .hbm | .lpddr => true | _ => false
          if !local_ ∨ (s.windowAt pa).isSome then .next (s.finishAll a)
          else
            let s := if k.spec then s.mapVd w.vd fun v => { v with prefetches := v.prefetches + 1 } else s
            let group := (s.accs.filter fun b => b.req == a.req && (match b.stage with | .walking => true | _ => false)).map (·.id)
            .next (State.sendThose { s with accs := mapIf (fun b => group.contains b.id) (fun a =>
              { a with pa := pa / 64 * 64, keyid := key, stage := .issued, page := s.pageOf q a.va }) s.accs } group)
  | _, _ => .next s

/-- LOGFULL_WAKE (R269; n: lane): an entry is free, and the threads that wait for one issue again. -/
def execLogfullWake (s : State) : Out :=
  if (s.freeEntry s.ev.n).isNone then .next s
  else
    .next ((s.waves.filter fun w => w.lane? == some s.ev.n).foldl (fun s w =>
      s.onWave w.id fun w => w.mapArchAll fun th => match th.cond with | .blocked .logfull => th.wakeAgain s.cycle | _ => th) s)

/-! ## Traps taken and recorded (R270, R271) -/

/-- A wave stops for its save. -/
def Wave.stop (w : Wave) (kind : Nat) : Wave := { w with turn := none, saveReq := w.saveReq.map fun r => { r with kind := some kind } }
def State.stopFor (s : State) (w : Wave) (kind : Nat) : State := s.mapWave w.id fun w => w.stop kind

/-- A wave stops for a forced full save, and its episode ends (R276, R348). -/
def State.forceSave (s : State) (w : Wave) : State :=
  s.mapWave w.id fun w => let w := w.endEpisode.stop 2; { w with saveReq := w.saveReq.map fun r => { r with forced := true } }

/-- TAKE_TRAPS (R270; n: wave): every thread is exited, blocked or trapped and at least one is trapped, and no prefix awaits its target (R71, R276): the wave
stops for a full save. -/
def execTakeTraps (s : State) : Out :=
  match s.wave? s.ev.n with
  | none => .next s
  | some w =>
    if w.isVent ∨ w.trapsTaken ∨ !s.allStand w .trapped ∨ w.lane?.isNone ∨ w.pfx.isSome then .next s
    else .next { s.mapWave w.id fun w => (w.askSave s.cycle true false s.nextId).stop 2 with nextId := s.nextId + 1 }

/-- TRAP_RECORD_APPEND (R271; n: VD): the oldest record that fits is written contiguously modulo the ring, TQHEAD moves past it, and
then the queue is notified. -/
def execTrapRecordAppend (s : State) : Out :=
  let v := s.ev.n
  match (s.vd v).heldTraps with
  | [] => .next s
  | r :: rest =>
    if !s.trapFits v then .next s
    else
      let (base, size, q) := s.trapQueue v
      let h := (s.vd v).ctl.tqhead.toNat
      let s := (s.latch v).ringWrite v base size h r.bytes
      let s := s.mapVd v fun x => { x with heldTraps := rest, ctl := { x.ctl with tqhead := BitVec.ofNat 32 ((h + roundUp64 r.bytes.length) % size) } }
      let s := s.notify q 2
      .next (if rest.isEmpty then s else s.due [evn .trapRecordAppend v])

/-- TQTAIL written (R40, R271): a value that is not a multiple of 64 or not below the ring's size is ignored. -/
def State.writeTqtail (s : State) (v x : Nat) : State :=
  if x % 64 ≠ 0 ∨ (s.trapQueue v).2.1 ≤ x then s
  else (s.mapVd v fun d => { d with ctl := { d.ctl with tqtail := BitVec.ofNat 32 x } }).due [evn .trapRecordAppend v]

/-- TQTAIL_WRITE (R271; n: VD, val). -/
def execTqtailWrite (s : State) : Out := .next (s.writeTqtail s.ev.n (s.ev.val % 2 ^ 32))

/-! ## Saves (R275 to R277) -/


/-- WAVE_SAVE (R276, R277; n: wave, m: a block without waves): at the first save point the wave stops; once its stores are acknowledged
its image is written. -/
def execWaveSave (s : State) : Out :=
  match s.wave? s.ev.n with
  | none => match s.block? s.ev.m with | some b => .next (if s.blockSaved b then s.saveBlock b else s) | none => .next s
  | some w =>
    match w.saveReq, w.lane? with
    | some r, some _ =>
      (match r.kind with
       | some k => .next (if w.drained then s.saveWave w r k else s)
       | none => match s.savePoint w r with | some k => .next (s.stopFor w k) | none => .next s)
    | _, _ =>
      match s.block? w.block with
      | some b => .next (if s.blockSaved b then s.saveBlock b else s)
      | none => .next s

/-- PREEMPTTO_EXPIRY (R276; n: wave): the deadline of a save request has passed: a forced full save, after the target of a prefix. -/
def execPreempttoExpiry (s : State) : Out :=
  match s.wave? s.ev.n with
  | none => .next s
  | some w =>
    match w.saveReq with
    | some r => .next (if r.deadline ≤ s.cycle ∧ r.kind.isNone ∧ w.pfx.isNone ∧ w.lane?.isSome then s.forceSave w else s)
    | none => .next s

/-- What waits for placement in a partition and could be placed on a core: the granules its waves need and its scratch. A matrix-role
block that is saved returns to its cluster only (R36). -/
def State.waitingFor (s : State) (p cl : Nat) : List (List Nat × Nat × Bool) :=
  (s.blocks.filterMap fun b =>
    match b.st with
    | .saved =>
      if s.partOf b.vd ≠ some p ∨ (b.seq.isSome ∧ b.cl ≠ cl) ∨ (s.wavesOf b.id).any (·.trapsTaken) then none
      else some ((s.savedWaves b.id).map Wave.needs, b.ssize, b.seq.isSome)
    | .relaunch =>
      if s.partOf b.vd ≠ some p then none
      else (s.launch? b.launch).map fun l => (l.recd.needs, b.ssize, b.seq.isSome)
    | _ => none) ++
  s.launches.filterMap fun l =>
    if l.dispatched ∧ l.placed < l.recd.grid ∧ s.partOf l.vd = some p ∧ !l.killed then
      some (l.recd.needs, 64 * l.recd.scratch, l.recd.flags.getLsbD 3) else none

/-- The lane of a wave has work waiting (R275). -/
def State.workWaiting (s : State) (w : Wave) : Bool :=
  match w.loc with
  | .lane cl core _ =>
    s.waves.any (fun v => v.block != w.block && !v.trapsTaken && (match v.loc with | .saved _ => true | _ => false) &&
      (match s.block? v.block with | some b => b.onCore && b.cl == cl && b.core == core | none => false)) ||
    (match s.partOf w.vd with
     | some p =>
       let s' := s.mapWave w.id fun w => { w with loc := .gone }
       (s.waitingFor p cl).any fun x => (s'.fits cl core x.1 x.2.1 x.2.2).isSome
     | none => false)
  | _ => false

/-- WAITTO_EXPIRY (R275; n: wave): blocked without a break for WAITTO, with work waiting for its lane: the lane asks for its save. -/
def execWaittoExpiry (s : State) : Out :=
  match s.wave? s.ev.n with
  | none => .next s
  | some w =>
    if w.waitLimit = 0 ∨ s.cycle < w.waitLimit ∨ w.saveReq.isSome ∨ !s.workWaiting w then .next s else .next (s.askSave w.id)

/-- WAVE_RESTORE (R273, R277; n: wave, m: lane of the package): a saved wave whose block is on its core returns to a lane of it with a
free context entry, the wave's granules and room in its operand log. -/
def execWaveRestore (s : State) : Out :=
  match s.wave? s.ev.n with
  | none => .next s
  | some w =>
    let cl := s.ev.m / 64
    let core := s.ev.m / 16 % 4
    let lane := s.ev.m % 16
    let home : Bool := match s.block? w.block with | some b => (match b.st with | .resident => b.cl == cl && b.core == core | _ => false) | none => false
    let saved : Bool := match w.loc with | .saved _ => true | _ => false
    if saved ∧ home ∧ !w.trapsTaken ∧ s.logRoom w s.ev.m ∧ (s.laneWaves cl core lane).length < 8 ∧ w.needs ≤ s.freeGranules cl core lane then
      .next (s.restoreWave w cl core lane)
    else .next s

/-! ## Register growth (R137, R138) -/

/-- A granted growth: the allocation is the target, and the wave's threads that wait for it go on. -/
def Wave.grow (now : Nat) (w : Wave) : Wave :=
  Wave.mapArchAll { w with threads := w.threads.map (Thread.cut w.alloc), alloc := max w.alloc w.vgt, vgt := 0 } fun th => match th.cond with | .blocked (.vgrow _) => th.wakeNext now | _ => th

/-- The waves of a lane with a growth pending, the oldest request. -/
def oldestGrow (ws : List Wave) : Option Wave := leastBy (·.vgAge) (ws.filter fun w => w.vgt != 0)

/-- The wave a lane saves to cover a request (R138): the youngest blocked in VGROW other than the requester, the youngest other blocked
wave, the requester. -/
def State.growVictim (s : State) (ws : List Wave) (r : Wave) : Wave :=
  let youngest (l : List Wave) : Option Wave := leastBy (fun v => s.nextId - v.age) l
  match youngest (ws.filter fun w => w.id != r.id && w.vgt != 0) with
  | some w => w
  | none => match youngest (ws.filter fun w => w.id != r.id && s.allBlocked w) with | some w => w | none => r

/-- VGROW_GRANT (R138; n: lane): the oldest request of a lane is granted when the free granules cover it; else episodes end, and on a lane
that is wholly blocked a wave is saved. -/
def execVgrowGrant (s : State) : Out :=
  let cl := s.ev.n / 64
  let core := s.ev.n / 16 % 4
  let lane := s.ev.n % 16
  let ws := s.laneWaves cl core lane
  match oldestGrow ws with
  | none => .next s
  | some r =>
    if r.vgt ≤ r.alloc + 8 * s.freeGranules cl core lane then .next (s.mapWave r.id (Wave.grow s.cycle))
    else
      let s := ws.foldl (fun s w => s.mapWave w.id Wave.endEpisode) s
      let ws := s.laneWaves cl core lane
      if r.vgt ≤ r.alloc + 8 * s.freeGranules cl core lane then .next (s.mapWave r.id (Wave.grow s.cycle))
      else if ws.any (fun w => w.saveReq.isSome) ∨ !(ws.all fun w => (List.range w.threads.length).all fun t => s.stand w t != .run) then .next s
      else .next (s.askSave (s.growVictim ws r).id)

/-! ## Fumarole episodes (R283 to R286) -/

/-- The latency of R8 from a core's cluster to the home slice of an address: own slice, same die, other die. -/
def homeLatency (cl a : Nat) : Nat := let h := homeSlice a; if h = cl then 140 else if h / 32 = cl / 32 then 220 else 380

/-- The predicted latency of a load (R283); none where the load starts no episode. -/
def State.predicted (s : State) (cl : Nat) (a : Access) : Option Nat :=
  if !s.beyond a ∨ a.entry.isSome then none
  else if pkgOf a.pa ≠ s.fab.pkg then
    (s.chooseRoute (pkgOf a.pa) 1).map fun r => 4800 + 8000 * (r.arrive - s.fab.slotnow.toNat)
  else
    match regionOf (localOf a.pa) with
    | .hbm => some (homeLatency cl (localOf a.pa) + 600)
    | .lpddr => some (homeLatency cl (localOf a.pa) + 1400)
    | _ => none

/-- A thread of a wave is ready (R24). -/
def State.anyReady (s : State) (w : Wave) : Bool := w.resident && w.leaders.any fun x => s.readyAt w x.2 != 0

/-- The load that starts an episode of a wave now, when all the conditions of R283 hold. -/
def State.episodeLoad (s : State) (w : Wave) : Option Access :=
  match w.loc with
  | .lane cl core lane =>
    let ws := s.laneWaves cl core lane
    if w.ilim = 0 ∨ w.episode.isSome ∨ w.saveReq.isSome ∨ ws.any (fun v => v.episode.isSome || v.vgt != 0) ∨
       (List.range w.threads.length).any (s.hasLogged w.id) ∨ ws.any s.anyReady ∨
       8 * s.freeGranules cl core lane < w.alloc then none
    else
      match s.accs.find? fun a => a.isLoad && a.wave == w.id with
      | some a => (match s.predicted cl a with | some n => if w.thr < n then some a else none | none => none)
      | none => none
  | _ => none

/-- The overlay at entry (R284): a copy of the checkpoint; registers that await an access or a command are marked; a thread that is blocked otherwise than on a
register stays. -/
def State.overlay (s : State) (w : Wave) (load : Nat) : Episode :=
  let mine : List (Nat × Nat × Nat) := (s.accs.filter fun a => a.wave == w.id && a.nreg != 0).map (fun a => (a.tid, a.dst, a.nreg)) ++
    (s.cmds.filter fun c => c.wave == w.id && decide (c.dst < 64)).map fun c => (c.tid, c.dst, 1)
  let mark (t : Nat) : Marks :=
    { noMarks with v := mine.foldl (fun b x => if x.1 = t ∧ x.2.1 < 48 then markBits b x.2.1 x.2.2 true else b) 0 }
  { threads := w.threads, k := w.k, marks := (List.range w.threads.length).map mark,
    kmarks := mine.foldl (fun b x => if 48 ≤ x.2.1 then markBits b (x.2.1 - 48) x.2.2 true else b) 0,
    issued := 0, limit := w.ilim, load := load, pfx := w.pfx }

/-- FUMAROLE_ENTRY (R283, R284; n: wave). -/
def execFumaroleEntry (s : State) : Out :=
  match s.wave? s.ev.n with
  | none => .next s
  | some w =>
    match s.episodeLoad w with
    | none => .next s
    | some a =>
      .next ((s.mapWave w.id fun w => { w with episode := some (s.overlay w a.id), turn := none }).mapVd w.vd fun v => { v with episodes := v.episodes + 1 })

/-- The episode of a wave has met its end (R286), but for the instruction limit and the conditions that end it as they arise: its load
has completed, another wave of the lane is ready, or a save request has come. -/
def State.episodeOver (s : State) (w : Wave) : Bool :=
  match w.episode, w.loc with
  | some e, .lane cl core lane =>
    (s.acc? e.load).isNone || w.saveReq.isSome || (s.laneWaves cl core lane).any fun v => v.id != w.id && s.anyReady v
  | _, _ => false

/-- FUMAROLE_EXIT (R286; n: wave): the overlay is dropped, and every thread resumes at its checkpoint. -/
def execFumaroleExit (s : State) : Out :=
  match s.wave? s.ev.n with
  | some w => .next (if s.episodeOver w then s.mapWave w.id Wave.endEpisode else s)
  | none => .next s

end Sys2Proof.Machine
end

