-- ==== Sys2Proof/Machine/EngineOps.lean ====
section
/-!
DEFINITION. The shared operations of commands (R233 to R236, R415): posting a command, the read of its descriptor, an engine's reads and
writes at their homes, and the end of a command. A command's work runs in the events that name it; a home on another package is reached
by one message at a time.
-/

namespace Sys2Proof.Machine

/-! ## Posting (R201, R233) -/

/-- The writer tag of a command of an engine with a number (R201). -/
def State.cmdTag (s : State) (e : Engine) (no : Nat) (w : Wave) (t : Nat) : Word :=
  match e with
  | .copy cl => engineTag s.fab.pkg 0 cl no
  | .sysCopy => engineTag s.fab.pkg 0 0x7F no
  | .coll => engineTag s.fab.pkg 1 0x7F no
  | _ => threadTag s.fab.pkg w.id t

/-- The next command number of an engine, modulo 8,192. -/
def State.nextNo (s : State) : Engine → Nat × State
  | .copy cl => ((s.cluster cl).copyNo, s.mapCluster cl fun c => { c with copyNo := (c.copyNo + 1) % 8192 })
  | .sysCopy => (s.sysNo, { s with sysNo := (s.sysNo + 1) % 8192 })
  | .coll => (s.collNo, { s with collNo := (s.collNo + 1) % 2 ^ 31 })
  | _ => (0, s)

/-- The copy engine of a wave (R233). -/
def Wave.copyEngine (w : Wave) : Engine := match w.loc with | .lane cl _ _ => .copy cl | _ => .sysCopy

/-- A command of thread t (a k register takes the lowest thread's result), with its flags, its operands and its next work due. `held` keeps its threads at
the instruction, blocked until its effect is complete; otherwise they go on. -/
def State.post (s : State) (w : Wave) (i : Instr) (t : Nat) (e : Engine) (op : CmdOp) (a b : DWord) (dst : Nat) (held : Bool)
    (stage : CmdStage) : State :=
  let m := s.actsFor i t
  let (no, s) := s.nextNo e
  let id := s.nextId
  let flags := if held ∨ !i.longLatency then [] else
    (tids m).filterMap fun u => let f := (w.th u).flagOf s.issue.s; if f < 12 then some (u, f) else none
  let c : Cmd :=
    { id := id, no := no, eng := e, wave := w.id, tid := t, mask := m, vd := w.agentVd, ctx := w.ctx, block := w.block, core := w.coreNo,
      flags := flags, op := op, a := a, b := b, bytes := [], dst := if 48 ≤ dst ∧ t ≠ lowest s.issue.mask then 64 else dst, prog := 0, status := 0, deadline := 0, stage := stage, buf := none,
      wtag := s.cmdTag e (no % 8192) w t, pc := s.issue.repPc, level := w.level }
  let s := { s with cmds := s.cmds ++ [c], nextId := id + 1 }
  let s := s.mapWave w.id fun w => flags.foldl (fun w x => w.mapTh x.1 fun th => th.attach x.2) w
  let s := if held then s.blockAt w.id m s.issue.pc (.effect id) else s.advance w.id m
  match stage with | .queued => s.wakeCmd id | _ => s

/-! ## Who an engine is (R202, R235) -/

/-- The KeyID of the world a command belongs to: its block's, or for the event word of a launch that launch's (R250, R391). -/
def State.cmdKey (s : State) (c : Cmd) : Nat :=
  match s.block? c.block with
  | some b => b.keyid
  | none => match c.op with | .evinc uid => (match s.launch? uid with | some l => l.keyid | none => 0) | _ => 0

/-- A command as a requester of translations: the issuing thread's context, the world of its launch, and for a Vent thread the VD it served and the level
it ran at as it posted the command. -/
def State.cmdWho (s : State) (c : Cmd) : Who :=
  let cl := match c.eng with | .copy cl => cl | _ => (match c.op with | .tile cl _ => cl | _ => 128)
  let plain : Who :=
    { vd := c.vd, ctx := c.ctx, key := s.cmdKey c, vent := none, level := .u, lane := none, core := 8192 + cl, cl := cl, spec := false, last := none }
  match s.wave? c.wave with
  | some w => if w.isVent then { s.who w with vd := c.vd, ctx := c.ctx, level := c.level, last := none } else plain
  | none => plain

/-- The context that a command's addresses are translated through, none where they are local (R235, R381). -/
def State.cmdView (s : State) (c : Cmd) : Option (Nat × Nat) := s.view (s.cmdWho c)

/-- The access an engine makes at a home elsewhere or at a window. -/
def State.engineAccess (s : State) (c : Cmd) (kind : AccKind) (va : DWord) (pa key n data : Nat) : Access :=
  { id := s.nextId, wave := c.wave, tid := c.tid, mask := 0, vd := c.vd, ctx := c.ctx, word := 0, pc := 0, kind := kind, va := va, pa := pa, keyid := key,
    size := n, data := BitVec.ofNat 512 data, cmp := 0, psn := 0, dst := 0, nreg := 0, flags := [], cp := 0, core := c.core, nokeep := true,
    stage := .issued, fp := 0, entry := none, wtag := c.wtag, tmask := 0, req := s.nextId, far := false, group := [], page := s.pageOf (s.cmdWho c) va, block := c.block }

/-- An engine's access sent on its way; its command waits for the answer. -/
def State.engineSend (s : State) (c : Cmd) (a : Access) : State :=
  (State.sendOff { s with accs := s.accs ++ [a], nextId := s.nextId + 1 } a.id).mapCmd c.id fun c => { c with stage := .waiting }

/-! ## Reads and writes of an engine (R234, R235) -/

/-- What an engine's access gives: data, an answer to wait for, a fault, or a status. -/
inductive EngRes where
  | data (bs : List Byte) (psn : BitVec 16)
  | wait
  | fault (cls : TrapClass)
  | fail (status : Nat)

/-- Where an access of a command goes: to a home on another package or a window, to its home here, or nowhere, with what it gives then. -/
inductive EngGoal where
  | away (pa key : Nat)
  | here (pa key : Nat)
  | ends (r : EngRes)

/-- An access of a command, resolved (R54, R235, R404). A hidden one outside every range bound here is dropped with NOSHDW (R242). One that misses while the
cluster's walker runs its 8 walks comes again (R322), and one whose memory controller does not serve it now waits for it (R339, R340). -/
def State.engGoal (s : State) (c : Cmd) (k : Kind) (va : DWord) (hidden : Bool) : State × EngGoal :=
  let q := s.cmdWho c
  if hidden ∧ (s.shadowOf q va true).isNone then (s, .ends (.fail 6))
  else if s.walkerBusy q va then (s.wakeCmd c.id, .ends .wait)
  else
    match s.resolve q k va hidden with
    | (s, .fault f) => (s, .ends (.fault f))
    | (s, .ok pa key) =>
      if pkgOf pa ≠ s.fab.pkg ∧ !s.peerUp (pkgOf pa) then (s, .ends (.fail 4))
      else if pkgOf pa ≠ s.fab.pkg ∨ (s.windowAt pa).isSome then (s, .away pa key)
      else
        match regionOf (localOf pa) with
        | .port p => if !s.plat.up.getLsbD p then (s, .ends (.fail 4)) else (s, .here pa key)
        | .device | .unassigned => (s, .ends (.fault .prot))
        | _ =>
          match s.mustWait c.vd (localOf pa / 64) with
          | some n => (s.waitMemory n c.vd (localOf pa / 64) c.event, .ends .wait)
          | none => (s, .here pa key)

/-- n bytes in one line read for a command. The data of a root port are free (log 22). -/
def State.engRead (s : State) (c : Cmd) (kind : AccKind) (va : DWord) (n : Nat) : State × EngRes :=
  match s.engGoal c .read va false with
  | (s, .ends r) => (s, r)
  | (s, .away pa key) => (s.engineSend c (s.engineAccess c kind va pa key n 0), .wait)
  | (s, .here pa key) =>
    match regionOf (localOf pa) with
    | .port _ => ({ s with freeCtr := s.freeCtr + 4 }, .data ((leBytes 64 (portLine s.freeCtr).toNat).take n) 0)
    | _ =>
      let s := s.sliceRead c.vd key (localOf pa / 64) false false
      (s, .data (s.getBytes key (localOf pa) n) (s.mem.poison (localOf pa / 4 * 4) (localOf pa % 4 + n)))

/-- A line of this package that a command is to write is pinned at its home, and no longer pinned once the write is performed (R313). -/
def State.pin (s : State) (id line : Nat) : State := { s with pins := s.pins ++ [(id, line)] }
def State.unpin (s : State) (id line : Nat) : State := { s with pins := s.pins.filter fun x => !(x == (id, line)) }

/-- The lines of this package among n bytes from an address that a command is to write, pinned (R313). -/
def State.pinRange (s : State) (c : Cmd) (va : DWord) (n : Nat) (hidden : Bool) : State :=
  let new := (List.range ((va.toNat % 64 + n + 63) / 64)).filterMap fun i =>
    match (s.resolve (s.cmdWho c) .write (va &&& ~~~63#64 + BitVec.ofNat 64 (64 * i)) hidden).2 with
    | .ok pa _ => if pkgOf pa = s.fab.pkg ∧ isMemory (localOf pa) then some (c.id, localOf pa / 64) else none
    | .fault _ => none
  { s with pins := s.pins ++ new.filter fun x => !s.pins.contains x }

/-- A line that a command has written leaves the caches of its cores (R234, R300). -/
def State.engDrop (s : State) (c : Cmd) (pa : Nat) : State := s.onCores c.wave c.core fun s k => s.dropLine k (pa / 64)

/-- Bytes in one line written for a command; a hidden write goes to a shadowed range's hidden backing (R242). -/
def State.engWrite (s : State) (c : Cmd) (va : DWord) (bs : List Byte) (hidden : Bool) : State × EngRes :=
  match s.engGoal c .write va hidden with
  | (s, .ends r) => (s, r)
  | (s, .away pa key) => (s.engineSend c (s.engineAccess c (.engWrite c.id) va pa key bs.length (leVal bs)), .wait)
  | (s, .here pa key) =>
    match regionOf (localOf pa) with
    | .port p => ({ s with plat := { s.plat with portOut := s.plat.portOut ++ [(p, 1, localOf pa, bs)] } }, .data [] 0)
    | _ => (((s.homeWrite c.vd key (localOf pa) bs).engDrop c pa).unpin c.id (localOf pa / 64), .data [] 0)

/-- How much of n bytes from an address one BULK stores: those of the page, as many as a message holds behind its fields (R357, R366). -/
def bulkRun (va : DWord) (n : Nat) : Nat := min n (min (4096 - va.toNat % 4096) 3560)

/-- Bytes written for a command of an engine: a store of more than 64 bytes to another package travels as BULK (R366), and elsewhere the bytes of the first
line are written. An answer that is awaited counts the bytes that have been written. -/
def State.engStore (s : State) (c : Cmd) (va : DWord) (bs : List Byte) (hidden : Bool) : State × EngRes :=
  let n := bulkRun va bs.length
  let line := bs.take (64 - va.toNat % 64)
  if n ≤ 64 then s.engWrite c va line hidden
  else
    match s.engGoal c .write va hidden with
    | (s, .ends r) => (s, r)
    | (s, .here ..) => s.engWrite c va line hidden
    | (s, .away pa key) =>
      if pkgOf pa = s.fab.pkg then s.engWrite c va line hidden
      else
        ((s.mapCmd c.id fun c => { c with buf := some (bs.take n, 0) }).engineSend c (s.engineAccess c (.engWrite c.id) va pa key n 0), .wait)

/-- An addition of 1 to an 8-byte word as ATADD.w64 at .pod with release (R244, R250): a port takes none. -/
def State.engAdd (s : State) (c : Cmd) (va : DWord) : State × EngRes :=
  match s.engGoal c .atomic va false with
  | (s, .ends r) => (s, r)
  | (s, .away pa key) => (s.engineSend c (s.engineAccess c (.engAtom c.id) va pa key 8 1), .wait)
  | (s, .here pa key) =>
    match regionOf (localOf pa) with
    | .port _ => (s, .fault .prot)
    | _ =>
      let la := localOf pa
      ((s.homeWrite c.vd key la (leBytes 8 (leVal (s.getBytes key la 8) + 1))).engDrop c pa, .data [] 0)

/-- The physical address a command's access of an address reaches, for its entry (R265). -/
def State.physOf (s : State) (c : Cmd) (va : DWord) : DWord :=
  match (s.resolve (s.cmdWho c) .read va false).2, (s.resolve (s.cmdWho c) .write va false).2 with
  | .ok pa _, _ | _, .ok pa _ => BitVec.ofNat 64 pa
  | _, _ => va

/-- What an engine finds before it writes n bytes where all of them have to be mapped writable: the first page that is not, and the status
for it. A read-duplicate page is mapped writable, and its write waits for the service. -/
def State.destFault (s : State) (c : Cmd) (va : DWord) (n : Nat) (hidden : Bool) : Option (Nat × DWord) :=
  (List.range ((va.toNat % 4096 + n + 4095) / 4096)).findSome? fun i =>
    let a := if i = 0 then va else BitVec.ofNat 64 ((va.toNat / 4096 + i) * 4096)
    if hidden ∧ (s.shadowOf (s.cmdWho c) a true).isNone then some (6, a)
    else match (s.resolve (s.cmdWho c) .write a hidden).2 with | .ok .. => none | .fault f => if f = .rdw then none else some (2, a)

/-- An access of a command's engine is on its way. -/
def State.cmdBusy (s : State) (id : Nat) : Bool :=
  s.accs.any fun a => match a.kind with | .engRead c | .engWrite c | .engAtom c => c == id | _ => false

/-! ## The end of a command (R235) -/

/-- The class of an error entry for a status. -/
def statusClass (n : Nat) : TrapClass := match n with | 3 => .ecc | 4 => .absent | 7 => .opref | _ => .prot

/-- What an ABSENT entry names for a physical address: the package, or on this one the root port (R404). -/
def absentAt (pa pkg : Nat) : Nat := if pkgOf pa ≠ pkg then pkgOf pa else match regionOf (localOf pa) with | .port n => 0x80000000 + n | _ => pkg

/-- What the entry of a status at an address carries (R265, R397): its information, its address, and whether that is physical. -/
def State.statusInfo (s : State) (c : Cmd) (status : Nat) (addr : DWord) : Word × DWord × Bool :=
  match status with
  | 3 => let pa := s.physOf c addr; (lowWord pa, pa, true)
  | 4 => (BitVec.ofNat 32 (absentAt (s.physOf c addr).toNat s.fab.pkg), addr, false)
  | _ => (lowWord addr, addr, false)

/-- A command has met a failure and goes on: the first one stays its status (R235). -/
def Cmd.noteWith (c : Cmd) (status : Nat) (info : Word) (addr : DWord) : Cmd :=
  if c.status % 256 ≠ 0 then c else { c with status := c.status + status, info := info, bad := addr }
def State.noteFail (s : State) (id status : Nat) (addr : DWord) : State :=
  match s.cmd? id with
  | some c => let x := s.statusInfo c status addr; s.mapCmd id fun c => c.noteWith status x.1 x.2.1
  | none => s

/-- A command ends with a status, whose entry carries some information and an address: the entry and ERRSTAT.EF for one other than OK, its flags, and
what it does to its wave. -/
def State.endWith (s : State) (c : Cmd) (status : Nat) (x : Word × DWord × Bool) (f : Wave → Wave) : State :=
  let s := s.dropCmd c.id
  let s := if status = 0 then s else s.logErr c.vd (statusClass status) status c.wtag x.1 x.2.1 x.2.2 (s.cmdKey c)
  s.onWave c.wave fun w =>
    let w := f w
    (if status = 0 then w else w.mapArch c.mask fun th => th.setErr eEF).detachAll c.flags s.cycle

/-- A command ends with a status that it has noted before, or that it meets at an address. -/
def State.endCmd (s : State) (c : Cmd) (status : Nat) (addr : DWord) (f : Wave → Wave) : State :=
  s.endWith c status (if status ≠ 0 ∧ c.status % 256 = status then (c.info, c.bad, status == 3) else s.statusInfo c status addr) f

/-- The register a command writes. -/
def Cmd.give (c : Cmd) (x : Word) (w : Wave) : Wave := if c.dst < 64 then w.deliver c.tid c.dst ⟨x, false⟩ else w

/-- The threads that wait for the command's effect go on. -/
def Cmd.release (c : Cmd) (now : Nat) (w : Wave) : Wave :=
  w.mapArch c.mask fun th => match th.cond with | .blocked (.effect i) => if i = c.id then th.wakeNext now else th | _ => th

/-- A PAGE or RDW fault of a command waits for the service (R235). -/
def State.faultCmd (s : State) (c : Cmd) (va : DWord) (cls : TrapClass) (write : Bool) : State :=
  (s.mapCmd c.id fun c => { c with stage := .faulted va cls write }).faultRequest (if write then 5 else 4) cls c.vd c.ctx va c.wtag

/-! ## Descriptors (R163, R196, R238, R415) -/

/-- The faults that the lines of a descriptor meet, up to the first that is not resolvable. -/
def State.descScan (s : State) (q : Who) (va : DWord) : Nat → State × List (DWord × TrapClass)
  | 0 => (s, [])
  | n + 1 =>
    match s.resolve q .read va false with
    | (s, .ok _ _) => State.descScan s q (va + 64) n
    | (s, .fault c) =>
      if c = .page ∨ c = .rdw then
        match State.descScan s q (va + 64) n with
        | (s, l) => (s, (va, c) :: l)
      else (s, [(va, c)])

/-- A fault that the read of a descriptor meets after its instruction has issued is its thread's, as a load's is: PAGE and RDW go to the service, and
another class traps the thread, with nothing posted (R163, R196). -/
def State.descFault (s : State) (c : Cmd) (va : DWord) (f : TrapClass) : State :=
  if f = .page ∨ f = .rdw then (s.mapCmd c.id fun c => { c with stage := .faulted va f false }).faultRequest 0 f c.vd c.ctx va c.wtag
  else (s.unpost c).raiseNow c.wave c.tid f 0 (lowWord va) c.pc va

/-- The descriptor of a command read on, a line at a time, until it has its bytes: whether it has them. `status` 2 or 258 before that: the service has
refused a page of it. -/
def State.readDesc (s : State) (c : Cmd) (size : Nat) : Nat → State × Bool
  | 0 => (s, false)
  | fuel + 1 =>
    match s.cmd? c.id with
    | none => (s, false)
    | some c =>
      let got := c.bytes.length
      let va := c.a + BitVec.ofNat 64 got
      let n := min (64 - va.toNat % 64) (size - got)
      if size ≤ got then (s, true)
      else if c.stage ≠ .queued then (s, false)
      else if c.status = 2 ∨ c.status = 258 then (s.descFault c va .prot, false)
      else if c.status ≠ 0 then ((s.mapCmd c.id fun c => { c with bytes := c.bytes ++ zeros (size - got) }), true)
      else
        match s.engRead c (.desc c.id) va n with
        | (s, .data bs psn) =>
          let s := if psn = 0 ∨ c.buf.isSome then s
            else s.mapCmd c.id fun x => { x with info := lowWord (s.physOf c va), bad := s.physOf c va, buf := some ([], psn) }
          State.readDesc (s.mapCmd c.id fun c => { c with bytes := c.bytes ++ bs }) c size fuel
        | (s, .wait) => (s, false)
        | (s, .fault f) => (s.descFault c va f, false)
        | (s, .fail x) => ((s.noteFail c.id x va).readDesc c size fuel)

/-- A command whose descriptor is read by thread t as a load (R163): its alignment and its translation are checked, and it is posted; a PAGE or RDW fault
of a line is held in the operand log with it. What lies in local memory is read at once (R238). -/
def State.postWithDesc (s : State) (w : Wave) (i : Instr) (t : Nat) (e : Engine) (op : CmdOp) (va b : DWord) (dst size : Nat) (held : Bool)
    (entry : Option Nat) : State :=
  let q := s.who w
  if va.toNat % min size 64 ≠ 0 then s.trapFor w i t .align 0 (lowWord va) va
  else if s.walkerBusy q va then s.mapWave w.id fun w => w.mapMask (s.actsFor i t) fun th => { th with pc := s.issue.repPc }
  else
    match s.descScan q va ((size + 63) / 64) with
    | (s, []) =>
      let id := s.nextId
      let s := s.post w i t e op va b dst held .queued
      (match s.cmd? id with | some c => (s.readDesc c size 8).1 | none => s)
    | (s, (x, c) :: l) =>
      if (c = .page ∨ c = .rdw) ∧ !w.isVent then
        match entry with
        | none => s.blockAt w.id (s.actsFor i t) s.issue.repPc .logfull
        | some n =>
          let id := s.nextId
          let s := s.post w i t e op va b dst held .waiting
          (((x, c) :: l).filter fun y => y.2 == .page || y.2 == .rdw).foldl (fun s y =>
            let a := { s.newAccess w i t (.desc id) y.1 (min size 64) with flags := [], stage := .logged n y.2, entry := some n }
            State.faultRequest { s with accs := s.accs ++ [a], nextId := s.nextId + 1 } 0 y.2 a.vd a.ctx y.1 a.wtag) s
      else s.trapFor w i t c 0 (lowWord x) x

/-- The descriptor was read under an uncorrectable error. -/
def Cmd.poisoned (c : Cmd) : Bool := match c.buf with | some (_, p) => p != 0 | none => false

/-- The end of a command whose descriptor's read failed: with ECC, or with the status it noted; none where the descriptor is there. -/
def State.descEnd (s : State) (c : Cmd) (f : Wave → Wave) : Option State :=
  if c.poisoned then some (s.endWith c 3 (c.info, c.bad, true) f)
  else if c.status ≠ 0 then some (s.endCmd c (c.status % 256) c.a f)
  else none

/-- The common form of an instruction that posts a command: the role it needs (R220), the poison of its operands in order of position, a place for it
(a thread that finds none waits: R233, R249), then `act` for each thread it posts for. -/
def postEach (i : Instr) (copyRole : Bool) (ops : Wave → Thread → List (Nat × Bool)) (act : State → Wave → Nat → Option Nat → State) (s : State) : Out :=
  skipAhead i (fun s w =>
    let e := s.logEntry w
    let barred := !copyRole && (match w.role with | .copy => true | _ => false)
    s.each i (fun s t =>
      if barred then s.trapFor w i t .prot 0 0 0
      else
        match firstPoison (ops w (w.th t)) with
        | some pos => s.poisonTrap w i t pos
        | none =>
          if s.room w t i then act s w t e
          else s.mapWave w.id fun w => w.mapMask (s.actsFor i t) fun th => { th with pc := s.issue.repPc })) s

end Sys2Proof.Machine
end

