-- ==== Sys2Proof/Machine/OperatorOps.lean ====
section
/-!
DEFINITION. Operator windows (R191 to R218): descriptors and permissions, installing, freeing and swapping, the input and output window
slots, fires, and the SIMT-side instructions.
-/

namespace Sys2Proof.Machine

/-! ## Descriptors (R191 to R195) -/

/-- The fields of an operator descriptor. -/
structure OpDesc where
  m : Nat
  k : Nat
  wf : BFmt
  xf : BFmt
  of : Nat
  mode : Nat
  iwb : Nat
  slots : Nat
  iws : Nat
  owb : Nat
  ows : Nat
  limit : Nat
  place : Nat
  wsrc : Nat
  key : Nat
deriving DecidableEq, Repr

def OpDesc.ofBytes (d : List Byte) : OpDesc :=
  { m := field d 0 2, k := field d 2 2, wf := BFmt.ofCode (field d 4 1), xf := BFmt.ofCode (field d 5 1), of := field d 6 1, mode := field d 7 1,
    iwb := field d 8 8, slots := field d 16 4, iws := field d 20 4, owb := field d 24 8, ows := field d 32 4, limit := field d 36 2,
    place := field d 38 1, wsrc := field d 40 8, key := field d 48 2 }

def Operator.d (o : Operator) : OpDesc := OpDesc.ofBytes o.desc

/-- The float format of an output code; none for raw INT32 (R191: a float code of R100). -/
def OpDesc.outFmt (d : OpDesc) : Option BFmt := if d.of = 0x80 then none else some (BFmt.ofCode d.of)

/-- Elements in 64 bytes of output. -/
def OpDesc.outCount (d : OpDesc) : Nat := match d.outFmt with | some f => f.count | none => 16

/-- Bytes of an input vector, of an output, of a weight row. -/
def OpDesc.inBytes (d : OpDesc) : Nat := 64 * blocksFor d.xf d.k
def OpDesc.outBytes (d : OpDesc) : Nat := if d.outCount = 0 then 0 else 64 * ((d.m + d.outCount - 1) / d.outCount)
def OpDesc.rowBytes (d : OpDesc) : Nat := 64 * blocksFor d.wf d.k

/-- Bytes of an input vector and of a weight row as an OE holds them, with the marks of their bytes. -/
def OpDesc.inUnits (d : OpDesc) : Nat := blkUnit * blocksFor d.xf d.k
def OpDesc.rowUnits (d : OpDesc) : Nat := blkUnit * blocksFor d.wf d.k

/-- Clusters of the stripe, and the rows of each member (R195). -/
def OpDesc.span (d : OpDesc) : Nat := 2 ^ (d.place % 8)
def OpDesc.share (d : OpDesc) : Nat := (d.m + d.span - 1) / d.span
def OpDesc.rowsOf (d : OpDesc) (i : Nat) : Nat := min d.m ((i + 1) * d.share) - min d.m (i * d.share)

/-- A permission entry is valid (R193, R194). -/
def permOk (e : Word) : Bool := e &&& 0x0CC08080 == 0 && !(e.getLsbD 29 && e.getLsbD 28)

/-- A descriptor is valid (R194). -/
def descOk (bs : List Byte) : Bool :=
  let d := OpDesc.ofBytes bs
  let fmtOk (f : BFmt) : Bool := f.count != 0
  decide (1 ≤ d.m) && decide (1 ≤ d.k) && fmtOk d.wf && fmtOk d.xf &&
    (match d.outFmt with | some f => fmtOk f && !f.isInt | none => d.wf.isInt && d.xf.isInt) &&
    decide (d.mode < 8) && decide (d.iwb % 64 = 0) && decide (1 ≤ d.slots) && decide (d.slots ≤ 4096) && decide (d.iws % 64 = 0) &&
    decide (d.inBytes ≤ d.iws) && decide (d.owb % 64 = 0) && decide (d.ows % 64 = 0) && decide (d.outBytes ≤ d.ows) && decide (d.place ≤ 5) &&
    decide (field bs 39 1 = 0) && decide (d.wsrc % 64 = 0) && decide (d.key < 512) && decide (field bs 50 14 = 0) && decide (field bs 96 32 = 0) &&
    (List.range 8).all fun i => permOk (BitVec.ofNat 32 (field bs (64 + 4 * i) 4))

/-- An agent of a package and VD is admitted for loads or for stores (R193). -/
def Operator.admits (o : Operator) (own pkg vd : Nat) (load : Bool) : Bool :=
  o.perm.any fun e =>
    e.getLsbD 31 && e.getLsbD (if load then 25 else 24) &&
    (if e.getLsbD 30 then pkg == own else BitVec.ofNat 7 pkg &&& e.extractLsb' 8 7 == e.extractLsb' 0 7 &&& e.extractLsb' 8 7) &&
    (e.getLsbD 28 || (if e.getLsbD 29 then vd == o.vd else (e.extractLsb' 16 6).toNat == vd))

/-! ## Operators by name -/

def State.op? (s : State) (uid : Nat) : Option Operator := s.ops.find? fun o => o.uid == uid
def State.mapOp (s : State) (uid : Nat) (f : Operator → Operator) : State := { s with ops := mapIf (fun o => o.uid == uid) f s.ops }

/-- The operator a handle names in a context (R214). -/
def State.handleOp (s : State) (vd ctx h : Nat) : Option Operator := s.ops.find? fun o => o.vd == vd && o.ctx == ctx && o.handle == h

def Operator.inSlot (o : Operator) (j : Nat) : IwSlot := (o.ins.find? fun x => x.slot == j).getD ⟨j, .empty, 0, 0, 0, [], []⟩
def Operator.outSlot (o : Operator) (j : Nat) : OwSlot := (o.outs.find? fun x => x.slot == j).getD ⟨j, false, 0, [], false, []⟩
def Operator.setIn (o : Operator) (x : IwSlot) : Operator :=
  let l := o.ins.filter fun y => y.slot != x.slot
  { o with ins := match x.st with | .empty => l | _ => x :: l }
def Operator.setOut (o : Operator) (x : OwSlot) : Operator := { o with outs := x :: o.outs.filter fun y => y.slot != x.slot }

/-- The bytes of the bank in use. -/
def Operator.active (o : Operator) : List Byte := ((if o.bank then o.bankB else o.bankA).getD [])
def Operator.spare (o : Operator) : Option (List Byte) := if o.bank then o.bankA else o.bankB

/-- The KeyID of the world an operator's agent belongs to counts in R399; an operator's errors are its installer's. -/
def State.opErr (s : State) (o : Operator) (cls : TrapClass) (reason : Nat) (tag info : Word) (addr : DWord) : State :=
  s.logErr o.vd cls reason tag info addr false o.d.key

/-! ## Installing (R196 to R198) -/

/-- The clusters an operator of this descriptor would occupy (R195). -/
def OpDesc.members (d : OpDesc) (cl : Nat) : List Nat := (List.range d.span).map fun i => cl / d.span * d.span + i

/-- A cluster is one of the VD's partition and is not being retired. -/
def State.usable (s : State) (vd cl : Nat) : Bool :=
  match s.partOf vd with
  | some p => (match (s.part p).desc with | some d => d.quads.getLsbD (cl / 4) | none => false) && !(s.cluster cl).retiring && decide (cl < 128)
  | none => false

/-! ### The operator store (R198, R311) -/

/-- Bytes of weights on a slice for an operator with a lead and a descriptor, for a number of banks. -/
def OpDesc.onSlice (d : OpDesc) (lead sl banks : Nat) : Nat :=
  match (List.range d.span).find? fun i => lead + i == sl with
  | some i => banks * d.rowsOf i * d.rowBytes
  | none => 0

/-- The banks an operator occupies, one swapped out and still in use among them. -/
def Operator.banks (o : Operator) : Nat := (if o.bankA.isSome then 1 else 0) + (if o.bankB.isSome then 1 else 0) + if o.old then 1 else 0

/-- The lead of an operator that a command installs. -/
def Cmd.lead (c : Cmd) : Nat := let n := (OpDesc.ofBytes c.bytes).span; c.core / 4 / n * n

/-- An install that has passed its checks and reads its weights. -/
def Cmd.installing (c : Cmd) : Bool := (match c.op with | .opinst => true | _ => false) && decide (1 ≤ c.prog)

/-- The descriptor asks for the load of an inactive bank (R192). -/
def OpDesc.second (d : OpDesc) : Bool := decide (d.mode / 4 % 2 = 1)

/-- Bytes of operator store in use on a slice under a KeyID: the banks of its operators, of those freed whose fires still run (R199), and those being loaded. -/
def State.storeBytes (s : State) (sl key : Nat) : Nat :=
  ((s.ops ++ s.freed).filter fun o => o.d.key == key).foldl (fun n o => n + o.d.onSlice o.lead sl o.banks) 0 +
  (s.cmds.filter Cmd.installing).foldl (fun n c =>
    match s.handleOp c.vd c.ctx c.b.toNat with
    | some o => if o.d.key = key then n + o.d.onSlice o.lead sl (if o.spare.isSome then 0 else 1) else n
    | none => let d := OpDesc.ofBytes c.bytes; if d.key = key then n + d.onSlice c.lead sl 1 else n) 0

/-- Ways of 2 MiB that the operators of a KeyID need on a slice, with so many bytes more. -/
def State.storeWays (s : State) (sl key more : Nat) : Nat := (s.storeBytes sl key + more + 2 ^ 21 - 1) / 2 ^ 21

/-- Ways of a slice to lock for so many bytes more. -/
def State.storeMore (s : State) (sl key more : Nat) : Nat := s.storeWays sl key more - (s.waysOf sl (.store key)).length

/-- A slice may lock them: it holds at most 12 ways for operators, and keeps what R311 and R344 ask of its shared ways. -/
def State.storeRoom (s : State) (sl key more : Nat) : Bool :=
  let n := s.storeMore sl key more
  let held := ((List.range 16).filter fun w => match s.wayUse sl w with | some (.store _) => true | _ => false).length
  decide (n = 0) || (decide (held + n ≤ 12) && s.mayTake sl n)

/-- Ways that no operator occupies any more return to shared use (R198, R311). -/
def State.trimStore (s : State) : State :=
  ((s.ways.filterMap fun x => match x.2 with | .store k => some (x.1.1, k) | _ => none).eraseDups).foldl
    (fun s x => s.freeWays x.1 (.store x.2) (s.storeWays x.1 x.2 0)) s

/-- One line of a window translated with kind write: its block, and whether its KeyID is another; none where it breaks WINDOW (R196, R197). -/
def State.bindLine (s : State) (c : Cmd) (va : DWord) (key : Nat) : State × Option (Nat × Bool) :=
  let q := s.cmdWho c
  match s.translate q .write va with
  | (s, .fault _) => (s, none)
  | (s, .ok pa k) =>
    let bad := pkgOf pa ≠ s.fab.pkg ∨ !(isMemory (localOf pa)) ∨ (s.shadowOf q va false).isSome ∨ s.shadowFrame pa
      ∨ s.reservedFrame (localOf pa) ∨ s.foreign (s.partOfWho q) pa
    (s, if bad then none else some (localOf pa / 64, k != key))

/-- The lines of a window from an address on, n of them; none where one breaks WINDOW. -/
def State.bindLines (s : State) (c : Cmd) (va : DWord) (key : Nat) : Nat → State × Option (List (Nat × Bool))
  | 0 => (s, some [])
  | n + 1 =>
    match s.bindLine c va key with
    | (s, none) => (s, none)
    | (s, some x) => match State.bindLines s c (va + 64) key n with | (s, l) => (s, l.map fun l => x :: l)

/-- Whether two lists of blocks meet. -/
def meets (a b : List Nat) : Bool := a.any fun x => b.contains x

/-- The blocks of the windows of an install under way, which follow its descriptor as 8 bytes each, and the bytes before its weights. -/
def OpDesc.windowBlocks (d : OpDesc) : Nat × Nat := if d.second then (0, 0) else (d.slots * d.iws / 64, d.slots * d.ows / 64)
def OpDesc.head (d : OpDesc) : Nat := 128 + 8 * (d.windowBlocks.1 + d.windowBlocks.2)
def Cmd.windows (c : Cmd) : List Nat :=
  let d := OpDesc.ofBytes c.bytes
  (List.range (d.windowBlocks.1 + d.windowBlocks.2)).map fun n => field c.bytes (128 + 8 * n) 8

/-- The checks of an install before its weights are read, in the order of R197: the reason of the first that fails, or the blocks of its
windows. With BANK = 1 the fields that R196 ignores are not looked at; WSRC is among those that are, so one that is no multiple of 64 breaks R194 there too
(R196 does not say which fields are the ignored ones; DESIGN CHOICE, log 82). -/
def State.checkInstall (s : State) (c : Cmd) : State × (Nat ⊕ (List Nat × List Nat)) :=
  let bs := c.bytes.take 128
  let d := OpDesc.ofBytes bs
  let h := c.b.toNat
  let old := s.handleOp c.vd c.ctx h
  let under := s.cmds.filter fun e => e.installing && e.id != c.id
  if (if d.second then decide (d.wsrc % 64 ≠ 0) else !descOk bs) then (s, .inl 0x10)
  else if 255 < h then (s, .inl 0x11)
  else if d.second then
    match old with
    | none => (s, .inl 0x11)
    | some o =>
      let e := o.d
      if e.m ≠ d.m ∨ e.k ≠ d.k ∨ e.wf ≠ d.wf ∨ e.xf ≠ d.xf ∨ e.of ≠ d.of then (s, .inl 0x16)
      else if o.spare.isNone ∧ (List.range e.span).any (fun i => !s.storeRoom (o.lead + i) e.key (e.rowsOf i * e.rowBytes)) then (s, .inl 0x12)
      else (s, .inr ([], []))
  else if old.isSome ∨ under.any (fun e => e.vd == c.vd && e.ctx == c.ctx && e.b == c.b && !(OpDesc.ofBytes e.bytes).second) then (s, .inl 0x11)
  else
    let ms := d.members (c.core / 4)
    let full (m : Nat) : Bool := decide (64 ≤ (s.ops.filter fun o => (o.d.members o.lead).contains m).length +
      (under.filter fun e => !(OpDesc.ofBytes e.bytes).second && ((OpDesc.ofBytes e.bytes).members e.lead).contains m).length)
    if ms.any fun m => !s.usable c.vd m then (s, .inl 0x17)
    else if (List.range d.span).any (fun i => !s.storeRoom (c.lead + i) d.key (d.rowsOf i * d.rowBytes)) ∨ ms.any full then (s, .inl 0x12)
    else
      match s.bindLines c (BitVec.ofNat 64 d.iwb) d.key (d.slots * d.iws / 64) with
      | (s, none) => (s, .inl 0x13)
      | (s, some iw) =>
        match s.bindLines c (BitVec.ofNat 64 d.owb) d.key (d.slots * d.ows / 64) with
        | (s, none) => (s, .inl 0x13)
        | (s, some ow) =>
          let li := iw.map (·.1)
          let lo := ow.map (·.1)
          if meets li lo ∨ s.ops.any (fun o => meets (li ++ lo) (o.iw ++ o.ow)) ∨ under.any (fun e => meets (li ++ lo) e.windows) then (s, .inl 0x13)
          else if (iw ++ ow).any (·.2) then (s, .inl 0x14)
          else (s, .inr (li, lo))

/-- The operator store for an install that may go on, locked on every member; none while a pinned line keeps a way from it (R311). -/
def State.takeStore (s : State) (c : Cmd) : Option State :=
  let (lead, d, need) := match s.handleOp c.vd c.ctx c.b.toNat with
    | some o => (o.lead, o.d, o.spare.isNone)
    | none => (c.lead, OpDesc.ofBytes c.bytes, true)
  if !need then some s
  else
    (List.range d.span).foldl (fun r i => r.bind fun s =>
      let n := s.storeMore (lead + i) d.key (d.rowsOf i * d.rowBytes)
      if n = 0 then some s else s.takeWays (lead + i) (.store d.key) n) (some s)

/-- A page of some bytes misses every structure while the cluster's walker runs its 8 walks (R322). -/
def State.pagesBusy (s : State) (c : Cmd) (va n : Nat) : Bool :=
  (List.range ((va % 4096 + n + 4095) / 4096)).any fun i => s.walkerBusy (s.cmdWho c) (BitVec.ofNat 64 ((va / 4096 + i) * 4096))

/-- A page of the windows of an install does. -/
def State.windowsBusy (s : State) (c : Cmd) : Bool :=
  let d := OpDesc.ofBytes c.bytes
  !d.second && decide (d.slots ≤ 4096) && (s.pagesBusy c d.iwb (d.slots * d.iws) || s.pagesBusy c d.owb (d.slots * d.ows))

/-- A failed OPINST, OPFREE or OPSWAP, or a range error of an operator instruction (R197, R214): EF, and the entry. -/
def State.failOp (s : State) (c : Cmd) (reason : Nat) (f : Wave → Wave) : State :=
  let s := (s.dropCmd c.id).logErr c.vd .opref reason c.wtag (BitVec.ofNat 32 reason) 0 false (s.cmdKey c)
  s.onWave c.wave fun w => ((f w).mapArch c.mask fun th => th.setErr eEF).detachAll c.flags s.cycle

/-- The pages of an install's weights looked at before they are read: one has another KeyID, one faults (R197: KEY goes before FETCH). -/
def State.weightScan (s : State) (c : Cmd) (key va stop : Nat) : Nat → State × Bool × Bool
  | 0 => (s, false, false)
  | n + 1 =>
    if stop ≤ va then (s, false, false)
    else
      match s.translate (s.cmdWho c) .read (BitVec.ofNat 64 va) with
      | (s, r) =>
        match State.weightScan s c key ((va / 4096 + 1) * 4096) stop n with
        | (s, k, f) => (s, k || (match r with | .ok _ x => x != key | .fault _ => false), f || (match r with | .ok .. => false | .fault _ => true))

/-- The weights of an install read on, line by line: whether all are there, or the reason of R197 that ends it. KeyIDs are compared before
R391 applies. A marked word of a line stays with its block (R112). -/
def State.readWeights (s : State) (c : Cmd) (key total head : Nat) : Nat → State × Option (Option Nat)
  | 0 => (s, none)
  | fuel + 1 =>
    match s.cmd? c.id with
    | none => (s, none)
    | some c =>
      let take (s : State) (bs : List Byte) (psn : BitVec 16) : State :=
        s.mapCmd c.id fun c => { c with bytes := c.bytes ++ blkMarks bs (fun n => psn.getLsbD (n / 4)), buf := none }
      let got := (c.bytes.length - head) / blkUnit * 64
      if 256 ≤ c.status then (s, some (some 0x15))
      else if total ≤ got then (s, some none)
      else
        match c.buf with
        | some (bs, psn) => State.readWeights (take s bs psn) c key total head fuel
        | none =>
          let va := BitVec.ofNat 64 ((OpDesc.ofBytes c.bytes).wsrc + got)
          if s.walkerBusy (s.cmdWho c) va then (s.wakeCmd c.id, none) else
          match s.translate (s.cmdWho c) .read va with
          | (s, .fault _) => (s, some (some 0x15))
          | (s, .ok _ k) =>
            if k ≠ key then (s, some (some 0x14))
            else
              match s.engRead c (.engRead c.id) va 64 with
              | (s, .data bs psn) =>
                let s := if psn = 0 then s else s.eccReport c.vd (s.cmdKey c) (s.physOf c va).toNat
                State.readWeights (take s bs psn) c key total head fuel
              | (s, .wait) => (s, none)
              | (s, .fault _) | (s, .fail _) => (s, some (some 0x15))

/-- An install under way fails with a reason, and what it held of the store is released. -/
def State.failInstall (s : State) (c : Cmd) (reason : Nat) : State := (s.failOp c reason id).trimStore

/-- An install whose checks have passed goes on: its weights are looked at, then read, and the operator is there. -/
def State.installRun (s : State) (c : Cmd) : State :=
  let d := OpDesc.ofBytes c.bytes
  let old := if d.second then s.handleOp c.vd c.ctx c.b.toNat else none
  if d.second ∧ old.isNone then s.failInstall c 0x11
  else
    let key := match old with | some o => o.d.key | none => d.key
    let total := d.m * d.rowBytes
    if c.prog = 1 ∧ s.pagesBusy c d.wsrc total then s.wakeCmd c.id else
    match (if c.prog = 1 then s.weightScan c key d.wsrc (d.wsrc + total) (total / 4096 + 2) else (s, false, false)) with
    | (s, true, _) => s.failInstall c 0x14
    | (s, false, true) => s.failInstall c 0x15
    | (s, false, false) =>
      match (s.mapCmd c.id fun c => { c with prog := 2 }).readWeights c key total d.head (total / 64 + 2) with
      | (s, none) => s
      | (s, some (some r)) => s.failInstall c r
      | (s, some none) =>
        match s.cmd? c.id with
        | none => s
        | some c =>
          let bank := c.bytes.drop d.head
          let s := match old with
            | some o => s.mapOp o.uid fun o => if o.bank then { o with bankA := some bank } else { o with bankB := some bank }
            | none =>
              let o : Operator :=
                { uid := s.nextId, handle := c.b.toNat, vd := c.vd, ctx := c.ctx, lead := c.lead, desc := c.bytes.take 128,
                  iw := c.windows.take d.windowBlocks.1, ow := c.windows.drop d.windowBlocks.1, bank := false, bankA := some bank, bankB := none,
                  perm := (List.range 8).map fun i => BitVec.ofNat 32 (field c.bytes (64 + 4 * i) 4), ins := [], outs := [], old := false }
              { s with nextId := s.nextId + 1, ops := s.ops ++ [o] }
          s.endCmd c 0 0 id

/-- A descriptor's read that failed or found an uncorrectable error: nothing is sent to the OE (R196). -/
def State.failDesc (s : State) (c : Cmd) : State :=
  let s := (s.dropCmd c.id).logErr c.vd (if c.poisoned then .ecc else statusClass (c.status % 256)) 0 c.wtag c.info c.bad c.poisoned (s.cmdKey c)
  s.onWave c.wave fun w => (w.mapArch c.mask fun th => th.setErr (if c.poisoned then eEF ||| ePL else eEF)).detachAll c.flags s.cycle

/-- A lower-numbered thread of the bundle has an install of the same handle that is not judged yet (R196). -/
def State.installBehind (s : State) (c : Cmd) : Bool :=
  s.cmds.any fun e => (match e.op with | .opinst => true | _ => false) && decide (e.prog = 0) && decide (e.id < c.id) && e.wave == c.wave && e.pc == c.pc &&
    e.b == c.b

/-- The installs that are not judged yet go on. -/
def State.wakeInstalls (s : State) : State :=
  (s.cmds.filter fun e => (match e.op with | .opinst => true | _ => false) && decide (e.prog = 0) && decide (e.stage = .queued)).foldl (fun s e => s.wakeCmd e.id) s

/-- OPINST_COMPLETE (R196, R197; n: command): the descriptor and then the weights are read; the operator is installed, or the install
fails with the first reason in order. While a pinned line lies in a way it needs, it waits (R311). -/
def execOpinstComplete (s : State) : Out :=
  match s.cmd? s.ev.n with
  | none => .next s
  | some c =>
    if c.prog ≠ 0 then .next (s.installRun c)
    else
      match s.readDesc c 128 8 with
      | (s, false) => .next s
      | (s, true) =>
        match s.cmd? c.id with
        | none => .next s
        | some c =>
          if c.poisoned ∨ c.status ≠ 0 then .next ((s.failDesc c).wakeInstalls)
          else if s.installBehind c then .next s
          else if s.windowsBusy c then .next (s.wakeCmd c.id)
          else
            match s.checkInstall c with
            | (s, .inl r) => .next ((s.failOp c r id).wakeInstalls)
            | (s, .inr (iw, ow)) =>
              match s.takeStore c with
              | none => .next s
              | some s =>
                let s := s.mapCmd c.id fun c => { c with prog := 1, buf := none, bytes := c.bytes.take 128 ++ (iw ++ ow).flatMap (leBytes 8) }
                (match s.cmd? c.id with
                 | some c => .next ((s.installRun c).wakeInstalls)
                 | none => .next s)

/-! ## Input window slots (R203 to R206) -/

/-- The bytes a slot's vector requires (R203): headers, and every byte with a bit of an element below K. -/
def OpDesc.needed (d : OpDesc) (n : Nat) : Bool :=
  let g := n / 64
  let r := n % 64
  let e := d.xf.count
  decide (r < 2) || (List.range e).any fun i =>
    decide (g * e + i < d.k) && decide (d.xf.place i / 8 ≤ r) && decide (r ≤ (d.xf.place i + d.xf.width - 1) / 8)

/-- The mask covers the required bytes. -/
def OpDesc.covered (d : OpDesc) (mask : List Bool) : Bool := (List.range d.inBytes).all fun n => !d.needed n || mask[n]?.getD false

/-- What the lead OE does with an access. -/
inductive Verdict where
  | accepted
  /-- The store completed the vector: its acknowledgement waits for the fire. -/
  | completing (slot : Nat)
  | refused (reason : Nat)
deriving DecidableEq, Repr

/-- A slot enters ABANDONED: its bytes are discarded, and an OPUNR entry goes to the installer's VD when its limit has passed (R204). -/
def State.abandon (s : State) (o : Operator) (x : IwSlot) (limit : Bool) : State :=
  let s := s.mapOp o.uid fun o => o.setIn { x with st := .abandoned, bytes := [], mask := [], deadline := 0 }
  if limit then s.opErr o .opunr 1 x.tag 1 0 else s

/-- A slot's claim is at or past its deadline. -/
def IwSlot.late (x : IwSlot) (now : Nat) : Bool := (match x.st with | .claimed => true | _ => false) && decide (x.deadline ≠ 0) && decide (x.deadline ≤ now)

/-- Bytes of a list replaced where given. -/
def layAt (old : List Byte) (off : Nat) (bs : List (Option Byte)) : List Byte := old.take off ++ overlay bs (old.drop off) ++ old.drop (off + bs.length)
def markAt (old : List Bool) (off : Nat) (bs : List (Option Byte)) : List Bool :=
  mapFrom (fun n b => b || (decide (off ≤ n) && (match bs[n - off]? with | some (some _) => true | _ => false))) 0 old

/-- Blocks without marked bytes as an OE holds them. -/
def plainUnits : Nat → List Byte → List Byte
  | 0, _ => []
  | n + 1, bs => blkMarks bs (fun _ => false) ++ plainUnits n (bs.drop 64)

/-- A slot becomes FIRING, and its fire joins the work of the OE of every member that holds rows (R208, R209). A forced fire takes missing bytes as zero, a missing byte 0 as
IFMT (R204). -/
def State.startFire (s : State) (o : Operator) (x : IwSlot) : State :=
  let d := o.d
  let bytes := mapFrom (fun n b => if x.mask[n]?.getD false then b else if n % 64 = 0 then BitVec.ofNat 8 d.xf.code else 0) 0 x.bytes
  let s := s.mapOp o.uid fun o => o.setIn { x with st := .firing, bytes := bytes, deadline := 0 }
  let oes := ((List.range d.span).filter fun i => d.rowsOf i != 0).map fun i => o.lead + i
  State.due { s with fires := s.fires ++ oes.map fun e =>
      { oe := e, op := o.uid, slot := x.slot, running := false, tile := none, input := plainUnits (d.inBytes / 64) bytes, res := [] } }
    (oes.map (evn .fireStart))

/-- A store judged by the lead OE (R205, R206), from an agent with a package, VD and tag; `plain` tells a store from an atomic, TSTE or
WAITM, which an admitted agent is refused with KIND in either window. -/
def State.iwStore (s : State) (o : Operator) (out : Bool) (off pkg vd : Nat) (tag : Word) (plain load : Bool) (bs : List (Option Byte)) :
    State × Verdict :=
  let d := o.d
  let j := off / d.iws
  let r := off % d.iws
  if !o.admits s.fab.pkg pkg vd load then (s, .refused 1)
  else if !plain then (s, .refused 7)
  else if out != load then (s, .refused 6)
  else if d.inBytes < r + bs.length then (s, .refused 5)
  else
    let x := o.inSlot j
    let late := x.late s.cycle
    let s := if late then s.abandon o x true else s
    let x : IwSlot := if late then { x with st := .abandoned, bytes := [], mask := [], deadline := 0 } else x
    let mine := x.tag == tag && x.vd == vd
    let put (x : IwSlot) : State × Verdict :=
      let x := { x with bytes := layAt x.bytes r bs, mask := markAt x.mask r bs }
      if d.covered x.mask then (s.startFire o x, .completing j) else (s.mapOp o.uid fun o => o.setIn x, .accepted)
    let claim : IwSlot :=
      { slot := j, st := .claimed, tag := tag, vd := vd, deadline := if d.limit = 0 then 0 else s.cycle + usCycles d.limit,
        bytes := zeros d.inBytes, mask := List.replicate d.inBytes false }
    match x.st with
    | .empty => put claim
    | .claimed => if mine then put x else (s, .refused 2)
    | .firing => (s, .refused 3)
    | .abandoned => if mine then (s, .refused 4) else put claim

/-- The record of a refused access in the issuer's VD (R205). -/
def State.refuse (s : State) (a : Access) (reason : Nat) (reply : Instr) : State :=
  let s := s.logErr a.vd .opref reason a.wtag (BitVec.ofNat 32 reason) a.va false (s.agentKey a.wave)
  (s.mapAcc a.id fun a => { a with stage := .refused reason }).due [evn reply a.id]

/-- IW_STORE_ARRIVAL (R204 to R206; n: access): a store, atomic, TSTE or engine store reaches a window. One that waits for its fire names
the operator and the slot in its comparand and poison fields. -/
def execIwStoreArrival (s : State) : Out :=
  match s.acc? s.ev.n with
  | none => .next s
  | some a =>
    match s.windowAt a.pa with
    | none => .next (s.due [evn .homeAccess a.id])
    | some (n, out, off) =>
      match s.ops[n]? with
      | none => .next s
      | some o =>
        let reply : Instr := match a.kind with | .atomic .. => .atomicReply | _ => .storeAck
        let plain := match a.kind with | .store | .engWrite _ => true | _ => false
        let bs := ((leBytes 64 a.data.toNat).take a.size).map some
        match s.iwStore o out off s.fab.pkg a.vd a.wtag plain false bs with
        | (s, .refused r) => .next (s.refuse a r reply)
        | (s, .accepted) => .next ((s.mapAcc a.id fun a => { a with stage := .performed }).due [evn reply a.id])
        | (s, .completing j) => .next (s.mapAcc a.id fun a => { a with stage := .firing, cmp := BitVec.ofNat 64 o.uid, psn := BitVec.ofNat 16 j })

/-! ## Fires (R207 to R209) -/

/-- A block of output elements. -/
def outBlock (f : BFmt) (ys : List Reg) : List Byte :=
  if ys.any (·.psn) then blkPoison
  else blkBuild f 0 fun i => match ys[i]? with | some y => (f.enc .rne false (decF y.val)).1 | none => f.zeroCode

/-- The blocks of a list of elements, in groups of a format's count. -/
def outBlocks (f : BFmt) : Nat → List Reg → List Byte
  | 0, _ => []
  | n + 1, ys => outBlock f (ys.take f.count) ++ outBlocks f n (ys.drop f.count)

/-- Blocks of bytes, with their marks, as numbers. -/
def blocksOf : Nat → List Byte → List Nat
  | 0, _ => []
  | n + 1, bs => leVal (bs.take blkUnit) :: blocksOf n (bs.drop blkUnit)

/-- A scale other than 0 among the blocks a dot product reads, whatever their code; a zero block's scale is ignored (R102, R107). -/
def scaled (f : BFmt) (bs : List Nat) (k : Nat) : Bool :=
  (bs.take (blocksFor f k)).any fun b => !blkBlind b && blkCode b != 0 && blkScale b != 0

/-- The outputs of a vector against the first n rows of a bank; `acc` gives the accumulator's old element (R106, R107, R112, R227). -/
def opOutputs (d : OpDesc) (bank : List Byte) (n : Nat) (input : List Byte) (acc : Nat → Reg) : List Reg :=
  let kb := blocksFor d.wf d.k
  let xs := blocksOf (blocksFor d.xf d.k) input
  let row (i : Nat) : List Nat := blocksOf kb (bank.drop (i * d.rowUnits))
  let int := decide (d.of = 0x80)
  let whole := int && (scaled d.xf xs d.k || (List.range n).any fun i => scaled d.wf (row i) d.k)
  (List.range n).map fun i =>
    let a := acc i
    let y := if int then (dotI d.wf d.xf (row i) xs d.k).map fun y => a.val + y else dotF d.wf d.xf (row i) xs d.k a.val
    match y with
    | some y => if whole || a.psn then ⟨y, true⟩ else ⟨y, false⟩
    | none => ⟨0, true⟩

/-- The contents of an OW slot for a result, and its poison (R207, R112). -/
def outContents (d : OpDesc) (ys : List Reg) : List Byte × Bool :=
  let psn := ys.any (·.psn)
  match d.outFmt with
  | some f => (outBlocks f (d.outBytes / 64) ys, psn)
  | none => ((ys.flatMap fun y => leBytes 4 y.val.toNat) ++ zeros (d.outBytes - 4 * d.m), psn)

/-- A unit of work that waits for its OE, and one that has begun: of a fire, some member has begun it. -/
def Fire.waits (f : Fire) : Bool := !f.running && !f.done
def Fire.begun (f : Fire) : Bool := f.running || f.done || !f.res.isEmpty

/-- A part of the same fire. -/
def Fire.same (f g : Fire) : Bool := f.tile.isNone && g.tile.isNone && f.op == g.op && f.slot == g.slot

/-- A unit may start: it waits, and the OW slot of a TAKE-mode fire that has not begun is not READY (R208). -/
def State.mayStart (s : State) (f : Fire) : Bool :=
  f.waits && (f.begun ||
    match f.tile, s.op? f.op with
    | none, some o => !(decide (o.d.mode % 2 = 1) && (o.outSlot f.slot).ready)
    | _, _ => true)

/-- FIRE_START (R208, R209; n: OE): the first unit of work that may start does, when none is running. The bank in use is taken when the first member begins:
the fire's result is formed then, and each member writes its rows as its own part ends. A TAKE-held fire keeps its place in the order of the OE's work,
so that it goes before later work once its OW slot is no longer READY; the spec does not say whether it does (DESIGN CHOICE, log 49). -/
def execFireStart (s : State) : Out :=
  let mine := s.fires.filter fun f => f.oe == s.ev.n
  if mine.any (·.running) then .next s
  else
    match mine.find? s.mayStart with
    | none => .next s
    | some f =>
      let res := match f.tile, s.op? f.op with
        | none, some o => if f.res.isEmpty then opOutputs o.d o.active o.d.m f.input fun _ => ⟨0, false⟩ else f.res
        | _, _ => f.res
      let bank := match s.op? f.op with | some o => o.active | none => []
      let go (x : Fire) : Fire := { x with running := true, res := res, input := if x.tile.isSome then x.input ++ bank else x.input }
      let rec_ := (s.fires.findIdx? fun x => x == f).getD 0
      .next (State.due { s with
          fires := mapFrom (fun n x => if n = rec_ then go x else if x.same f then { x with res := res } else x) 0 s.fires } [evn .fireComplete s.ev.n])

/-- The line of an OW slot as a load reads it: its 64-byte block, every word poisoned where the result is (R210). -/
def OwSlot.line (x : OwSlot) (g : Nat) : BitVec 512 × BitVec 16 :=
  (BitVec.ofNat 512 (leVal ((x.bytes.drop (64 * g)).take 64)), if x.psn then BitVec.allOnes 16 else 0)

/-- A load has returned data of block g of a slot: a TAKE slot that is covered whole leaves READY (R210). -/
def State.owSeen (s : State) (o : Operator) (j g : Nat) : State :=
  if o.d.mode % 2 = 0 then s
  else
    s.mapOp o.uid fun o =>
      let x := o.outSlot j
      let seen := if x.seen.contains g then x.seen else g :: x.seen
      if o.d.outBytes / 64 ≤ seen.length then o.setOut { x with ready := false, seen := [] } else o.setOut { x with seen := seen }

/-- A local load answered from a READY slot. -/
def State.owAnswer (s : State) (a : Access) (o : Operator) (j r : Nat) : State :=
  let (line, psn) := (o.outSlot j).line (r / 64)
  ((s.owSeen o j (r / 64)).mapAcc a.id fun a => { a with data := line, psn := psn, nokeep := true, stage := .performed }).due [evn .loadDataArrival a.id]

/-- A DATA message to another package (R357): status 0 performed, 1 refused with 16 times its reason, 2 failed, 3 unready at the limit, 4
unready at once, 8 performed by an operator window, whose lines no cache keeps (R55; the codes of DATA are the model's: log 17). -/
def State.dataMsg (s : State) (h : MsgHdr) (entry status : Nat) (line : BitVec 512) (psn : BitVec 16) : State :=
  s.send { src := BitVec.ofNat 7 s.fab.pkg, dst := h.src, cls := 1, kind := 1, hop := 0, via := 0, seq := 0, vd := h.vd.toNat,
           pay := leBytes 2 entry ++ leBytes 1 status ++ leBytes 2 psn.toNat ++ zeros 3 ++ leBytes 64 line.toNat }

/-- A WACK message (R357). -/
def State.wackMsg (s : State) (h : MsgHdr) (entry status reason : Nat) (more : List Byte := []) : State :=
  s.send { src := BitVec.ofNat 7 s.fab.pkg, dst := h.src, cls := 1, kind := 3, hop := 0, via := 0, seq := 0, vd := h.vd.toNat,
           pay := leBytes 2 entry ++ leBytes 1 status ++ leBytes 1 reason ++ more }

/-- The slot of an operator that an OW address names, and the offset in it. -/
def Operator.owPlace (o : Operator) (off : Nat) : Nat × Nat := (off / o.d.ows, off % o.d.ows)

/-- Loads that wait for a slot, in order, answered while it is READY (R211). -/
def State.owWake (s : State) (uid j : Nat) : State :=
  let mine := s.accs.filter fun a => (match a.stage with | .unready _ => true | _ => false) &&
    (match s.windowAt a.pa with | some (n, true, off) => (match s.ops[n]? with | some o => o.uid == uid && (o.owPlace off).1 == j | none => false) | _ => false)
  let s := mine.foldl (fun s a =>
    match s.windowAt a.pa, s.op? uid with
    | some (_, _, off), some o => if (o.outSlot j).ready then s.owAnswer a o j (o.owPlace off).2 else s
    | _, _ => s) s
  (s.fab.unready.filter fun x => x.op == uid && x.slot == j).foldl (fun s x =>
    match s.windowAt x.addr, s.op? uid with
    | some (_, _, off), some o =>
      if (o.outSlot j).ready then
        let (line, psn) := (o.outSlot j).line ((o.owPlace off).2 / 64)
        ({ s.owSeen o j ((o.owPlace off).2 / 64) with fab := { s.fab with unready := s.fab.unready.filter fun y => y != x } }).dataMsg x.hdr x.entry 8 line psn
      else s
    | _, _ => s) s

/-- The slot status word (R215). -/
def Operator.status (o : Operator) (j : Nat) : Word :=
  let x := o.outSlot j
  BitVec.ofNat 32 (x.gen.toNat % 2 ^ 24 * 256 + 64 + (if o.spare.isSome then 32 else 0) + (if o.bank then 16 else 0) + (if x.ready then 8 else 0)
    + (match (o.inSlot j).st with | .empty => 0 | .claimed => 1 | .firing => 2 | .abandoned => 3))

/-- The end of OPWAIT: D receives the word and the threads go on. -/
def Cmd.opwaitEnd (c : Cmd) (x : Word) (now : Nat) (w : Wave) : Wave :=
  (c.give x w).mapArch c.mask fun th => match th.cond with | .blocked (.opwait i) => if i = c.id then th.wakeNext now else th | _ => th

/-- The OPWAITs that wait at an operator, on a slot or on any, end with a word (R215). -/
def State.opwaitWake (s : State) (o : Operator) (slot : Option Nat) (x : Word) : State :=
  (s.cmds.filter fun c => (match c.op, c.stage with | .opwait, .waiting => true | _, _ => false) && c.vd == o.vd && c.ctx == o.ctx &&
      c.a == BitVec.ofNat 64 o.handle && slot.all fun j => c.b == BitVec.ofNat 64 j).foldl (fun s c => s.endCmd c 0 0 (c.opwaitEnd x s.cycle)) s

/-- What follows the end of a unit of work: a bank swapped out that no computation uses any more is released, and so are the ways of a freed operator whose
last it was; OPFREEs look again (R199, R200). -/
def State.workEnded (s : State) (op : Nat) : State :=
  let s := { s with freed := s.freed.filter fun o => s.fires.any fun x => x.op == o.uid }
  let s := (s.mapOp op fun o => { o with old := s.fires.any fun x => x.op == op && x.old }).trimStore
  (s.cmds.filter fun c => (match c.op with | .opfree => true | _ => false) && decide (c.stage = .waiting)).foldl (fun s c => s.wakeCmd c.id) s

/-- FIRE_COMPLETE (R208, R209; n: OE): a member has written its rows. When every member has, in one step the result replaces the OW slot's contents, the slot
is READY with the next generation, the IW slot is EMPTY, and the completing store or OPFIRE is acknowledged. The result of a freed operator is discarded. -/
def execFireComplete (s : State) : Out :=
  match s.fires.find? fun f => f.oe == s.ev.n && f.running with
  | none => .next s
  | some f =>
    let s := s.due [evn .fireStart f.oe]
    match f.tile with
    | some c =>
      let s := State.workEnded { s with fires := s.fires.filter fun x => !(x.oe == f.oe && x.running) } f.op
      .next ((s.mapCmd c fun c => { c with buf := some (f.input, 0), stage := .queued }).wakeCmd c)
    | none =>
      if s.fires.any fun x => x.same f && x.oe != f.oe && !x.done then
        .next { s with fires := mapIf (fun x => x.oe == f.oe && x.running) (fun x => { x with running := false, done := true }) s.fires }
      else
        let s := { s with fires := s.fires.filter fun x => !x.same f }
        let acks := s.accs.filter fun a => (match a.stage with | .firing => true | _ => false) && (a.cmp.toNat % 2 ^ 64 == f.op) && a.psn.toNat == f.slot
        let s := acks.foldl (fun s a => (s.mapAcc a.id fun a => { a with stage := .performed, psn := 0 }).due [evn .storeAck a.id]) s
        let s := (s.fab.firing.filter fun x => x.op == f.op && x.slot == f.slot).foldl (fun s x => s.wackMsg x.hdr x.entry 0 0) s
        let s := { s with fab := { s.fab with firing := s.fab.firing.filter fun x => !(x.op == f.op && x.slot == f.slot) } }
        let s := (s.cmds.filter fun c => (match c.op with | .opfire => true | _ => false) && c.prog == f.op + 1 && c.status == f.slot).foldl
          (fun s c => (s.mapCmd c.id fun c => { c with stage := .queued, deadline := 1 }).wakeCmd c.id) s
        let s := s.workEnded f.op
        match s.op? f.op with
        | none => .next s
        | some o =>
          let (bs, psn) := outContents o.d f.res
          let x := o.outSlot f.slot
          let s := s.mapOp o.uid fun o =>
            (o.setOut { x with ready := true, gen := x.gen + 1, bytes := bs, psn := psn, seen := [] }).setIn { o.inSlot f.slot with st := .empty }
          let s := s.opwaitWake o (some f.slot) ((s.op? o.uid).elim 0 (·.status f.slot))
          .next (s.owWake o.uid f.slot)

/-! ## Output window loads (R210, R211) -/

/-- The deadline LIMIT gives from now, 0 for none. -/
def State.limitAt (s : State) (d : OpDesc) : Nat := if d.limit = 0 then 0 else s.cycle + usCycles d.limit

/-- A load judged by the lead OE (R206): refused with a reason, answered, or not ready. -/
inductive LoadVerdict where
  | refused (reason : Nat)
  | ready (slot off : Nat)
  | unready (slot : Nat) (wait : Bool)
deriving DecidableEq, Repr

/-- A load judged by the lead OE (R206); a WAITM of an admitted agent is refused with KIND in either window (R171). -/
def State.owLoad (s : State) (o : Operator) (out : Bool) (off size pkg vd : Nat) (plain : Bool) : LoadVerdict :=
  let (j, r) := o.owPlace off
  if !o.admits s.fab.pkg pkg vd true then .refused 1
  else if !plain then .refused 7
  else if !out then .refused 6
  else if o.d.outBytes < r + size then .refused 5
  else if (o.outSlot j).ready then .ready j r
  else .unready j (decide (o.d.mode / 2 % 2 = 0))

/-- OW_LOAD_ARRIVAL (R206, R210, R211; n: access): a load or WAITM reaches a window. A load of a slot that is not ready waits in WAIT mode and
else completes at once, poisoned, with UR and PL and no entry. -/
def execOwLoadArrival (s : State) : Out :=
  match s.acc? s.ev.n with
  | none => .next s
  | some a =>
    match s.windowAt a.pa with
    | none => .next (s.due [evn .homeAccess a.id])
    | some (n, out, off) =>
      match s.ops[n]? with
      | none => .next s
      | some o =>
        let plain := match a.kind with | .watch _ => false | _ => true
        match s.owLoad o out off a.size s.fab.pkg a.vd plain with
        | .refused r => .next (s.refuse a r (match a.kind with | .watch _ => .waitmReply | _ => .loadDataArrival))
        | .ready j r => .next (s.owAnswer a o j r)
        | .unready _ true => .next (s.mapAcc a.id fun a => { a with stage := .unready (s.limitAt o.d) })
        | .unready _ false => .next ((s.mapAcc a.id fun a => { a with stage := .failed .opunr 0 }).due [evn .loadDataArrival a.id])

/-- A waiting load completes as at the unready limit: poisoned, with an OPUNR entry in the issuer's VD (R211). -/
def State.unreadyEnd (s : State) (a : Access) : State :=
  let s := s.logErr a.vd .opunr 0 a.wtag 0 a.va false (s.agentKey a.wave)
  (s.mapAcc a.id fun a => { a with stage := .failed .opunr 0 }).due [evn .loadDataArrival a.id]

/-- UNREADY_LIMIT_EXPIRY (R211; n: access, or with `ok` a place in the list of waiting loads of other packages). -/
def execUnreadyLimitExpiry (s : State) : Out :=
  if s.ev.ok then
    match s.fab.unready[s.ev.n]? with
    | some x =>
      if x.deadline ≠ 0 ∧ x.deadline ≤ s.cycle then
        .next ({ s with fab := { s.fab with unready := s.fab.unready.eraseIdx s.ev.n } }.dataMsg x.hdr x.entry 3 0 (BitVec.allOnes 16))
      else .next s
    | none => .next s
  else
    match s.acc? s.ev.n with
    | some a =>
      (match a.stage with
       | .unready d => .next (if d ≠ 0 ∧ d ≤ s.cycle then s.unreadyEnd a else s)
       | _ => .next s)
    | none => .next s

/-- CLAIM_LIMIT_EXPIRY (R204; n: operator, m: slot). -/
def execClaimLimitExpiry (s : State) : Out :=
  match s.op? s.ev.n with
  | some o => let x := o.inSlot s.ev.m; .next (if x.late s.cycle then s.abandon o x true else s)
  | none => .next s

/-! ## Freeing and swapping (R199, R200) -/

/-- An operator leaves: its claims and bytes go, its waiting loads end as at the unready limit, its OPWAITs with 0, and its windows return to memory. Fires
under way run on and acknowledge their stores; their results are discarded, and the ways of its store stay until the last of them. -/
def State.freeOperator (s : State) (o : Operator) : State :=
  let waits := s.accs.filter fun a => (match a.stage with | .unready _ => true | _ => false) && o.ow.contains (localOf a.pa / 64) && pkgOf a.pa == s.fab.pkg
  let s := waits.foldl State.unreadyEnd s
  let s := (s.fab.unready.filter fun x => x.op == o.uid).foldl (fun s x => s.dataMsg x.hdr x.entry 3 0 (BitVec.allOnes 16)) s
  let s := s.opwaitWake o none 0
  State.trimStore { s with
    ops := s.ops.filter fun x => x.uid != o.uid, freed := if s.fires.any fun f => f.op == o.uid then o :: s.freed else s.freed,
    fab := { s.fab with unready := s.fab.unready.filter fun x => x.op != o.uid } }

/-- The operators of a context, or of a world, freed (R199, R288, R393). -/
def State.freeOperators (s : State) (p : Operator → Bool) : State := (s.ops.filter p).foldl State.freeOperator s

/-- The inactive bank becomes the active one (R200): computations that have begun go on with the old bank, whose space is released with the last of them. -/
def State.swapBanks (s : State) (o : Operator) : State :=
  let s := { s with fires := mapIf (fun f => f.op == o.uid && f.begun) (fun f => { f with old := true }) s.fires }
  (s.mapOp o.uid fun o => { o with
    bank := !o.bank, bankA := if o.bank then o.bankA else none, bankB := if o.bank then none else o.bankB,
    old := s.fires.any fun f => f.op == o.uid && f.old }).trimStore

/-! ## The SIMT-side instructions (R196, R199, R200, R204, R213 to R218) -/

/-- Reads of an operand for a thread: its value and its poison. -/
def opd (w : Wave) (th : Thread) (f : BitVec 6) : Word × Bool := let r := readReg w th f.toNat; (r.val, r.psn)
def opz (w : Wave) (t : Nat) (f : BitVec 6) : DWord := (readReg w (w.th t) f.toNat).val.zeroExtend 64

def execOpinst (d a : BitVec 6) (o : BitVec 8) (s : State) : Out :=
  let i : Instr := .opinst d a o
  postEach i false (fun w th => [(0, (opd w th d).2), (1, (pairAt w th a).2)])
    (fun s w t e => s.postWithDesc w i t .oe .opinst (memAddr (pairAt w (w.th t) a).1 s.issue.himm o 128) (opz w t d) 64 128 false e) s

def execOpfree (a : BitVec 6) (s : State) : Out :=
  let i : Instr := .opfree a
  postEach i false (fun w th => [(1, (opd w th a).2)]) (fun s w t _ => s.post w i t .oe .opfree (opz w t a) 0 64 false .queued) s

def execOpswap (a : BitVec 6) (s : State) : Out :=
  let i : Instr := .opswap a
  postEach i false (fun w th => [(1, (opd w th a).2)]) (fun s w t _ => s.post w i t .oe .opswap (opz w t a) 0 64 false .queued) s

/-- Handle and slot, and a destination. -/
def slotCmd (i : Instr) (op : CmdOp) (d : Nat) (a b : BitVec 6) (held : Bool) (s : State) : Out :=
  postEach i false (fun w th => [(1, (opd w th a).2), (2, (opd w th b).2)]) (fun s w t _ => s.post w i t .oe op (opz w t a) (opz w t b) d held .queued) s

def execOpqry (d a b : BitVec 6) (s : State) : Out := slotCmd (.opqry d a b) .opqry d.toNat a b false s

/-- OPFIRE and OPDROP count as window stores until they are acknowledged (R30, R214). -/
def counted (f : State → Out) (s : State) : Out :=
  match f s with
  | .next s' =>
    let new := s'.cmds.drop s.cmds.length
    .next (new.foldl (fun s c => s.mapWave c.wave fun w => w.mapMask c.mask fun th => { th with stores := th.stores + 1 }) s')
  | x => x

def execOpfire (a b : BitVec 6) (s : State) : Out := counted (slotCmd (.opfire a b) .opfire 64 a b false) s
def execOpdrop (a b : BitVec 6) (s : State) : Out := counted (slotCmd (.opdrop a b) .opdrop 64 a b false) s

/-- OPGRANT: D is the entry word; the thread waits until the list has changed (R216). -/
def execOpgrant (d a b : BitVec 6) (s : State) : Out :=
  let i : Instr := .opgrant d a b
  postEach i false (fun w th => [(0, (opd w th d).2), (1, (opd w th a).2), (2, (opd w th b).2)])
    (fun s w t _ => s.post w i t .oe .opgrant (opz w t a) (opz w t d ||| (opz w t b <<< 32)) 64 true .queued) s

/-- OPWAIT blocks at a blocking point, with a wake word of its own (R215, R279). -/
def execOpwait (d a b : BitVec 6) (s : State) : Out :=
  let i : Instr := .opwait d a b
  postEach i false (fun w th => [(1, (opd w th a).2), (2, (opd w th b).2)])
    (fun s w t _ =>
      let id := s.nextId
      let s := s.post w i t .oe .opwait (opz w t a) (opz w t b) d.toNat true .queued
      s.mapWave w.id fun w => w.mapMask (s.actsFor i t) fun th => { th with cond := match th.cond with | .blocked (.effect _) => .blocked (.opwait id) | x => x }) s

/-- OPFENCE: the counters are zero (an interlock holds it until they are), and the bundle goes on (R217). -/
def execOpfence (s : State) : Out :=
  postEach .opfence false (fun _ _ => []) (fun s w t _ => s.advance w.id (s.actsFor .opfence t)) s

/-- OPSEQ: after the release condition, the value of the lowest thread is added to the sequencer's signal count; PROT without one (R218). A poisoned
value traps the thread that gives it (R110). -/
def execOpseq (a : BitVec 6) (s : State) : Out :=
  skipAhead (.opseq a) (fun s w =>
    let copy : Bool := match w.role with | .copy => true | _ => false
    let seq : Bool := match s.block? w.block with | some b => b.seq.isSome | none => false
    let x := readReg w (w.th (lowest s.issue.mask)) a.toNat
    if copy ∨ !seq then (State.each s (.opseq a) fun s t => s.trapFor w (.opseq a) t .prot 0 0 0)
    else if x.psn then (s.raise w.id (lowest s.issue.mask) .poison 0 1 s.issue.repPc 0).advance w.id (s.issue.mask &&& ~~~(1#32 <<< lowest s.issue.mask))
    else
      (s.mapBlock w.block fun b => { b with seq := b.seq.map fun (q : Seq) => { q with sc := q.sc + x.val.zeroExtend 64 } }).advance w.id s.issue.mask) s

/-- The end of OPFIRE or OPDROP: the store counters fall. -/
def Cmd.uncount (c : Cmd) (w : Wave) : Wave := w.mapArch c.mask fun th => { th with stores := th.stores - 1 }

/-- OPERATOR_COMMAND_ARRIVAL (R199, R200, R204, R214 to R216; n: command): an operator instruction reaches the lead OE. An OPGRANT with a handle that is not
installed and an entry word that is rejected at once reports HANDLE (the spec gives no order of the two; DESIGN CHOICE, log 82). -/
def execOperatorCommandArrival (s : State) : Out :=
  match s.cmd? s.ev.n with
  | none => .next s
  | some c =>
    let h := c.a.toNat
    let j := c.b.toNat
    let o := s.handleOp c.vd c.ctx h
    let slotted := o.filter fun o => decide (j < o.d.slots)
    match c.op with
    | .opfree =>
      if c.stage = .waiting then .next (if s.fires.any (fun f => f.op == c.prog) then s else s.endCmd c 0 0 id)
      else
        (match o with
         | some o =>
           let s := (s.freeOperator o).mapCmd c.id fun c => { c with prog := o.uid, stage := .waiting }
           .next (if s.fires.any (fun f => f.op == o.uid) then s else s.endCmd c 0 0 id)
         | none => .next (s.failOp c 0x11 id))
    | .opswap =>
      (match o with
       | some o =>
         if o.spare.isNone then .next (s.failOp c 0x16 id)
         else
           .next ((s.swapBanks o).endCmd c 0 0 id)
       | none => .next (s.failOp c 0x11 id))
    | .opqry => .next (s.endCmd c 0 0 (c.give (match slotted with | some o => o.status j | none => 0)))
    | .opwait =>
      (match slotted with
       | none => .next (s.endCmd c 0 0 (c.opwaitEnd 0 s.cycle))
       | some o =>
         if (o.outSlot j).ready then .next (s.endCmd c 0 0 (c.opwaitEnd (o.status j) s.cycle))
         else .next (s.mapCmd c.id fun c => { c with stage := .waiting, deadline := if c.deadline = 0 then s.limitAt o.d else c.deadline }))
    | .opfire =>
      if c.deadline = 1 then .next (s.endCmd c 0 0 c.uncount)
      else
        (match slotted with
         | none => .next (s.failOp c 0x11 c.uncount)
         | some o =>
           let x := o.inSlot j
           let late := x.late s.cycle
           let s := if late then s.abandon o x true else s
           if !late && (match x.st with | .claimed => true | _ => false) then
             .next ((s.startFire o x).mapCmd c.id fun c => { c with stage := .waiting, prog := o.uid + 1, status := j })
           else .next (s.endCmd c 0 0 c.uncount))
    | .opdrop =>
      (match slotted with
       | none => .next (s.failOp c 0x11 c.uncount)
       | some o =>
         let x := o.inSlot j
         let late := x.late s.cycle
         let s := if late || (match x.st with | .claimed => true | _ => false) then s.abandon o x late else s
         .next (s.endCmd c 0 0 c.uncount))
    | .opgrant =>
      let n := j / 2 ^ 32
      let e : Word := lowWord c.b
      (match o with
       | none => .next (s.failOp c 0x11 (c.release s.cycle))
       | some o =>
         if 7 < n ∨ !permOk e then .next (s.failOp c 0x10 (c.release s.cycle))
         else .next ((s.mapOp o.uid fun o => { o with perm := o.perm.set n e }).endCmd c 0 0 (c.release s.cycle)))
    | _ => .next s

/-- OPWAIT_LIMIT_EXPIRY (R215; n: command): the word is written with RDY clear, and no entry. -/
def execOpwaitLimitExpiry (s : State) : Out :=
  match s.cmd? s.ev.n with
  | some c =>
    (match c.op with
     | .opwait =>
       if c.deadline = 0 ∨ s.cycle < c.deadline then .next s
       else
         match s.handleOp c.vd c.ctx c.a.toNat with
         | some o => .next (s.endCmd c 0 0 (c.opwaitEnd (o.status c.b.toNat) s.cycle))
         | none => .next (s.endCmd c 0 0 (c.opwaitEnd 0 s.cycle))
     | _ => .next s)
  | none => .next s

end Sys2Proof.Machine
end

