-- ==== Sys2Proof/Machine/Tile.lean ====
section
/-!
DEFINITION. The tile sequencer (R222 to R231, R81): its window and issue, regions and the accumulator, the tile commands, and its faults.
-/

namespace Sys2Proof.Machine

/-! ## The sequencer of a cluster -/

/-- The block whose matrix role a cluster's sequencer runs. -/
def State.seqBlock (s : State) (cl : Nat) : Option Block := s.blocks.find? fun b => b.onCore && b.cl == cl && b.seq.isSome

def State.mapSeq (s : State) (b : Nat) (f : Seq → Seq) : State := s.mapBlock b fun b => { b with seq := b.seq.map f }

/-- A value of a q register. -/
def Seq.reg (q : Seq) (x : BitVec 6) : DWord := q.q[x.toNat]?.getD 0
def Seq.setReg (q : Seq) (x : BitVec 6) (v : DWord) : Seq := { q with q := q.q.setIfInBounds x.toNat v }

/-- An entry retires. -/
def Seq.retire (q : Seq) (no : Nat) : Seq := { q with win := q.win.filter fun e => e.no != no }

/-- A sequencer as a requester of translations (R202, R224). -/
def Block.who (b : Block) : Who :=
  { vd := b.vd, ctx := b.ctx, key := b.keyid, vent := none, level := .u, lane := none, core := 8192 + b.cl, cl := b.cl, spec := false,
    last := none }

/-! ## Faults of the sequencer (R231) -/

/-- A fault stops the sequencer and kills the block. A PAGE or RDW fault of an operand goes to the migration service under the command's tag, which has the
block placed anew; any other fault sends a trap record, and the block ends with TRAPPED. R231 discards the entries fetched after the faulting command and
leaves open what becomes of earlier ones that have not retired: they go with the block, and only their accesses under way complete (DESIGN CHOICE,
log 69). -/
def State.seqFault (s : State) (b : Block) (pc : DWord) (cls : TrapClass) (reason : Nat) (info : Word) (addr : DWord) (service : Option (Nat × Word)) : State :=
  match service with
  | some (k, tag) => (s.killBlock b.id (.faulted pc addr cls)).faultRequest k cls b.vd b.ctx addr tag
  | none =>
    State.trapRecord { s.killBlock b.id (.ended true) with nextId := s.nextId + 1 } b.vd s.nextId
      (trapHeader 1 0xFFFFFFFF b.vd b.ctx (match s.launch? b.launch with | some l => l.id | none => 0) b.blkid 0 2 s.fab.pkg 0 0 0
        ++ trapEntry 0xFE ⟨cls, reason, info, pc, addr⟩ 0 0)

/-- A fault met by an operand access of a tile command. -/
def State.seqAccessFault (s : State) (b : Block) (c : Cmd) (pc : DWord) (cls : TrapClass) (addr : DWord) (write : Bool) : State :=
  s.seqFault b pc cls 0 (lowWord addr) addr (if cls = .page ∨ cls = .rdw then some (if write then 5 else 4, c.wtag) else none)

/-! ## Issue (R81, R223) -/

/-- The registers a tile command reads and writes (R226). -/
def tileRegs : Instr → List (BitVec 6) × List (BitVec 6)
  | .tmul _ _ x y | .tmac _ _ x y | .tacopy _ _ x y | .taload _ _ x y | .tsig _ _ x y => ([x, y], [])
  | .tring _ _ x y => ([y], [x])
  | .tset _ _ x y => ([y], [x])
  | .taddq _ _ x y | .tloop _ _ x y => ([x, y], [x])
  | .tzero _ _ x _ | .tjmp _ _ x _ | .twaitc _ _ x _ | .tswap _ _ x _ => ([x], [])
  | _ => ([], [])

/-- The entries a command waits for (R223). -/
def tileBack : Instr → List (BitVec 4)
  | .tmul p q _ _ | .tmac p q _ _ | .tzero p q _ _ | .tacopy p q _ _ | .taload p q _ _ | .tring p q _ _ | .tsig p q _ _ | .tset p q _ _
  | .taddq p q _ _ | .tloop p q _ _ | .tjmp p q _ _ | .twaitc p q _ _ | .tend p q _ _ | .tswap p q _ _ => [p, q]
  | _ => []

/-- What a word is in a stream: a command, or a UDI with its reason (R81, R231). -/
def tileFate (x : Word) : Instr ⊕ Nat :=
  let op := (opOf x).toNat
  if op < 0xC0 ∨ 0xCE < op ∨ op = 0xCD then .inr 9
  else
    match decodeWord x with
    | .error r => .inr r.code
    | .ok i => let (r, w) := tileRegs i; if (r ++ w).any fun f => decide (32 ≤ f.toNat) then .inr 9 else .inl i

/-- TRING writes qa only when it takes. -/
def Seq.writes (q : Seq) (i : Instr) : List (BitVec 6) :=
  match i with | .tring _ _ x y => if (q.reg y).getLsbD 8 then [] else [x] | _ => (tileRegs i).2

/-- A command that reads or writes memory, an operator or the accumulator for some time. -/
def tileLong : Instr → Bool
  | .tmul .. | .tmac .. | .tacopy .. | .taload .. | .tsig .. => true
  | _ => false

/-- An entry may issue (R223, R226, R229, R230): the entries it names have retired, no earlier entry stands in the way of its registers, no TSWAP
is before it, and its own condition holds: a TRING that frees a slot releases what earlier commands under way do (R184). -/
def Seq.issuable (q : Seq) (e : SeqEntry) : Bool :=
  let before := q.win.filter fun f => decide (f.no < e.no)
  match tileFate e.word with
  | .inr _ => before.isEmpty
  | .inl i =>
    let (rd, _) := tileRegs i
    let wr := (tileRegs i).2
    !e.issued &&
    (tileBack i).all (fun p => p == 0 || !before.any fun f => f.no + p.toNat == e.no) &&
    before.all (fun f =>
      match tileFate f.word with
      | .inr _ => false
      | .inl j =>
        (match j with | .tswap .. => false | _ => true) &&
          !(tileRegs j).2.any (fun r => rd.contains r || wr.contains r) && (f.issued || !(tileRegs j).1.any fun r => wr.contains r)) &&
    (match i with
     | .twaitc _ _ x _ => decide ((q.reg x).toNat ≤ q.sc.toNat)
     | .tend .. | .tswap .. => before.isEmpty
     | .tring _ _ _ y => !(q.reg y).getLsbD 8 || !before.any fun f => f.issued && (match tileFate f.word with | .inl j => tileLong j | .inr _ => false)
     | _ => true)

/-- What a fetch of the stream gives. -/
inductive SeqFetch where
  | word (x : Word)
  | fault (cls : TrapClass) (info : Word)
  /-- The cluster's walker runs its 8 walks, and the fetch waits (R322). -/
  | busy
deriving DecidableEq, Repr

def State.seqFetch (s : State) (b : Block) (pc : DWord) : State × SeqFetch :=
  if s.walkerBusy b.who pc then (s, .busy)
  else
  match s.resolve b.who .exec pc false with
  | (s, .fault c) => (s, .fault c (lowWord pc))
  | (s, .ok pa key) =>
    if pkgOf pa ≠ s.fab.pkg then
      (if s.peerUp (pkgOf pa) then ({ s with freeCtr := s.freeCtr + 1 }, .word (Config.freeFetch s.freeCtr)) else (s, .fault .poison 0xFF))
    else if (s.windowAt pa).isSome ∨ !(isMemory (localOf pa)) then (s, .fault .prot (lowWord pc))
    else if s.mem.marked (localOf pa) then (s, .fault .poison 0xFF)
    else (s.sliceRead b.vd key (localOf pa / 64) false false, .word (BitVec.ofNat 32 (leVal (s.getBytes key (localOf pa) 4))))

/-- A word enters the window; fetch stops after a transfer and after a word that is no command. -/
def Seq.enter (q : Seq) (x : Word) : Seq :=
  let stop := match tileFate x with | .inl i => (match i with | .tloop .. | .tjmp .. | .tend .. => true | _ => false) | .inr _ => true
  { q with win := q.win ++ [⟨q.next, x, q.pc, false, 0, 0, 0, 0⟩], next := q.next + 1, pc := q.pc + 4, hold := q.hold || stop }

/-- The sequencer of a cluster moves: it fetches one word while its window has room, and issues the first entry that may. A fault of the
fetch is taken once every earlier entry has retired. -/
def State.trySeq (s : State) (cl : Nat) : Option Issued :=
  match s.seqBlock cl with
  | none => none
  | some b =>
    match b.seq, b.st with
    | some q, .resident =>
      if q.ended then none
      else
        let room := decide (q.win.length < 16) && !q.hold
        let (s, f) := if room then (match s.seqFetch b q.pc with | (s, f) => (s, some f)) else (s, none)
        let (s, q) := match f with
          | some (.word x) => (s.mapSeq b.id fun q => q.enter x, q.enter x)
          | _ => (s, q)
        (match q.win.find? q.issuable with
         | some e =>
           (match tileFate e.word with
            | .inr r => some (.done (s.seqFault b e.addr .udi r (BitVec.ofNat 32 r) 0 none))
            | .inl i => some (.run i { s with issue := { Issue.none with cl := cl, entry := e.no, word := e.word, pc := e.addr, repPc := e.addr } } none))
         | none =>
           match f with
           | some (.word _) => some (.done s)
           | some (.fault c info) => if q.win.isEmpty then some (.done (s.seqFault b q.pc c 0 info q.pc none)) else none
           | some .busy | none => none)
    | _, _ => none

/-! ## Operands and regions (R224, R225) -/

/-- Where an operand lies: in scratch at an offset, or at a virtual address; `bad` for a scratch form with bits [61:32] not zero. R224 says that they have
to be zero and names no fault: the model raises PROT, as for a scratch operand that lies beyond the scratch (DESIGN CHOICE, log 72). -/
inductive Place where
  | scratch (off : Nat)
  | virt (va : DWord)
  | bad
deriving DecidableEq, Repr

def placeOf (q : DWord) : Place :=
  if q.extractLsb' 62 2 = 1#2 then (if q.extractLsb' 32 30 = 0#30 then .scratch (q.toNat % 2 ^ 32) else .bad) else .virt q

/-- A region operand. -/
structure Region3 where
  sh    : Bool
  col0  : Nat
  fmt   : Nat
  handle : Nat
  cols  : Nat
  count : Nat
  row0  : Nat
deriving DecidableEq, Repr

/-- The region a value names in a block, none where it breaks R225. -/
def Block.region (b : Block) (q : DWord) : Option Region3 :=
  let r : Region3 := ⟨q.getLsbD 58, (q.extractLsb' 48 10).toNat, (q.extractLsb' 40 8).toNat, (q.extractLsb' 32 8).toNat, (q.extractLsb' 21 11).toNat,
    (q.extractLsb' 10 11).toNat, (q.extractLsb' 0 10).toNat⟩
  if q.extractLsb' 59 5 ≠ 0#5 ∨ r.cols = 0 ∨ r.count = 0 ∨ b.acols < r.col0 + r.cols ∨ b.arows < r.row0 + r.count then none else some r

/-- An element of the accumulator, by row and column of the block's rectangle (R221). -/
def Block.acc? (b : Block) (r c : Nat) : Reg := sget Reg.zero b.acc (1024 * r + c)
def accPut (m : List (Nat × Reg)) (r c : Nat) : List Reg → List (Nat × Reg)
  | [] => m
  | x :: t => accPut (sput Reg.zero m (1024 * r + c) x) r (c + 1) t

/-- Rows of a region written with what `f` gives. -/
def accRows (m : List (Nat × Reg)) (r c : Nat) (f : Nat → List Reg) : Nat → List (Nat × Reg)
  | 0 => m
  | n + 1 => accPut (accRows m r c f n) (r + n) c (f n)

/-! ## Commands that act at once (R226, R229, R230) -/

/-- The block and sequencer of the command in progress, with its entry. -/
def State.seqNow (s : State) : Option (Block × Seq × SeqEntry) :=
  match s.seqBlock s.issue.cl with
  | none => none
  | some b => b.seq.bind fun q => (q.win.find? fun e => e.no == s.issue.entry).map fun e => (b, q, e)

/-- A command that acts and retires at once. -/
def tileNow (f : State → Block → Seq → SeqEntry → State) (s : State) : Out :=
  match s.seqNow with
  | none => .next s
  | some (b, q, e) => .next (f s b q e)

/-- The sequencer changed and the entry retired. -/
def State.seqDone (s : State) (b : Block) (e : SeqEntry) (f : Seq → Seq) : State := s.mapSeq b.id fun q => (f q).retire e.no

def execTzero (_p _q : BitVec 4) (x _y : BitVec 6) (s : State) : Out :=
  tileNow (fun s b q e =>
    match b.region (q.reg x) with
    | none => s.seqFault b e.addr .prot 0 0 0 none
    | some r =>
      (s.mapBlock b.id fun b => { b with acc := accRows b.acc r.row0 r.col0 (fun _ => List.replicate r.cols Reg.zero) r.count }).seqDone b e id) s

def execTset (_p _q : BitVec 4) (x y : BitVec 6) (s : State) : Out :=
  tileNow (fun s b q e => s.seqDone b e fun z => z.setReg x (q.reg y)) s

def execTaddq (_p _q : BitVec 4) (x y : BitVec 6) (s : State) : Out :=
  tileNow (fun s b q e => s.seqDone b e fun z => z.setReg x (q.reg x + q.reg y)) s

/-- A transfer: fetch goes on at the target; ALIGN where its low two bits are not zero. -/
def State.seqJump (s : State) (b : Block) (e : SeqEntry) (pc : DWord) (f : Seq → Seq) : State :=
  if pc.extractLsb' 0 2 ≠ 0#2 then s.seqFault b e.addr .align 0 (lowWord pc) pc none
  else s.seqDone b e fun z => { f z with pc := pc, hold := false }

def execTloop (_p _q : BitVec 4) (x y : BitVec 6) (s : State) : Out :=
  tileNow (fun s b q e =>
    let v := q.reg x - 1
    if v = 0 then s.seqDone b e fun z => { z.setReg x v with hold := false } else s.seqJump b e (if x = y then v else q.reg y) fun z => z.setReg x v) s

def execTjmp (_p _q : BitVec 4) (x _y : BitVec 6) (s : State) : Out := tileNow (fun s b q e => s.seqJump b e (q.reg x) id) s

/-- TWAITC: its condition holds when it issues. -/
def execTwaitc (_p _q : BitVec 4) (_x _y : BitVec 6) (s : State) : Out := tileNow (fun s b _ e => s.seqDone b e id) s

def execTend (_p _q : BitVec 4) (_x _y : BitVec 6) (s : State) : Out :=
  tileNow (fun s b _ e => s.seqDone b e fun z => { z with ended := true }) s

/-- TSWAP: the operator's inactive bank becomes active (R200); PROT with the handle where there is none (R227). -/
def execTswap (_p _q : BitVec 4) (x _y : BitVec 6) (s : State) : Out :=
  tileNow (fun s b q e =>
    let h := (q.reg x).toNat % 256
    match s.handleOp b.vd b.ctx h with
    | some o =>
      if o.spare.isNone then s.seqFault b e.addr .prot 0 (BitVec.ofNat 32 h) 0 none
      else
        (s.swapBanks o).seqDone b e id
    | none => s.seqFault b e.addr .prot 0 (BitVec.ofNat 32 h) 0 none) s

/-- TRING (R229): takes a filled slot, or waits for one in the wake order of R183; or frees one. -/
def execTring (_p _q : BitVec 4) (_x y : BitVec 6) (s : State) : Out :=
  tileNow (fun s b q e =>
    let v := q.reg y
    let r := v.toNat % 8
    match b.rings[r]? with
    | none => s.seqFault b e.addr .prot 0 (BitVec.ofNat 32 r) 0 none
    | some g =>
      if v.getLsbD 8 then
        (match g.release with
         | .ok g' _ => ((s.setRing b.id r g').seqDone b e id).ringWake b.id r false
         | _ => s.seqFault b e.addr .prot 0 (BitVec.ofNat 32 r) 0 none)
      else
        match g.take with
        | .ok g' off => (s.setRing b.id r g').mapSeq b.id fun z => z.takeSlot e off
        | _ => s.mapSeq b.id fun z => { z with win := mapIf (fun f => f.no == e.no) (fun f => { f with issued := true, qb := v, prog := s.cycle + 1 }) z.win }) s

/-! ## Commands with memory effects (R227 to R229) -/

/-- A command is at work: its operands are read, and its first event is due. -/
def State.tileStart (s : State) (b : Block) (q : Seq) (e : SeqEntry) (x y : BitVec 6) (numbered : Bool) : State :=
  let no := (s.cluster b.cl).seqNo
  let s := if numbered then s.mapCluster b.cl fun c => { c with seqNo := (c.seqNo + 1) % 8192 } else s
  let c : Cmd :=
    { id := s.nextId, no := no, eng := .oe, wave := 2 ^ 32, tid := 0, mask := 0, vd := b.vd, ctx := b.ctx, block := b.id, core := 4 * b.cl + b.core,
      flags := [], op := .tile b.cl e.no, a := q.reg x, b := q.reg y, bytes := [], dst := 64, prog := 0, status := 0, deadline := 0,
      stage := .queued, buf := none, wtag := engineTag s.fab.pkg 2 b.cl no }
  let s := { s with cmds := s.cmds ++ [c], nextId := s.nextId + 1 }
  (s.mapSeq b.id fun z => { z with win := mapIf (fun f => f.no == e.no) (fun f => { f with issued := true, qa := q.reg x, qb := q.reg y, cmdNo := no }) z.win }).wakeCmd c.id

/-- The operator of a TMUL or TMAC, when the check of R227 passes. -/
def State.tileOp (s : State) (b : Block) (r : Region3) : Option Operator :=
  (s.handleOp b.vd b.ctx r.handle).filter fun o => o.d.place == 0 && o.lead == b.cl && decide (r.cols ≤ o.d.m)

/-- TMUL and TMAC: their checks, then the vectors one after another. -/
def tileMul (x y : BitVec 6) (s : State) : Out :=
  tileNow (fun s b q e =>
    match b.region (q.reg y) with
    | none => s.seqFault b e.addr .prot 0 0 0 none
    | some r =>
      match s.tileOp b r with
      | none => s.seqFault b e.addr .prot 0 (BitVec.ofNat 32 r.handle) 0 none
      | some o =>
        match placeOf (q.reg x) with
        | .bad => s.seqFault b e.addr .prot 0 (BitVec.ofNat 32 r.handle) 0 none
        | .scratch off =>
          if b.ssize < off + r.count * o.d.inBytes then s.seqFault b e.addr .prot 0 (BitVec.ofNat 32 r.handle) 0 none
          else s.tileStart b q e x y false
        | .virt _ => s.tileStart b q e x y false) s

def execTmul (_p _q : BitVec 4) (x y : BitVec 6) (s : State) : Out := tileMul x y s
def execTmac (_p _q : BitVec 4) (x y : BitVec 6) (s : State) : Out := tileMul x y s

/-- The elements of FMT in a block, none for a code TACOPY and TALOAD do not take (R228). -/
def tileCount (fmt : Nat) : Option Nat :=
  if fmt = 0x80 then some 16 else let n := (BFmt.ofCode fmt).count; if n = 0 then none else some n

/-- TACOPY and TALOAD: the region and the format are checked, and a scratch operand lies in the block's scratch. -/
def tileMove (x y : BitVec 6) (numbered : Bool) (s : State) : Out :=
  tileNow (fun s b q e =>
    match b.region (q.reg y) with
    | none => s.seqFault b e.addr .prot 0 0 0 none
    | some r =>
      match tileCount r.fmt, placeOf (q.reg x) with
      | none, _ | _, .bad => s.seqFault b e.addr .prot 0 0 0 none
      | some n, .scratch off =>
        if b.ssize < off + 64 * r.count * ((r.cols + n - 1) / n) then s.seqFault b e.addr .prot 0 (BitVec.ofNat 32 off) (BitVec.ofNat 64 off) none
        else s.tileStart b q e x y numbered
      | some _, .virt _ => s.tileStart b q e x y numbered) s

def execTacopy (_p _q : BitVec 4) (x y : BitVec 6) (s : State) : Out := tileMove x y true s
def execTaload (_p _q : BitVec 4) (x y : BitVec 6) (s : State) : Out := tileMove x y false s

/-- TSIG: after the entries it names have retired, qb is stored at qa; ALIGN where qa is not a multiple of 8. -/
def execTsig (_p _q : BitVec 4) (x y : BitVec 6) (s : State) : Out :=
  tileNow (fun s b q e =>
    if (q.reg x).toNat % 8 ≠ 0 then s.seqFault b e.addr .align 0 (lowWord (q.reg x)) (q.reg x) none
    else
      match placeOf (q.reg x) with
      | .bad => s.seqFault b e.addr .prot 0 0 0 none
      | .scratch off => if b.ssize < off + 8 then s.seqFault b e.addr .prot 0 (BitVec.ofNat 32 off) (BitVec.ofNat 64 off) none else s.tileStart b q e x y true
      | .virt _ => s.tileStart b q e x y true) s

/-! ## The work of a tile command -/

/-- The next bytes of a source: from scratch, or by an engine read, each byte followed by its mark; a word under an uncorrectable error is marked, and so is
all that an absent package or a refused read would give (R111, R112). -/
inductive TileRead where
  | data (ps : List Byte)
  | wait
  | fault (cls : TrapClass) (va : DWord)

/-- Bytes each followed by a mark. -/
def pairUp (bs : List Byte) (bad : Nat → Bool) : List Byte := (List.range bs.length).flatMap fun n => [bs[n]?.getD 0, if bad n then 1 else 0]

/-- The bytes at even places of a list. -/
def evens : List Byte → List Byte
  | a :: _ :: t => a :: evens t
  | l => l

/-- A block from bytes with their marks, as an OE holds it; n blocks. -/
def pairUnits : Nat → List Byte → List Byte
  | 0, _ => []
  | n + 1, ps =>
    let marks := evens (ps.drop 1)
    blkMarks (evens (ps.take 128)) (fun i => (marks[i]?.getD 0) != 0) ++ pairUnits n (ps.drop 128)

def State.tileRead (s : State) (b : Block) (c : Cmd) (src : DWord) (off n : Nat) : State × TileRead :=
  match placeOf src with
  | .scratch o => (s, .data (pairUp (scratchGet b.scratch (o + off) n) fun i => b.smarks.contains ((o + off + i) / 4)))
  | _ =>
    let va := src + BitVec.ofNat 64 off
    let marked (s : State) (bs : List Byte) (psn : BitVec 16) : State × TileRead :=
      (if psn = 0 then s else s.eccReport c.vd b.keyid (s.physOf c va).toNat, .data (pairUp bs fun i => psn.getLsbD ((va.toNat % 4 + i) / 4)))
    let failed (s : State) (status : Nat) (n : Nat) : State × TileRead :=
      let x := s.statusInfo c status va
      (if status = 7 then s else s.logErr c.vd (statusClass status) status c.wtag x.1 x.2.1 x.2.2 b.keyid, .data (pairUp (zeros n) fun _ => true))
    match c.buf with
    | some (bs, psn) =>
      let s' := s.mapCmd c.id fun c => { c with buf := none, status := 0 }
      if c.status = 0 then marked s' bs psn else failed s' (c.status % 256) bs.length
    | none =>
      let n := min n (64 - va.toNat % 64)
      match s.engRead c (.engRead c.id) va n with
      | (s, .data bs psn) => marked s bs psn
      | (s, .wait) => (s, .wait)
      | (s, .fault f) => (s, .fault f va)
      | (s, .fail x) => failed s x n

/-- A tile command has retired. -/
def State.tileEnd (s : State) (b : Block) (c : Cmd) (no : Nat) : State := (s.dropCmd c.id).mapSeq b.id fun q => q.retire no

/-- A block that TACOPY writes: elements of a row in a format (R228). -/
def tileBlock (fmt : Nat) (ys : List Reg) : List Byte :=
  if fmt = 0x80 then ((ys.flatMap fun y => leBytes 4 (if y.psn then poisonInt else y.val).toNat) ++ zeros 64).take 64
  else outBlock (BFmt.ofCode fmt) ys

/-- The elements TALOAD reads from a block with its marks (R111, R112, R228). -/
def tileElems (fmt : Nat) (blk : Nat) (n : Nat) : List Reg :=
  (List.range n).map fun i =>
    if fmt = 0x80 then
      if (List.range 4).any fun j => blkBad blk (4 * i + j) then ⟨poisonFloat, true⟩ else ⟨BitVec.ofNat 32 (blk / 2 ^ (32 * i)), false⟩
    else
      let f := BFmt.ofCode fmt
      match seqElem f [blk] i with
      | some (x, sc) => ⟨(roundF .rne ((f.dec x).scale sc)).1, false⟩
      | none => ⟨poisonFloat, true⟩

/-- One unit of TMUL or TMAC: the input of vector `prog` is read, then its work at the OE runs, then its row is written; `deadline` is 1 while
the OE works, `status` 1 when a scale has poisoned the whole region (R107). -/
def State.tileMulStep (s : State) (b : Block) (c : Cmd) (no : Nat) (pc : DWord) (mac : Bool) : Nat → State
  | 0 => s
  | fuel + 1 =>
    match s.cmd? c.id, s.block? b.id with
    | some c, some b =>
      match b.region c.b with
      | none => s
      | some r =>
        match s.tileOp b r with
        | none => s.seqFault b pc .prot 0 (BitVec.ofNat 32 r.handle) 0 none
        | some o =>
          let d := o.d
          if r.count ≤ c.prog then
            let s := if c.dst = 65 then s.mapBlock b.id fun b => { b with acc := accRows b.acc r.row0 r.col0 (fun n =>
                (List.range r.cols).map fun k => { b.acc? (r.row0 + n) (r.col0 + k) with psn := true }) r.count } else s
            s.tileEnd b c no
          else if c.deadline = 1 then
            match c.buf with
            | none => s
            | some (inp, _) =>
              let row := r.row0 + c.prog
              let old (k : Nat) : Reg := if mac then b.acc? row (r.col0 + k) else Reg.zero
              let ys := opOutputs d (inp.drop d.inUnits) r.cols (inp.take d.inUnits) old
              let sc := decide (d.of = 0x80) && (scaled d.xf (blocksOf (blocksFor d.xf d.k) inp) d.k ||
                (List.range r.cols).any fun i => scaled d.wf (blocksOf (blocksFor d.wf d.k) (inp.drop (d.inUnits + i * d.rowUnits))) d.k)
              let s := s.mapBlock b.id fun b => { b with acc := accPut b.acc row r.col0 ys }
              State.tileMulStep (s.mapCmd c.id fun c => { c with
                deadline := 0, buf := none, bytes := [], prog := c.prog + 1, dst := if sc then 65 else c.dst }) b c no pc mac fuel
          else if 2 * d.inBytes ≤ c.bytes.length then
            State.due { s.mapCmd c.id (fun c => { c with deadline := 1, stage := .waiting, buf := none }) with
              fires := s.fires ++ [{ oe := o.lead, op := o.uid, slot := 0, running := false, tile := some c.id,
                                     input := pairUnits (d.inBytes / 64) c.bytes, res := [] }] } [evn .fireStart o.lead]
          else
            let have_ := c.bytes.length / 2
            match s.tileRead b c c.a (c.prog * d.inBytes + have_) (d.inBytes - have_) with
            | (s, .data ps) => State.tileMulStep (s.mapCmd c.id fun c => { c with bytes := c.bytes ++ ps }) b c no pc mac fuel
            | (s, .wait) => s
            | (s, .fault f va) => s.seqAccessFault b c pc f va false
    | _, _ => s

/-- A write of a tile command: to scratch, where SH has no meaning and is ignored (R228 does not say; DESIGN CHOICE, log 82), or as an engine write; a dropped
or failed one has its entry, and the others go ahead. -/
def State.tileWrite (s : State) (b : Block) (c : Cmd) (dst : DWord) (off : Nat) (bs : List Byte) (sh : Bool) : State × Option (Option (TrapClass × DWord)) :=
  match placeOf dst with
  | .scratch o => (s.mapBlock b.id fun b => b.putScratch (o + off) bs, some none)
  | _ =>
    let va := dst + BitVec.ofNat 64 off
    match s.engWrite c va bs sh with
    | (s, .data _ _) => (s, some none)
    | (s, .wait) => (s, none)
    | (s, .fault f) => (s, some (some (f, va)))
    | (s, .fail n) =>
      let x := s.statusInfo c n va
      (s.logErr c.vd (statusClass n) n c.wtag x.1 x.2.1 x.2.2 b.keyid, some none)

/-- TACOPY and TALOAD, block by block; `prog` counts bytes. -/
def State.tileMoveStep (s : State) (b : Block) (c : Cmd) (no : Nat) (pc : DWord) (load : Bool) : Nat → State
  | 0 => s
  | fuel + 1 =>
    match s.cmd? c.id, s.block? b.id with
    | some c, some b =>
      match b.region c.b, (b.region c.b).bind fun r => tileCount r.fmt with
      | some r, some n =>
        let nb := (r.cols + n - 1) / n
        let k := c.prog / 64
        let row := r.row0 + k / nb
        let col := k % nb * n
        let w := min n (r.cols - col)
        if r.count * nb ≤ k then s.tileEnd b c no
        else if load then
          if 128 ≤ c.bytes.length then
            let s := s.mapBlock b.id fun b => { b with acc := accPut b.acc row (r.col0 + col) (tileElems r.fmt (leVal (pairUnits 1 c.bytes)) w) }
            State.tileMoveStep (s.mapCmd c.id fun c => { c with bytes := [], prog := c.prog + 64 }) b c no pc load fuel
          else
            match s.tileRead b c c.a (c.prog + c.bytes.length / 2) (64 - c.bytes.length / 2) with
            | (s, .data ps) => State.tileMoveStep (s.mapCmd c.id fun c => { c with bytes := c.bytes ++ ps }) b c no pc load fuel
            | (s, .wait) => s
            | (s, .fault f va) => s.seqAccessFault b c pc f va false
        else
          let bs := tileBlock r.fmt ((List.range w).map fun i => b.acc? row (r.col0 + col + i))
          let va := c.a + BitVec.ofNat 64 c.prog
          let part := match placeOf c.a with | .scratch _ => 64 - c.prog % 64 | _ => min (64 - c.prog % 64) (64 - va.toNat % 64)
          match s.tileWrite b c c.a c.prog ((bs.drop (c.prog % 64)).take part) r.sh with
          | (s, some none) => State.tileMoveStep (s.mapCmd c.id fun c => { c with prog := c.prog + part }) b c no pc load fuel
          | (s, none) => s
          | (s, some (some (f, va))) => s.seqAccessFault b c pc f va true
      | _, _ => s
    | _, _ => s

end Sys2Proof.Machine
end

