-- ==== Sys2Proof/Machine/Agents.lean ====
section
/-!
DEFINITION. The next agent that issues: a wave's arbiter or a tile sequencer (logs 3 and 4).
-/

namespace Sys2Proof.Machine

/-- What an agent issues. -/
def State.tryAgent (s : State) : Agent → Option Issued
  | .wave id =>
    match s.wave? id with
    | none => none
    | some w =>
      (s.issueAt w.arbiter).map fun (p, ptr) =>
        ((s.movePtr w.arbiter ptr).startTurn p).issuePick p
  | .seq cl => s.trySeq cl

/-- The first agent, from the selected one on, that has something to issue; the agent after it is selected next. In PS3
nothing issues (R406). -/
def State.tryAll (s : State) : List Agent → Issued
  | [] => .done s
  | a :: t =>
    match ({ s with sel := (t ++ [a]).headD a }).tryAgent a with
    | some x => x
    | none => State.tryAll s t

def State.issueNext (s : State) : Issued := if s.plat.pscur = 3 then .done s else s.tryAll s.turnOrder

end Sys2Proof.Machine
end

