-- ==== Sys2Proof/Machine/Engines.lean ====
section
/-!
DEFINITION. Copies (R237 to R240), shadowed ranges (R241, R242) and PUBLISH (R243). The work of a copy, a bind or a free is done in
ENGINE_COMMAND_COMPLETE (Sys2Proof/Machine/Launches.lean), that of PUBLISH in SHADOW_FLIP.
-/

namespace Sys2Proof.Machine

/-! ## Copy descriptors (R238) -/

/-- A copy: a descriptor's fields; a CPY is rows of 16 bytes. -/
structure CopyDesc where
  src : DWord
  dst : DWord
  idx : DWord
  count : Nat
  rbytes : Nat
  sstride : DWord
  dstride : DWord
  skind : Nat
  dkind : Nat
  conv : Nat

def CopyDesc.ofBytes (bs : List Byte) : CopyDesc :=
  let f (o n : Nat) := field bs o n
  { src := BitVec.ofNat 64 (f 0 8), dst := BitVec.ofNat 64 (f 8 8), idx := BitVec.ofNat 64 (f 16 8), count := f 24 4, rbytes := f 28 4,
    sstride := BitVec.ofNat 64 (f 32 8), dstride := BitVec.ofNat 64 (f 40 8), skind := f 48 1, dkind := f 49 1, conv := f 50 1 }

/-- The bytes of a CPY as a descriptor. -/
def cpyBytes (src dst : DWord) (len kind : Nat) : List Byte :=
  leBytes 8 src.toNat ++ leBytes 8 dst.toNat ++ zeros 8 ++ leBytes 4 len ++ leBytes 4 16 ++ leBytes 8 16 ++ leBytes 8 16 ++ zeros 1 ++ leBytes 1 kind
    ++ zeros 14

/-- Every field of a descriptor lies in its range (R238, R240). -/
def copyDescOk (bs : List Byte) : Bool :=
  let d := CopyDesc.ofBytes bs
  let al := if d.conv = 0 then 16 else 64
  decide (1 ≤ d.count) && decide (d.count ≤ 16777216) && decide (16 ≤ d.rbytes) && decide (d.rbytes ≤ 1048576) && decide (d.rbytes % al = 0) &&
    decide (d.sstride.toNat % 16 = 0) && decide (d.dstride.toNat % 16 = 0) && decide (d.skind ≤ 1) && decide (d.dkind ≤ 2) &&
    [0, 0x10, 0x11, 0x20, 0x21, 0x40].contains d.conv && decide (field bs 51 13 = 0) && decide (d.src.toNat % al = 0) && decide (d.dst.toNat % al = 0)

/-- Element i of a block as a conversion reads it: the scale of an integer block applies only where the result is a float (R101). -/
def convElem (f : BFmt) (b i : Nat) : Option FVal :=
  let g := BFmt.ofCode (blkCode b)
  if g.isInt && f.isInt then some (g.dec (blkElem g b i)) else blkRead b i

/-- A block converted (R240). -/
def convBlock (conv : Nat) (bs : List Byte) : List Byte :=
  let b := leVal bs
  let f := BFmt.ofCode conv
  let g := BFmt.ofCode (blkCode b)
  if g = .zero then zeros 64
  else if g = .bad ∨ g.count ≠ f.count then blkPoison
  else
    match allSome ((List.range g.count).map (convElem f b)) with
    | none => blkPoison
    | some vs =>
      let sc := computedScale f vs
      blkBuild f sc fun i => (f.enc .rne false ((vs[i]?.getD (.fin false 0 0)).scale (-sc))).1

/-- The blocks of a row converted, n of them. -/
def convRow (conv : Nat) : Nat → List Byte → List Byte
  | 0, _ => []
  | n + 1, bs => convBlock conv (bs.take 64) ++ convRow conv n (bs.drop 64)

/-! ## The work of a copy (R239). A command's bytes are its descriptor, then for the row in progress its index, its number and what has been
read of it; `prog` counts the bytes written, `b` the rows whose lines are pinned; `deadline` is 1 once its descriptor has been judged. -/

/-- An engine's access that gave no data: it waits, waits for the service, or ends its command. -/
def State.engStop (s : State) (c : Cmd) (va : DWord) (write : Bool) : EngRes → State
  | .data .. | .wait => s
  | .fault f => if f = .page ∨ f = .rdw then s.faultCmd c va f write else s.endCmd c 2 va id
  | .fail x => s.endCmd c x va id

/-- The index of a row read, for GATH and SCAT, a line at a time; a row whose index is under an uncorrectable error is skipped with status ECC (R239). The lines
the row will write are pinned (R313). -/
def State.copyIndex (s : State) (c : Cmd) (d : CopyDesc) (row : Nat) : State × Bool :=
  let got := c.bytes.length - 64
  let va := d.idx + BitVec.ofNat 64 (4 * row + got)
  let take (s : State) (bs : List Byte) (psn : BitVec 16) : State × Bool :=
    if psn ≠ 0 then
      ((s.noteFail c.id 3 va).mapCmd c.id fun c => { c with buf := none, bytes := c.bytes.take 64, prog := c.prog + d.rbytes }, true)
    else
      (s.mapCmd c.id fun c =>
        let all := c.bytes ++ bs
        { c with buf := none, bytes := if all.length = 68 then all ++ leBytes 4 row else all }, true)
  match c.op with
  | .gath | .scat =>
    (match c.buf with
     | some (bs, psn) => take s bs psn
     | none =>
       match s.engRead c (.engRead c.id) va (min (64 - va.toNat % 64) (4 - got)) with
       | (s, .data bs psn) => take s bs psn
       | (s, r) => (s.engStop c va false r, false))
  | _ => take s (zeros 4) 0

/-- Address or offset of a row in the source or the destination. -/
def rowAt (base stride : DWord) (i : Nat) : DWord := base + BitVec.ofNat 64 i * stride

/-- A block's scratch from an offset holds a word under an error (R309). -/
def Block.struckIn (b : Block) (o n : Nat) : Bool := b.smarks.any fun x => decide (o < 4 * x + 4) && decide (4 * x < o + n)

/-- Bytes read into the row; complete, it is converted. -/
def State.copyTake (s : State) (c : Cmd) (d : CopyDesc) (bs : List Byte) (psn : BitVec 16) (va : DWord) : State × Bool :=
  if psn ≠ 0 then (s.endCmd c 3 va id, false)
  else
    (s.mapCmd c.id fun c =>
      let all := c.bytes ++ bs
      { c with buf := none, bytes := if d.conv ≠ 0 ∧ all.length = 72 + d.rbytes then all.take 72 ++ convRow d.conv (d.rbytes / 64) (all.drop 72) else all }, true)

/-- The next bytes of a row read. -/
def State.copyRead (s : State) (c : Cmd) (d : CopyDesc) (i : Nat) : State × Bool :=
  let off := c.bytes.length - 72
  let va := rowAt d.src d.sstride i + BitVec.ofNat 64 off
  match c.buf with
  | some (bs, psn) => s.copyTake c d bs psn va
  | none =>
    if d.skind = 1 then
      let o := (rowAt (d.src &&& 0xFFFFFFFF) d.sstride i).toNat
      match s.block? c.block with
      | some b =>
        if b.ssize < o + d.rbytes then (s.endCmd c 2 va id, false)
        else if b.struckIn o d.rbytes then (s.endWith c 3 (BitVec.ofNat 32 o, BitVec.ofNat 64 o, false) id, false)
        else s.copyTake c d (scratchGet b.scratch o d.rbytes) 0 va
      | none => (s.endCmd c 2 va id, false)
    else
      match s.engRead c (.engRead c.id) va (min (64 - va.toNat % 64) (d.rbytes - off)) with
      | (s, .data bs psn) => s.copyTake c d bs psn va
      | (s, r) => (s.engStop c va false r, false)

/-- The next bytes of a row written. -/
def State.copyWrite (s : State) (c : Cmd) (d : CopyDesc) (i : Nat) : State × Bool :=
  let off := c.prog % d.rbytes
  let row := c.bytes.drop 72
  let va := rowAt d.dst d.dstride i + BitVec.ofNat 64 off
  if d.dkind = 1 then
    let o := (rowAt (d.dst &&& 0xFFFFFFFF) d.dstride i).toNat
    match s.block? c.block with
    | some b =>
      if b.ssize < o + d.rbytes then (s.endCmd c 2 va id, false)
      else
        ((s.mapBlock c.block fun b => b.putScratch o row).mapCmd c.id fun c => { c with prog := c.prog + d.rbytes }, true)
    | none => (s.endCmd c 2 va id, false)
  else
    let n := min (64 - va.toNat % 64) (d.rbytes - off)
    match s.engStore c va (row.drop off) (d.dkind = 2) with
    | (s, .data ..) => (s.mapCmd c.id fun c => { c with prog := c.prog + n }, true)
    | (s, r) => (s.engStop c va true r, false)

/-- One unit of a copy: whether the copy goes on now. -/
def State.copyUnit (s : State) (c : Cmd) : State × Bool :=
  let d := CopyDesc.ofBytes c.bytes
  let row := c.prog / max 1 d.rbytes
  let at' (stored : Nat) (k : Bool) : Nat :=
    match c.op with
    | .gath => if k then field c.bytes 64 4 else stored
    | .scat => if k then stored else field c.bytes 64 4
    | _ => stored
  if c.status ≠ 0 ∧ c.status ≠ 3 ∧ c.status ≠ 7 then (s.endCmd c (c.status % 256) c.bad id, false)
  else if c.bytes.length < 72 then
    (if d.count ≤ row then (s.endCmd c c.status c.a id, false) else s.copyIndex c d row)
  else if c.bytes.length = 72 ∧ d.dkind ≠ 1 ∧ d.rbytes ≠ 0 ∧ c.b ≠ BitVec.ofNat 64 (row + 1) then
    ((s.pinRange c (rowAt d.dst d.dstride (at' row false)) d.rbytes (d.dkind = 2)).mapCmd c.id fun c => { c with b := BitVec.ofNat 64 (row + 1) }, true)
  else if c.bytes.length < 72 + d.rbytes then s.copyRead c d (at' row true)
  else if field c.bytes 68 4 ≠ row then (s.mapCmd c.id fun c => { c with bytes := c.bytes.take 64 }, true)
  else s.copyWrite c d (at' row false)

/-- A copy's work, unit by unit. -/
def State.copyGo (s : State) (id : Nat) : Nat → State
  | 0 => s
  | n + 1 =>
    match s.cmd? id with
    | none => s
    | some c => match s.copyUnit c with | (s, true) => State.copyGo s id n | (s, false) => s

/-! ## Shadowed ranges (R241 to R243) -/

def State.shadow? (s : State) (vd ctx h : Nat) : Option Shadow := s.shadows.find? fun x => x.vd == vd && x.ctx == ctx && x.handle == h
/-- Two records are of one range. -/
def Shadow.same (x y : Shadow) : Bool := x.vd == y.vd && x.ctx == y.ctx && x.handle == y.handle

/-- The range that a PUBLISH, a release or a read of a generation names, in the context its issuer's addresses are translated through (R54, R241). -/
def State.rangeOf (s : State) (view : Option (Nat × Nat)) (h : Nat) : Option Shadow := view.bind fun x => s.shadow? x.1 x.2 (h % 64)
def State.cmdRange (s : State) (c : Cmd) : Option Shadow := s.rangeOf (s.cmdView c) c.a.toNat

/-- Bytes of a range. -/
def Shadow.size (x : Shadow) : Nat := 4096 * x.x.length

/-- Two ranges of n bytes overlap, modulo 2^64 (R237). -/
def overlapsMod (a b : DWord) (n : Nat) : Bool := decide ((b - a).toNat < n) || decide ((a - b).toNat < n)

/-- Ranges of addresses overlap. -/
def overlaps (a n b m : Nat) : Bool := decide (a < b + m) && decide (b < a + n)

/-- A collective descriptor's fields (R244). -/
structure CollDesc where
  op : Nat
  comb : Nat
  dkind : Nat
  root : Nat
  count : Nat
  group : BitVec 128
  src : DWord
  dst : DWord
  tag : Word
  sig : DWord

def CollDesc.ofBytes (bs : List Byte) : CollDesc :=
  let f (o n : Nat) := field bs o n
  { op := f 0 1, comb := f 1 1, dkind := f 2 1, root := f 3 1, count := f 4 4, group := BitVec.ofNat 128 (f 8 16), src := BitVec.ofNat 64 (f 24 8),
    dst := BitVec.ofNat 64 (f 32 8), tag := BitVec.ofNat 32 (f 40 4), sig := BitVec.ofNat 64 (f 48 8) }

/-- Members of a group in rank order. -/
def members (g : BitVec 128) : List Nat := (List.range 128).filter fun n => g.getLsbD n

/-- Words of a reduction's data: a triple has m and s before its elements. -/
def CollDesc.words (d : CollDesc) (n : Nat) : Nat := if d.comb = 4 then n + 2 else n

/-- Words a member's SRC and DST hold (R244, R246). -/
def CollDesc.srcWords (d : CollDesc) (pkg : Nat) : Nat :=
  match d.op with
  | 2 => if pkg = d.root then d.count else 0
  | 3 | 5 => d.count
  | _ => d.words d.count
def CollDesc.dstWords (d : CollDesc) (pkg : Nat) : Nat :=
  match d.op with
  | 0 => d.words d.count
  | 1 => if pkg = d.root then d.words d.count else 0
  | 3 => (members d.group).length * d.count
  | 4 => d.words (d.count / max 1 (members d.group).length)
  | _ => d.count

/-- A command may still write a shadowed range as hidden; another package's multicast holds its DKIND as `tid` and its whole destination from `pc` on, in parts
that come one after another. What a SCAT or a tile command writes, and what a command whose descriptor is not
read yet writes, is taken to be any of its context's ranges. -/
def State.mayWrite (s : State) (c : Cmd) (x : Shadow) : Bool :=
  let d := CopyDesc.ofBytes c.bytes
  s.cmdView c == some (x.vd, x.ctx) &&
  (match c.op with
   | .cpy k => decide (k = 2) && overlaps d.dst.toNat (16 * d.count) x.vbase x.size
   | .cpyw | .gath =>
     decide (c.bytes.length < 64) ||
       (decide (d.dkind = 2) && (List.range d.count).any fun i => overlaps (rowAt d.dst d.dstride i).toNat d.rbytes x.vbase x.size)
   | .scat => decide (c.bytes.length < 64) || decide (d.dkind = 2)
   | .coll | .mcast =>
     let e := CollDesc.ofBytes c.bytes
     decide (c.bytes.length < 64) || (decide (e.dkind = 2) && overlaps e.dst.toNat (4 * e.dstWords s.fab.pkg) x.vbase x.size)
   | .mcastIn => decide (c.tid = 2) && decide (c.deadline < 2 ^ 40) && overlaps c.pc.toNat c.deadline x.vbase x.size
   | .tile cl no =>
     (match ((s.seqBlock cl).bind (·.seq)).bind fun q => q.win.find? fun e => e.no == no with
      | some e => (match tileFate e.word with | .inl (.tacopy ..) => c.b.getLsbD 58 | _ => false)
      | none => false)
   | _ => false)

/-- When a command was accepted, as a name: a part of another package's multicast came with the first of its parts. -/
def State.birth (s : State) (c : Cmd) : Nat :=
  match c.op with
  | .mcastIn => (s.cmds.filter fun e => e.op == .mcastIn && e.dst == c.dst && e.no == c.no).foldl (fun n e => min n e.id) c.id
  | _ => c.id

/-- A PUBLISH that has not flipped yet holds a later command that has not started (R243). -/
def State.heldBack (s : State) (c : Cmd) : Bool :=
  decide (c.prog = 0) &&
  s.cmds.any fun e =>
    decide (e.id < s.birth c) && decide (e.prog = 0) &&
    (match e.op with
     | .publish _ => (s.cmdRange e).any (s.mayWrite c)
     | _ => false)

/-- The commands before a PUBLISH or a release of a range have made their writes to it, and those before it on the same range are done. -/
def State.turnCome (s : State) (c : Cmd) (x : Shadow) : Bool :=
  !s.cmds.any fun e =>
    decide (s.birth e < c.id) && e.id != c.id &&
    (s.mayWrite e x || (match e.op with | .publish _ | .free => (s.cmdRange e).any x.same | _ => false))

/-- The accesses older than a name that translated through a range, which alone reach its frames (R242), have been performed. -/
def State.drainedRange (s : State) (x : Shadow) (limit : Nat) : Bool :=
  !s.accs.any fun a =>
    decide (a.id < limit) && decide (a.pa ≠ 0) && (x.x ++ x.y).contains (a.pa / 4096 * 4096) &&
    (match a.stage with | .issued | .held | .remote _ | .unready _ | .firing | .watching | .polled => true | _ => false)

/-- A PUBLISH or a release can go on. -/
def State.shadowDue (s : State) (c : Cmd) : Bool :=
  match s.cmdRange c with
  | none => true
  | some x => if c.prog = 0 then s.turnCome c x else s.drainedRange x c.deadline

/-- The commands that a PUBLISH held start. -/
def State.startHeld (s : State) (no : Nat) : State :=
  (s.cmds.filter fun e => decide (no < e.id) && (match e.op, e.stage with
    | .cpy _, .queued | .cpyw, .queued | .gath, .queued | .scat, .queued | .coll, .queued | .mcast, .queued | .mcastIn, .queued | .tile .., .queued => true
    | _, _ => false)).foldl (fun s e => s.wakeCmd e.id) s

/-- SHADOW_FLIP (R243; n: command): a PUBLISH whose earlier commands are done flips the generation; once the accesses of before have been
performed it acquires and completes. -/
def execShadowFlip (s : State) : Out :=
  match s.cmd? s.ev.n with
  | none => .next s
  | some c =>
    match s.cmdRange c with
    | none => .next (s.endCmd c 1 0 id)
    | some x =>
      if !s.shadowDue c then .next s
      else if c.prog = 0 then
        let s := { s with shadows := mapIf x.same (fun x => { x with gen := x.gen + 1 }) s.shadows }
        let s := s.mapCmd c.id fun c => { c with prog := 1, deadline := s.nextId }
        .next ((s.startHeld c.id).wakeCmd c.id)
      else
        let scope := match c.op with | .publish n => n | _ => 0
        .next ((s.acquireAt c.wave c.core scope).endCmd c 0 0 id)

/-- The work of SHDW.FREE: PARITY at an odd generation, else as PUBLISH waits, and the range is gone. -/
def State.freeRun (s : State) (c : Cmd) : State :=
  match s.cmdRange c with
  | none => s.endCmd c 1 0 id
  | some x =>
    if x.gen.toNat % 2 = 1 then s.endCmd c 0xA 0 id
    else if !s.shadowDue c then s
    else if c.prog = 0 then (s.mapCmd c.id fun c => { c with prog := 1, deadline := s.nextId }).wakeCmd c.id
    else
      State.endCmd { s with shadows := s.shadows.filter fun y => !x.same y } c 0 0 id

/-- The bind fails: D receives all ones. -/
def State.bindFail (s : State) (c : Cmd) (status : Nat) (va : DWord) : State := s.endCmd c status va (c.give 0xFFFFFFFF)

/-- VBASE, HBASE and the 4 KiB pages of each range. -/
def bindDesc (bs : List Byte) : Nat × Nat × Nat := (field bs 0 8, field bs 8 8, 16 * field bs 16 4)

/-- The ranges of a context. -/
def State.rangesOf (s : State) (v : Nat × Nat) : List Shadow := s.shadows.filter fun x => x.vd == v.1 && x.ctx == v.2

/-- What a shadow descriptor must hold before its pages are looked at (R241); a range is of one context, so addresses that none translates have none. -/
def State.bindOk (s : State) (c : Cmd) : Bool :=
  let (v, h, n) := bindDesc c.bytes
  let mine := (s.cmdView c).elim [] s.rangesOf
  (s.cmdView c).isSome &&
  decide (v % 65536 = 0) && decide (h % 65536 = 0) && decide (16 ≤ n) && decide (n ≤ 16 * 65536) && decide (field c.bytes 20 12 = 0) &&
    !overlaps v (4096 * n) h (4096 * n) && decide (mine.length < 64) &&
    mine.all fun x => !overlaps v (4096 * n) x.vbase x.size && !overlaps h (4096 * n) x.vbase x.size

/-- A frame may back a range: memory of this package that backs no other range and that no operator window covers (R241). -/
def State.frameFree (s : State) (pa : Nat) : Bool :=
  decide (pkgOf pa = s.fab.pkg) && isMemory (localOf pa) && !s.shadowFrame pa &&
    !s.ops.any fun o => (o.iw ++ o.ow).any fun l => l / 64 == localOf pa / 4096

/-- The pages of both ranges looked up one after another: their frames follow the descriptor, `deadline` keeps the KeyID. What R241 asks is looked at
again when the last is there, since other binds and installs go on while a page waits. -/
def State.bindGo (s : State) (id : Nat) : Nat → State
  | 0 => s
  | fuel + 1 =>
    match s.cmd? id with
    | none => s
    | some c =>
      let (v, h, n) := bindDesc c.bytes
      if 2 * n ≤ c.prog then
        let f := (List.range (2 * n)).map fun k => field c.bytes (32 + 8 * k) 8
        let view := (s.cmdView c).getD (c.vd, c.ctx)
        let used := (s.rangesOf view).map (·.handle)
        let hd := ((List.range 64).find? fun k => !used.contains k).getD 0
        if f.any fun pa => !s.frameFree pa then s.bindFail c 1 c.a
        else
        let x : Shadow := ⟨hd, view.1, view.2, v, h, c.deadline, f.take n, f.drop n, 0⟩
        State.endCmd { s with shadows := s.shadows ++ [x] } c 0 0 (c.give (BitVec.ofNat 32 hd))
      else
        let va := BitVec.ofNat 64 (if c.prog < n then v + 4096 * c.prog else h + 4096 * (c.prog - n))
        if s.walkerBusy (s.cmdWho c) va then s.wakeCmd id else
        match s.resolve (s.cmdWho c) .write va false with
        | (s, .fault f) => if f = .page ∨ f = .rdw then s.faultCmd c va f true else s.bindFail c 1 va
        | (s, .ok pa key) =>
          if !s.frameFree pa ∨ (c.prog ≠ 0 ∧ key ≠ c.deadline) then s.bindFail c 1 va
          else
            State.bindGo (s.mapCmd c.id fun c => { c with bytes := c.bytes ++ leBytes 8 pa, prog := c.prog + 1, deadline := key }) id fuel

/-- The work of SHDW. -/
def State.bindRun (s : State) (c : Cmd) : State :=
  match s.readDesc c 32 4 with
  | (s, false) => s
  | (s, true) =>
    match s.cmd? c.id with
    | none => s
    | some c =>
      match s.descEnd c (c.give 0xFFFFFFFF) with
      | some s => s
      | none => if !s.bindOk c then s.bindFail c 1 c.a else s.bindGo c.id (2 * (bindDesc c.bytes).2.2 + 1)

/-- The work of a copy: its descriptor and its checks, then its rows. -/
def State.copyRun (s : State) (c : Cmd) : State :=
  let cpy : Bool := match c.op with | .cpy _ => true | _ => false
  match (if cpy || c.deadline != 0 then (s, true) else s.readDesc c 64 4) with
  | (s, false) => s
  | (s, true) =>
    match s.cmd? c.id with
    | none => s
    | some c =>
      match (if cpy || c.deadline != 0 then none else s.descEnd c id) with
      | some s => s
      | none =>
        let d := CopyDesc.ofBytes c.bytes
        if !cpy && !copyDescOk c.bytes then s.endCmd c 1 c.a id
        else if cpy && decide (c.deadline = 0) && decide (d.dkind ≠ 1) && overlapsMod d.src d.dst (16 * d.count) then s.endCmd c 5 d.dst id
        else if s.heldBack c then s
        else (s.mapCmd c.id fun c => { c with
          deadline := 1, b := if c.deadline = 0 then 0 else c.b, buf := if c.deadline = 0 then none else c.buf }).copyGo c.id (d.count * (d.rbytes / 4 + 8) + 8)

/-! ## Tile commands at work -/

/-- TILE_COMMAND_RETIRE (R223, R227 to R229; n: cluster, m: entry): a tile command goes on with its work, and retires when its effect is
complete. -/
def execTileCommandRetire (s : State) : Out :=
  match s.seqBlock s.ev.n with
  | none => .next s
  | some b =>
    match b.seq.bind fun q => q.win.find? fun e => e.no == s.ev.m, s.cmds.find? fun c => c.op == .tile s.ev.n s.ev.m with
    | some e, some c =>
      if s.heldBack c then .next s
      else (match tileFate e.word with
       | .inl (.tmul ..) => .next (s.tileMulStep b c e.no e.addr false (2 ^ 20))
       | .inl (.tmac ..) => .next (s.tileMulStep b c e.no e.addr true (2 ^ 20))
       | .inl (.tacopy ..) => .next (s.tileMoveStep b c e.no e.addr false (2 ^ 20))
       | .inl (.taload ..) => .next (s.tileMoveStep b c e.no e.addr true (2 ^ 20))
       | .inl (.tsig ..) =>
         if c.prog ≠ 0 then .next (s.tileEnd b c e.no)
         else
           (match s.tileWrite b c c.a 0 (leBytes 8 c.b.toNat) false with
            | (s, some none) => .next (s.tileEnd b c e.no)
            | (s, none) => .next s
            | (s, some (some (f, va))) => .next (s.seqAccessFault b c e.addr f va true))
       | _ => .next s)
    | _, _ => .next s

/-! ## The instructions -/

/-- CPY (R237). -/
def execCpy (d a : BitVec 6) (k : BitVec 2) (l : BitVec 6) (s : State) : Out :=
  let i : Instr := .cpy d a k l
  postEach i true (fun w th => [(0, if k = 1 then (opd w th d).2 else (pairAt w th d).2), (1, (pairAt w th a).2)])
    (fun s w t _ =>
      let src := (pairAt w (w.th t) a).1
      let dst := if k = 1 then opz w t d else (pairAt w (w.th t) d).1
      let len := immZ s.issue.himm l
      if src.toNat % 16 ≠ 0 then s.trapFor w i t .align 0 (lowWord src) src
      else if dst.toNat % 16 ≠ 0 then s.trapFor w i t .align 0 (lowWord dst) dst
      else if k = 1 ∧ (w.isVent ∨ s.ssize w < dst.toNat + 16 * len) then s.trapFor w i t .prot 0 (lowWord dst) dst
      else
        let id := s.nextId
        (s.post w i t w.copyEngine (.cpy k.toNat) src dst 64 false .queued).mapCmd id fun c => { c with bytes := cpyBytes src dst len k.toNat }) s

/-- A command whose descriptor stands at the pair A. -/
def descCmd (i : Instr) (copyRole : Bool) (e : Wave → Engine) (op : CmdOp) (a : BitVec 6) (dst size : Nat) (s : State) : Out :=
  postEach i copyRole (fun w th => [(1, (pairAt w th a).2)])
    (fun s w t en => s.postWithDesc w i t (e w) op (pairAt w (w.th t) a).1 0 dst size false en) s

def execGath (a : BitVec 6) (s : State) : Out := descCmd (.gath a) true Wave.copyEngine .gath a 64 64 s
def execScat (a : BitVec 6) (s : State) : Out := descCmd (.scat a) true Wave.copyEngine .scat a 64 64 s
def execCpyw (a : BitVec 6) (s : State) : Out := descCmd (.cpyw a) true Wave.copyEngine .cpyw a 64 64 s
def execShdwBind (d a : BitVec 6) (s : State) : Out := descCmd (.shdwBind d a) true (fun _ => .shadow) .bind a d.toNat 32 s

def execShdwFree (a : BitVec 6) (s : State) : Out :=
  let i : Instr := .shdwFree a
  postEach i true (fun w th => [(1, (opd w th a).2)]) (fun s w t _ => s.post w i t .shadow .free (opz w t a) 0 64 false .queued) s

/-- SHDW.GEN reads a generation at once. -/
def execShdwGen (d a : BitVec 6) (s : State) : Out :=
  let i : Instr := .shdwGen d a
  skipAhead i (fun s _ => s.simt i fun c =>
    let h := c.read a
    if h.psn then trapPoison 1
    else c.ret d (match c.s.rangeOf (c.s.view (c.s.who c.w)) h.val.toNat with | some x => x.gen | none => 0xFFFFFFFF) false) s

/-- PUBLISH (R243). -/
def execPublish (a : BitVec 6) (c : BitVec 3) (s : State) : Out :=
  let i : Instr := .publish a c
  postEach i true (fun w th => [(1, (opd w th a).2)]) (fun s w t _ => s.post w i t .shadow (.publish c.toNat) (opz w t a) 0 64 false .queued) s

end Sys2Proof.Machine
end

