-- ==== Sys2Proof/Machine/Inbound.lean ====
section
/-!
DEFINITION. The map of the device range (R40, R383, R386, R402, R411), and inbound requests of root ports (R303, R403): a request is a command of
its port, worked a line at a time, and a port's writes are performed in order. A request whose Relaxed Ordering attribute is set
keeps its place too, which R303 permits.
-/

namespace Sys2Proof.Machine

/-- The places in the device range. -/
inductive RegAt where
  | mgmt (off : Nat)
  | queue (q off : Nat)
  | part (p off : Nat)
  | vd (v off : Nat)
  /-- A root port's configuration space (R402). -/
  | config (port : Nat)
  | none
deriving DecidableEq, Repr

def regAt (a : Nat) : RegAt :=
  if a < 0x1F0000000000 then .none
  else if a < 0x1F0000004000 then .mgmt (a - 0x1F0000000000)
  else if a < 0x1F0000005000 then .queue ((a - 0x1F0000004000) / 16) (a % 16)
  else if a < 0x1F0000008000 then .none
  else if a < 0x1F0000010000 then .part ((a - 0x1F0000008000) / 0x1000) (a % 0x1000)
  else if a < 0x1F0000050000 then .vd ((a - 0x1F0000010000) / 0x1000) (a % 0x1000)
  else if 0x1F1000000000 ≤ a ∧ a < 0x1F2000000000 then .config ((a - 0x1F1000000000) / 0x10000000)
  else .none

/-! ## Inbound requests (R401, R403) -/

/-- The partition that owns a root port, the context that translates its traffic (R383), and the partition's other port. -/
def State.portCtx (s : State) (n : Nat) : Option (Nat × Nat × Nat × Nat) :=
  (List.range 8).findSome? fun p =>
    match (s.part p).desc with
    | none => none
    | some d =>
      let of (x : Word) (o : Nat) := some (p, x.toNat % 64, x.toNat / 256 % 16, o)
      if d.netrp = n then of (s.part p).netctx d.storrp else if d.storrp = n then of (s.part p).storctx d.netrp else none

/-- What a port is answered (R403): 2 a completion with its data, 4 one marked poisoned, 3 Unsupported Request, with the Requester ID. A
posted write is answered nothing. -/
def State.portAnswer (s : State) (c : Cmd) (port kind : Nat) (bs : List Byte) (posted : Bool) : State :=
  if posted then s else { s with plat := { s.plat with portOut := s.plat.portOut ++ [(port, kind, c.no, bs)] } }

/-- A request of a port ends, and the port's later ones go on. -/
def State.portEnd (s : State) (c : Cmd) (port kind : Nat) (bs : List Byte) (posted : Bool) : State :=
  let s := (s.portAnswer c port kind bs posted).dropCmd c.id
  s.cmds.foldl (fun s x => match x.op with | .portIn n _ _ => if n = port ∧ x.stage = .queued ∧ x.prog = 0 then s.wakeCmd x.id else s | _ => s) s

/-- A request that fails: Unsupported Request, or dropped; the entry where a translation or a frame faulted (REASON 2, FAULT). -/
def State.portFail (s : State) (c : Cmd) (port : Nat) (posted : Bool) (cls : Option TrapClass) (va : DWord) : State :=
  let s := match cls with | some x => s.logErr c.vd x 2 c.wtag 2 va false 0 | none => s
  s.portEnd c port 3 [] posted

/-- What a line of a request's range names once translated (R403, R53). -/
inductive PortGoal where
  | engine
  | notify (q : Nat)
  | refused
  | fault (cls : TrapClass)
deriving DecidableEq, Repr

def State.portGoal (s : State) (c : Cmd) (port : Nat) (rd : Bool) (va : DWord) : State × PortGoal :=
  match s.translate (s.cmdWho c) (if rd then .read else .write) va with
  | (s, .fault f) => (s, .fault (if f = .page ∨ f = .rdw then .prot else f))
  | (s, .ok pa _) =>
    let here := decide (pkgOf pa = s.fab.pkg)
    match regionOf (localOf pa), s.portCtx port with
    | .port n, some (_, _, _, o) => (s, if here ∧ n = o then .engine else .refused)
    | .device, some (p, _, _, _) =>
      match regAt (localOf pa) with
      | .queue q 0 =>
        (s, if here ∧ !rd ∧ c.b = 4 ∧ (s.queue q).own.getLsbD 7 ∧ (s.queue q).own.toNat % 8 = p then .notify q else .refused)
      | _ => (s, .refused)
    | .port _, none | .device, none => (s, .refused)
    | .unassigned, _ => (s, if here then .refused else .engine)
    | _, _ => (s, .engine)

/-- The entry of a line of a request that failed. -/
def State.portErr (s : State) (c : Cmd) (status : Nat) (x : Word × DWord × Bool) : State :=
  s.logErr c.vd (statusClass status) status c.wtag x.1 x.2.1 x.2.2 0

/-- The words of a load that gives no data (R206, R211, R111). -/
def poisonBytes (n : Nat) : List Byte := ((List.range (n / 4 + 1)).flatMap fun _ => leBytes 4 0x7FC00000).take n

/-- A request goes on, a line at a time; `bytes` holds what a write stores or a read has, `deadline` whether some of it is poisoned. -/
def State.portGo (s : State) (id : Nat) : Nat → State
  | 0 => s
  | fuel + 1 =>
    match s.cmd? id with
    | none => s
    | some c =>
      match c.op with
      | .portIn port rd posted =>
        let total := c.b.toNat
        let go (x : Nat) (bs : List Byte) (psn : Bool) (s : State) : State :=
          (s.mapCmd id fun c => { c with prog := c.prog + x, bytes := if rd then c.bytes ++ bs else c.bytes, deadline := if psn then 1 else c.deadline }).portGo id fuel
        if total ≤ c.prog then s.portEnd c port (if c.deadline = 1 then 4 else 2) (if rd then c.bytes else []) posted
        else
          let va := c.a + BitVec.ofNat 64 c.prog
          let n := min (64 - va.toNat % 64) (total - c.prog)
          if s.walkerBusy (s.cmdWho c) va then s.wakeCmd id else
          match s.portGoal c port rd va with
          | (s, .refused) => s.portFail c port posted none va
          | (s, .fault f) => s.portFail c port posted (some f) va
          | (s, .notify q) => (s.notify q (BitVec.ofNat 32 (leVal c.bytes))).portEnd c port 2 [] posted
          | (s, .engine) =>
            match (if rd then s.engRead c (.engRead id) va n else s.engWrite c va ((c.bytes.drop c.prog).take n) false) with
            | (s, .data bs psn) => go n bs (psn != 0) (if psn = 0 then s else s.logErr c.vd .ecc 0 c.wtag (lowWord (s.physOf c va)) (s.physOf c va) true 0)
            | (s, .wait) => s
            | (s, .fault f) => s.portFail c port posted (some f) va
            | (s, .fail x) =>
              let s := s.portErr c x (s.statusInfo c x va)
              if rd then go n (poisonBytes n) true s else s.portFail c port posted none va
      | _ => s

/-- A port's request must wait for an earlier posted write of its port (R303). -/
def State.portBehind (s : State) (c : Cmd) (port : Nat) : Bool :=
  s.cmds.any fun x => decide (x.id < c.id) && (match x.op with | .portIn n rd _ => n == port && !rd | _ => false)

/-- A request begins, or goes on after an answer: a line read is taken, and a line that failed reads poisoned. -/
def State.portRun (s : State) (c : Cmd) (port : Nat) (rd posted : Bool) : State :=
  if s.portBehind c port ∨ c.stage ≠ .queued then s
  else
    let fuel := c.b.toNat + 4
    if rd then
      match c.buf with
      | none => s.portGo c.id fuel
      | some (bs, psn) =>
        let bad := decide (256 ≤ c.status)
        let s := if bad then s.portErr c (c.status % 256) (c.info, c.bad, false) else s
        (s.mapCmd c.id fun c => { c with
          prog := c.prog + bs.length, bytes := c.bytes ++ (if bad then poisonBytes bs.length else bs), status := 0, buf := none,
          deadline := if bad ∨ psn ≠ 0 then 1 else c.deadline }).portGo c.id fuel
    else if c.status ≠ 0 then (s.portErr c c.status (c.info, c.bad, false)).portFail c port posted none c.a
    else s.portGo c.id fuel

/-- A request arrives at a port, with a Requester ID. One that needs ATS, PRI or PASID, which no port supports (R401), completes as Unsupported Request, and so
does one of a port that no partition owns, which has no context. The lines that a write names are pinned (R313). -/
def State.portRequest (s : State) (port : Nat) (rd posted needs : Bool) (va size rid : Nat) (bs : List Byte) : State :=
  let id := s.nextId
  let (vd, ctx) := match s.portCtx port with | some (_, v, c, _) => (v, c) | none => (0, 0)
  let c : Cmd :=
    { id := id, no := rid, eng := .launch, wave := 2 ^ 32, tid := 0, mask := 0, vd := vd, ctx := ctx, block := 0, core := 1024, flags := [],
      op := .portIn port rd posted, a := BitVec.ofNat 64 va, b := BitVec.ofNat 64 size, bytes := bs, dst := 64, prog := 0, status := 0, deadline := 0,
      stage := .queued, buf := none, wtag := engineTag s.fab.pkg 3 port (rid % 8192) }
  if needs ∨ (s.portCtx port).isNone then s.portAnswer c port 3 [] posted
  else
    let s := { s with cmds := s.cmds ++ [c], nextId := id + 1 }
    State.wakeCmd (if rd then s else s.pinRange c (BitVec.ofNat 64 va) size false) id

end Sys2Proof.Machine
end

