-- ==== Sys2Proof/Machine/Wire.lean ====
section
/-!
DEFINITION. What the messages of the fabric carry (R355, R357): the payload of a message event and the event of a payload; and the relay reserve,
where a package holds the messages of others (R53, R359, R360, R369). The codes that R357 leaves open are the model's (log 17).
-/

namespace Sys2Proof.Machine

/-! ## Payloads (R355, R357) -/

/-- Class, kind and payload of a message event. -/
def Event.wire (e : Event) : Nat × Nat × List Byte :=
  let head (size kind : Nat) : List Byte := leBytes 8 e.val ++ leBytes 2 e.entry ++ leBytes 1 size ++ leBytes 1 kind ++ leBytes 4 e.tag.toNat
  let seqs := leBytes 1 e.n ++ leBytes 1 e.seqs.length ++ zeros 6 ++ e.seqs.flatMap (leBytes 3)
  match e.row with
  | .read => (1, 0, head e.size e.kind)
  | .data => (1, 1, leBytes 2 e.entry ++ leBytes 1 e.status ++ leBytes 2 e.psn.toNat ++ zeros 3 ++ leBytes 64 e.data.toNat)
  | .write => (1, 2, head e.size e.kind ++ leBytes 64 e.data.toNat ++ leBytes 8 e.bmask.toNat ++ e.bytes)
  | .wack => (1, 3, leBytes 2 e.entry ++ leBytes 1 e.status ++ leBytes 1 e.n ++ e.bytes)
  | .atom => (0, 4, head e.kind (if e.ok then 1 else 0) ++ leBytes 16 e.data.toNat ++ e.bytes)
  | .areply => (0, 5, leBytes 2 e.entry ++ leBytes 1 e.status ++ leBytes 1 e.n ++ leBytes 2 e.psn.toNat ++ zeros 2 ++ leBytes 8 e.val ++ e.bytes)
  | .watch => (0, 6, head 4 0 ++ leBytes 4 e.n ++ leBytes 4 e.m ++ e.bytes)
  | .wreply => (0, 7, leBytes 2 e.entry ++ leBytes 1 e.status ++ leBytes 1 e.n ++ zeros 4 ++ leBytes 4 e.val)
  | .bulk => (2, 8, leBytes 4 e.n ++ leBytes 4 e.m ++ leBytes 8 e.val ++ leBytes 8 e.k ++ e.bytes)
  | .back => (1, 9, leBytes 8 e.n ++ leBytes 8 e.m ++ leBytes 1 e.status ++ leBytes 1 e.k)
  | .abort => (0, 10, leBytes 4 e.tag.toNat ++ leBytes 1 e.hdr.vd.toNat ++ leBytes 1 e.n)
  | .dack => (0, 11, seqs)
  | .retry => (0, 12, seqs)
  | .credit => (0, 13, leBytes 4 e.n)
  | _ => (2, 14, [])

/-- The flits of a message event. -/
def Event.flits (e : Event) : Nat := max 1 ((e.wire.2.2.length + 111) / 112)

/-- The fields of a flit header. -/
def flitField (h lo n : Nat) : Nat := h / 2 ^ lo % 2 ^ n

/-- The message of some payload under a header (R355). -/
def msgOf (h : Nat) (pay : List Byte) : Msg :=
  { src := BitVec.ofNat 7 (flitField h 57 7), dst := BitVec.ofNat 7 (flitField h 50 7), cls := flitField h 48 2, kind := flitField h 44 4,
    hop := flitField h 42 2, via := BitVec.ofNat 7 (flitField h 35 7), seq := BitVec.ofNat 24 (flitField h 11 24), vd := flitField h 0 6, pay := pay }

/-- The fields of a message's payload (R357, log 17): the event of its arrival; none for IDLE. What the layout has no place for, the event leaves at nothing. -/
def Msg.event (m : Msg) : Option Event :=
  let f (o n : Nat) := field m.pay o n
  let e (row : Instr) : Event := { row := row, hdr := ⟨m.src, m.dst, m.seq, BitVec.ofNat 6 m.vd⟩ }
  let req (row : Instr) : Event := { e row with val := f 0 8, entry := f 8 2, size := f 10 1, kind := f 11 1, tag := BitVec.ofNat 32 (f 12 4) }
  let rep (row : Instr) : Event := { e row with entry := f 0 2, status := f 2 1 }
  let seqs (row : Instr) : Event := { e row with n := f 0 1, seqs := (List.range (min 34 (f 1 1))).map fun i => f (8 + 3 * i) 3 }
  match m.kind with
  | 0 => some (req .read)
  | 1 => some { rep .data with psn := BitVec.ofNat 16 (f 3 2), data := BitVec.ofNat 512 (f 8 64) }
  | 2 => some { req .write with data := BitVec.ofNat 512 (f 16 64), bmask := BitVec.ofNat 64 (f 80 8), bytes := m.pay.drop 88 }
  | 3 => some { rep .wack with n := f 3 1, bytes := m.pay.drop 4 }
  | 4 => some { req .atom with size := 0, kind := f 10 1, ok := f 11 1 == 1, data := BitVec.ofNat 512 (f 16 16), bytes := m.pay.drop 32 }
  | 5 => some { rep .areply with n := f 3 1, psn := BitVec.ofNat 16 (f 4 2), val := f 8 8, bytes := m.pay.drop 16 }
  | 6 => some { req .watch with n := f 16 4, m := f 20 4, bytes := m.pay.drop 24 }
  | 7 => some { rep .wreply with n := f 3 1, val := f 8 4 }
  | 8 => some { e .bulk with n := f 0 4, m := f 4 4, val := f 8 8, k := f 16 8, bytes := (m.pay.drop 24).take (f 16 8) }
  | 9 => some { e .back with n := f 0 8, m := f 8 8, status := f 16 1, k := f 17 1 }
  | 10 => some { e .abort with tag := BitVec.ofNat 32 (f 0 4), hdr := ⟨m.src, m.dst, m.seq, BitVec.ofNat 6 (f 4 1)⟩, n := f 5 1 }
  | 11 => some (seqs .dack)
  | 12 => some (seqs .retry)
  | 13 => some { e .credit with n := f 0 4 }
  | _ => none

/-- What a request carries for the accesses behind its first, n bytes each: how many, then one after another (log 17). -/
def Event.items (e : Event) (n : Nat) : List (List Byte) := (List.range (field e.bytes 0 1)).map fun i => (e.bytes.drop (1 + n * i)).take n

/-! ## The relay reserve (R53, R359, R360, R369) -/

/-- The messages of another package that this one holds in its part of the relay reserve, each with its place and its flits: those in transit, and
those of collectives whose command is not posted here yet (R360, R369). -/
def Fabric.reserved (f : Fabric) (src : BitVec 7) : List (Nat × Nat) :=
  ((f.relayed.filter fun x => x.msg.src == src).map fun x => (x.place, x.msg.flits)) ++
  ((f.held.filter fun x => x.1 == 2 && x.2.hdr.src == src && x.2.row == .bulk).map fun x => (x.2.entry, x.2.flits))

/-- The first place of some flits in a source's part of the relay reserve that no message of it holds; where there is none, its end. -/
def Fabric.relayPlace (f : Fabric) (src : BitVec 7) (flits : Nat) : Nat :=
  let mine := f.reserved src
  let fits (p : Nat) : Bool := decide (p + flits ≤ f.share) && mine.all fun x => decide (p + flits ≤ x.1) || decide (x.1 + x.2 ≤ p)
  ((0 :: mine.map fun x => x.1 + x.2).filter fits).foldl min f.share

/-- The local address of a flit in a source's part of the relay reserve, the upper 768 MiB of it (R53, R360). -/
def Fabric.relayAddr (f : Fabric) (src : BitVec 7) (place : Nat) : Nat :=
  let rank := if src.toNat < f.pkg then src.toNat else src.toNat - 1
  0x7FC0000000 + 2 ^ 28 + 128 * (rank * f.share + place)

/-- The lines of a relay write are pinned until it is performed (R313), by a name that no command has. -/
def relayPin : Nat := 2 ^ 64

/-- The message of another package that an event carries, as it comes. -/
def State.carried (s : State) (e : Event) : Msg :=
  let (cls, kind, pay) := e.wire
  { src := e.hdr.src, dst := e.hdr.dst, cls := cls, kind := kind, hop := if e.hdr.dst.toNat = s.fab.pkg then 0 else 1,
    via := if e.hdr.dst.toNat = s.fab.pkg then 0 else BitVec.ofNat 7 s.fab.pkg, seq := e.hdr.seq, vd := e.hdr.vd.toNat, pay := pay,
    psn := if cls = 2 then e.seqs else [] }

/-- The flits of a message written to the relay reserve, at a place of its source's part. -/
def State.relayWrite (s : State) (m : Msg) (place : Nat) : State :=
  let a := s.fab.relayAddr m.src place
  if s.fab.share < place + m.flits then s
  else
    let s := { s with pins := s.pins ++ (linesOf a (128 * m.flits)).map fun l => (relayPin, l) }
    let s := (List.range m.flits).foldl (fun s n => s.homeWrite noVd 0 (a + 128 * n) (m.flit n)) s
    { s with pins := s.pins.filter fun x => x.1 != relayPin }

end Sys2Proof.Machine
end

