-- ==== Sys2Proof/Machine/Collectives.lean ====
section
/-!
DEFINITION. Collectives and multicast (R244 to R247, R289, R369 to R371): the pairwise tree, the work of a member's engine, what other
members' messages do to it, COLL, MCAST and COLLW. Log 17 says what the layouts of R357 leave open of these messages: an address is the
byte offset in the receiver's data, for a multicast the virtual address of its destination.
-/

namespace Sys2Proof.Machine

/-! ## Combining (R247) -/

def ecReg : Reg := ⟨poisonFloat, true⟩

/-- One element of a combining step. -/
def combOne (comb : Nat) (a b : Reg) : Reg :=
  if a.psn || b.psn then ecReg
  else
    ⟨match comb with
      | 0 => addF a.val b.val | 1 => a.val + b.val | 2 => fMinMax true a.val b.val | 3 => fMinMax false a.val b.val | _ => a.val ||| b.val, false⟩

/-- The identity of a step, as n words. -/
def combId (comb n : Nat) : List Reg :=
  match comb with
  | 2 => List.replicate n ⟨0xFF800000, false⟩
  | 3 => List.replicate n ⟨0x7F800000, false⟩
  | 4 => ⟨0xFF800000, false⟩ :: List.replicate (n - 1) Reg.zero
  | _ => List.replicate n Reg.zero

def subF (a b : Word) : Word := (roundF .rne (fvAdd .rne (decF a) (decF b).neg).1).1
def mulF (a b : Word) : Word := (roundF .rne (fvMul (decF a) (decF b)).1).1

/-- The factor f of a triple. -/
def tripleF (mi m : Word) : Word := if mi = 0xFF800000 then 0 else (fEx2R (decF (subF mi m))).word.1

/-- m is NaN or +∞. -/
def tripleBad (m : Word) : Bool := (decF m).isNan || m == 0x7F800000

/-- Comb of R247. -/
def combTriple (x y : List Reg) : List Reg :=
  let m1 := x.headD Reg.zero
  let m2 := y.headD Reg.zero
  if m1.psn || m2.psn then x.map fun _ => ecReg
  else if tripleBad m1.val || tripleBad m2.val then x.map fun _ => ⟨poisonFloat, false⟩
  else
    let m := fMinMax true m1.val m2.val
    let f1 := tripleF m1.val m
    let f2 := tripleF m2.val m
    ⟨m, false⟩ :: List.zipWith (fun a b => if a.psn || b.psn then ecReg else ⟨addF (mulF a.val f1) (mulF b.val f2), false⟩) x.tail y.tail

/-- A combining step on whole data. -/
def combAll (comb : Nat) (x y : List Reg) : List Reg := if comb = 4 then combTriple x y else List.zipWith (combOne comb) x y

/-! ## Records -/

def State.coll? (s : State) (cmd : Nat) : Option Coll := s.colls.find? fun x => x.cmd == cmd && x.status.isNone
def State.mapColl (s : State) (cmd : Nat) (f : Coll → Coll) : State := { s with colls := mapIf (fun x => x.cmd == cmd && x.status.isNone) f s.colls }

/-- A live collective of a VD, context and TAG, with its command. -/
def State.collOf (s : State) (vd ctx : Nat) (tag : Word) : Option (Cmd × Coll) :=
  (s.colls.find? fun x => x.vd == vd && x.ctx == ctx && x.tag == tag && x.status.isNone && !x.met.isEmpty).bind fun x => (s.cmd? x.cmd).map fun c => (c, x)

def State.me (s : State) : BitVec 7 := BitVec.ofNat 7 s.fab.pkg

/-- A member's rank. -/
def CollDesc.rank (d : CollDesc) (pkg : Nat) : Nat := ((members d.group).findIdx? fun n => n == pkg).getD 0
def CollDesc.size (d : CollDesc) : Nat := (members d.group).length

/-- A reduction. -/
def CollDesc.reduces (d : CollDesc) : Bool := d.op = 0 || d.op = 1 || d.op = 4

/-- Words as registers, n of them, and registers as bytes. -/
def regsOf (psn : Bool) : Nat → List Byte → List Reg
  | 0, _ => []
  | n + 1, bs => (if psn then ecReg else ⟨BitVec.ofNat 32 (leVal (bs.take 4)), false⟩) :: regsOf psn n (bs.drop 4)
def bytesOf (rs : List Reg) : List Byte := rs.flatMap fun r => leBytes 4 r.val.toNat

/-- The words of a rank that are at hand from offset 0 on without a gap. -/
def gatherFrom (l : List (Nat × Nat × List Reg)) (rank : Nat) : Nat → List Reg → List Reg
  | 0, acc => acc
  | n + 1, acc =>
    match l.find? fun x => x.2.1 == rank && x.1 == 4 * acc.length && !x.2.2.isEmpty with
    | some x => gatherFrom l rank n (acc ++ x.2.2)
    | none => acc

def Coll.of (x : Coll) (rank : Nat) : List Reg := gatherFrom x.parts rank x.parts.length []

/-- A rank's words replaced. -/
def Coll.put (x : Coll) (rank : Nat) (rs : List Reg) : Coll := { x with parts := (0, rank, rs) :: x.parts.filter fun y => y.2.1 != rank }

/-! ## Messages of the engine (R288, R364) -/

/-- A BULK message's words; the rest of a long transfer follows in further messages. -/
def State.sendBulk (s : State) (c : Cmd) (dst rank total : Nat) : Nat → Nat → List Reg → State
  | 0, _, _ => s
  | n + 1, addr, rs =>
    if rs.isEmpty then s
    else
      let now := rs.take 890
      let psn := (List.range now.length).filter fun i => match now[i]? with | some r => r.psn | none => false
      let s := s.send { src := s.me, dst := BitVec.ofNat 7 dst, cls := 2, kind := 8, hop := 0, via := 0, seq := 0, vd := c.vd,
                        pay := leBytes 4 c.no ++ leBytes 4 rank ++ leBytes 8 addr ++ leBytes 8 total ++ bytesOf now, psn := psn }
      State.sendBulk s c dst rank total n (addr + 3560) (rs.drop 890)

/-- BACK for a command of another package's engine; the reason of a refusal stands behind its status (log 17). -/
def State.sendBack (s : State) (vd dst no bytes status : Nat) (reason : Nat := 0) : State :=
  s.send { src := s.me, dst := BitVec.ofNat 7 dst, cls := 1, kind := 9, hop := 0, via := 0, seq := 0, vd := vd,
           pay := leBytes 8 no ++ leBytes 8 bytes ++ leBytes 1 status ++ leBytes 1 reason }

/-- ABORT to every other member (R288). -/
def State.sendAborts (s : State) (c : Cmd) (d : CollDesc) : State :=
  ((members d.group).filter fun n => n != s.fab.pkg && s.peerUp n).foldl (fun s n =>
    s.send { src := s.me, dst := BitVec.ofNat 7 n, cls := 0, kind := 10, hop := 0, via := 0, seq := 0, vd := c.vd,
             pay := leBytes 4 d.tag.toNat ++ leBytes 1 c.vd ++ leBytes 1 c.ctx }) s

/-! ## The end of a member's command -/

/-- The command completes: its status is kept for COLLW, whose threads go on. The homes of what a multicast wrote on other packages are not known
here, so its issuing core's L1 and remote-read path are emptied (R234, R300). -/
def State.collClose (s : State) (c : Cmd) (status : Nat) (x : Word × DWord × Bool) : State :=
  match s.coll? c.id with
  | none => s
  | some r =>
    let s := match c.op with | .mcast => s.onCores c.wave c.core State.invalidate | _ => s
    let s := s.mapColl c.id fun x => { x with status := some status, parts := [] }
    (s.endWith c status x id).wakeWith (fun _ k => match k with | .collw n _ _ => n.toNat == r.num | _ => false) (BitVec.ofNat 32 status)

/-- The command is to complete with a status: at once, or, while an access of its engine is on its way, once that has been answered. -/
def State.collEndWith (s : State) (c : Cmd) (status : Nat) (x : Word × DWord × Bool) : State :=
  match s.cmd? c.id with
  | none => s
  | some c =>
    if 512 ≤ c.status then s
    else if s.cmdBusy c.id then s.mapCmd c.id fun c => { c with status := 512 + status, info := x.1, bad := x.2.1 }
    else s.collClose c status x

/-- The same at an address, or with what the command has noted for the status. -/
def State.collEnd (s : State) (c : Cmd) (status : Nat) (addr : DWord) : State :=
  s.collEndWith c status (if status ≠ 0 ∧ c.status % 256 = status then (c.info, c.bad, status == 3) else s.statusInfo c status addr)

/-- The member's own failure after matching: it completes, and every other member is told (R245). A multicast has no other member. -/
def State.collFail (s : State) (c : Cmd) (status : Nat) (addr : DWord) : State :=
  let d := CollDesc.ofBytes c.bytes
  let s := match c.op with | .coll => s.sendAborts c d | _ => s
  s.collEnd c status addr

/-- A fault or failure of the member's engine. -/
def State.collStop (s : State) (c : Cmd) (va : DWord) (write : Bool) : EngRes → State
  | .data .. | .wait => s
  | .fault f => if f = .page ∨ f = .rdw then s.faultCmd c va f write else s.collFail c 2 va
  | .fail x => s.collFail c x va

/-! ## The work of a member's engine (R369 to R371) -/

/-- A descriptor's fields are in their ranges, for COLL or for MCAST (R244 to R246). SIG has to be a multiple of 8 (log 34). -/
def State.collOk (s : State) (mcast : Bool) (bs : List Byte) : Bool :=
  let d := CollDesc.ofBytes bs
  decide (d.op = 5) == mcast && decide (d.op ≤ 5) && (!d.reduces || decide (d.comb ≤ 5)) && (d.dkind = 0 || d.dkind = 2) &&
    decide (1 ≤ d.count) && decide (d.count ≤ 16777216) && decide (d.src.toNat % 64 = 0) && decide (d.dst.toNat % 64 = 0) && decide (field bs 44 4 = 0) &&
    decide (field bs 56 8 = 0) && decide (d.sig.toNat % 8 = 0) &&
    (mcast || (d.group.getLsbD s.fab.pkg && (!(d.op = 1 || d.op = 2) || (decide (d.root < 128) && d.group.getLsbD d.root)) &&
      (decide (d.op ≠ 4) || decide (d.count % d.size = 0))))

/-- The events of a collective that came before its command here (R369) happen now. -/
def State.collHeld (s : State) (c : Cmd) (tag : Word) : State :=
  let mine (e : Nat × Event) : Bool :=
    decide (e.1 = 2) && (match e.2.coll with | some p => decide (p.vd.toNat = c.vd) && decide (p.ctx.toNat = c.ctx) && p.tag == tag | none => false)
  State.due { s with fab := { s.fab with held := s.fab.held.filter fun e => !mine e } } ((s.fab.held.filter mine).map fun (e : Nat × Event) => e.2)

/-- The descriptor judged: the command is live, or it ends. -/
def State.collAccept (s : State) (c : Cmd) : State × Bool :=
  let d := CollDesc.ofBytes c.bytes
  let mcast : Bool := match c.op with | .mcast => true | _ => false
  let key := (c.vd, c.ctx, d.tag)
  if c.poisoned then (s.collEndWith c 3 (c.info, c.bad, true), false)
  else if c.status ≠ 0 then (s.collEnd c (c.status % 256) c.a, false)
  else if !s.collOk mcast c.bytes then (s.collEnd c 1 c.a, false)
  else if !mcast ∧ (s.collOf c.vd c.ctx d.tag).isSome then (s.collEnd c 1 c.a, false)
  else if !mcast ∧ s.aborts.contains key then (State.collEnd ({ s with aborts := s.aborts.erase key }.mapColl c.id fun x => { x with tag := d.tag, met := [s.me] }) c 9 0, false)
  else
    let s := s.mapColl c.id fun x => { x with tag := d.tag, met := [s.me] }
    (if mcast then s else s.collHeld c d.tag, true)

/-- The member's SRC read on, line by line; a line under an uncorrectable error counts as poisoned words. -/
def State.collRead (s : State) (id : Nat) : Nat → State × Bool
  | 0 => (s, false)
  | n + 1 =>
    match s.cmd? id, s.coll? id with
    | some c, some x =>
      let d := CollDesc.ofBytes c.bytes
      let own := d.rank s.fab.pkg
      let have_ := x.of own
      let need := d.srcWords s.fab.pkg
      let take (s : State) (bs : List Byte) (psn : BitVec 16) : State :=
        let s := if psn = 0 then s else s.noteFail id 3 (d.src + BitVec.ofNat 64 (4 * have_.length))
        (s.mapCmd id fun c => { c with buf := none }).mapColl id fun x => x.put own (have_ ++ regsOf (psn != 0) (bs.length / 4) bs)
      if c.dst ≠ 64 ∨ x.acks.contains s.me ∨ c.deadline ≠ 0 ∨ need ≤ have_.length then (s, true)
      else
        match c.buf with
        | some (bs, psn) => State.collRead (take s bs psn) id n
        | none =>
          let va := d.src + BitVec.ofNat 64 (4 * have_.length)
          match s.engRead c (.engRead c.id) va (min 64 (4 * (need - have_.length))) with
          | (s, .data bs psn) => State.collRead (take s bs psn) id n
          | (s, r) => (s.collStop c va false r, false)
    | _, _ => (s, false)

/-- The combining steps that can be made; `deadline` counts the levels done. Whether the member's partial is the one it keeps or sends. -/
def State.collTree (s : State) (id : Nat) : Nat → State × Bool
  | 0 => (s, false)
  | n + 1 =>
    match s.cmd? id, s.coll? id with
    | some c, some x =>
      let d := CollDesc.ofBytes c.bytes
      let own := d.rank s.fab.pkg
      let lv := c.deadline
      let q := own + 2 ^ lv
      let need := d.words d.count
      if x.acks.contains s.me ∨ own % 2 ^ (lv + 1) ≠ 0 ∨ log2Up d.size ≤ lv then (s, true)
      else
        let right := if d.size ≤ q then combId d.comb need else x.of q
        if right.length < need then (s, false)
        else
          let y := combAll d.comb (x.of own) right
          let s := s.mapColl id fun (x : Coll) => { x with parts := (0, own, y) :: x.parts.filter fun z => z.2.1 != own && z.2.1 != q }
          let s := match x.peers.find? fun p => p.1 == q with
            | some p => s.sendBack c.vd ((members d.group)[q]?.getD 0) p.2.1 p.2.2 0
            | none => s
          State.collTree (s.mapCmd id fun c => { c with deadline := lv + 1 }) id n
    | _, _ => (s, false)

/-- Segment r of a result, for rank r of a reduce-scatter. -/
def CollDesc.segment (d : CollDesc) (r : Nat) (rs : List Reg) : List Reg :=
  let w := d.count / max 1 d.size
  if d.comb = 4 then rs.take 2 ++ ((rs.drop (2 + r * w)).take w) else (rs.drop (r * w)).take w

/-- What the member sends, as (package, address, words), and what it writes itself, as (offset, words) (R370, R371). -/
def CollDesc.shares (d : CollDesc) (me lv : Nat) (rs : List Reg) : List (Nat × Nat × List Reg) × Option (Nat × List Reg) :=
  let ms := members d.group
  let own := d.rank me
  let others := ms.filter fun n => n != me
  if d.reduces ∧ own ≠ 0 then ([(ms[own - 2 ^ lv]?.getD 0, 0, rs)], none)
  else
    match d.op with
    | 0 => (others.map fun n => (n, 0, rs), some (0, rs))
    | 1 => if d.root = me then ([], some (0, rs)) else ([(d.root, 0, rs)], none)
    | 2 => if d.root = me then (others.map fun n => (n, 0, rs), some (0, rs)) else ([], none)
    | 3 => (others.map fun n => (n, 4 * own * d.count, rs), some (4 * own * d.count, rs))
    | 4 => (others.map fun n => (n, 0, d.segment (d.rank n) rs), some (0, d.segment own rs))
    | _ => (others.map fun n => (n, d.dst.toNat, rs), if d.group.getLsbD me then some (0, rs) else none)

/-- The member's data sent, once; a destination of a multicast that is absent gives ABSENT and is left out. -/
def State.collShare (s : State) (c : Cmd) (x : Coll) (d : CollDesc) : State :=
  if x.acks.contains s.me then s
  else
    let own := d.rank s.fab.pkg
    let (out, mine) := d.shares s.fab.pkg c.deadline (x.of own)
    let gone := (out.filter fun y => !s.peerUp y.1).map (·.1)
    let s := out.foldl (fun s y => if s.peerUp y.1 then s.sendBulk c y.1 own (4 * y.2.2.length) (y.2.2.length / 890 + 1) y.2.1 y.2.2 else s) s
    let s := s.mapColl c.id fun x => { x with
      acks := s.me :: x.acks ++ gone.map (BitVec.ofNat 7),
      parts := (match mine with | some (o, rs) => [(o, 1000 + own, rs)] | none => []) ++ x.parts.filter fun y => y.2.1 != own }
    match gone with
    | [] => s
    | n :: _ => s.mapCmd c.id fun c => c.noteWith 4 (BitVec.ofNat 32 n) d.dst

/-- The packages whose BACK the member waits for. -/
def CollDesc.awaits (d : CollDesc) (me lv : Nat) : List Nat := (d.shares me lv []).1.map (·.1)

/-- The results at hand written to DST, line by line. Where this package's own destination of a multicast cannot be written, nothing more is written there
and its SIG is not incremented, and the other destinations go on (R245, R246). `prog` counts the bytes of the first of them, `b` those of all before. -/
def State.collWrite (s : State) (id : Nat) : Nat → State × Bool
  | 0 => (s, false)
  | n + 1 =>
    match s.cmd? id, s.coll? id with
    | some c, some x =>
      let d := CollDesc.ofBytes c.bytes
      let mcast : Bool := match c.op with | .mcast => true | _ => false
      match x.parts.find? fun y => decide (1000 ≤ y.2.1) with
      | none => (s, true)
      | some (off, rk, rs) =>
        let len := 4 * rs.length
        let bad := if mcast ∧ c.prog = 0 then s.destFault c d.dst len (d.dkind = 2) else none
        if bad.isSome ∨ (mcast ∧ c.buf.isSome) then
          let s := match bad with | some y => s.noteFail id y.1 y.2 | none => s
          State.collWrite ((s.mapColl id fun x => { x with parts := x.parts.erase (off, rk, rs) }).mapCmd id fun c => { c with prog := 0, dst := 67, buf := none }) id n
        else if len ≤ c.prog then
          let s := s.mapColl id fun x => { x with parts := x.parts.erase (off, rk, rs) }
          let s := if rs.any (·.psn) then s.noteFail id 3 (d.dst + BitVec.ofNat 64 off) else s
          State.collWrite (s.mapCmd id fun c => { c with prog := 0, b := c.b + BitVec.ofNat 64 len }) id n
        else
          let va := d.dst + BitVec.ofNat 64 (off + c.prog)
          let k := min (64 - va.toNat % 64) (len - c.prog)
          match s.engStore c va ((bytesOf rs).drop c.prog) (d.dkind = 2) with
          | (s, .data ..) => State.collWrite (s.mapCmd id fun c => { c with prog := c.prog + k }) id n
          | (s, .wait) => (s, false)
          | (s, r) =>
            if !mcast then (s.collStop c va true r, false)
            else
              (match r with
               | .fault .rdw => (s.faultCmd c va .rdw true, false)
               | .fail x => State.collWrite ((s.noteFail id x va).mapCmd id fun c => { c with buf := some ([], 0) }) id n
               | _ => State.collWrite ((s.noteFail id 2 va).mapCmd id fun c => { c with buf := some ([], 0) }) id n)
    | _, _ => (s, false)

/-- SIG is incremented once DST is written; `dst` is 66 while the addition is on its way and 67 when it is done, and BACK goes to the senders. -/
def State.collSig (s : State) (c : Cmd) (x : Coll) (d : CollDesc) : State × Bool :=
  let done (s : State) : State :=
    (x.peers.filter fun p => !d.reduces || decide (d.rank s.fab.pkg ≠ 0 ∧ p.1 = 0)).foldl
      (fun s p => s.sendBack c.vd ((members d.group)[p.1]?.getD 0) p.2.1 p.2.2 0) (s.mapCmd c.id fun c => { c with dst := 67 })
  if c.dst = 67 then (s, true)
  else if c.b.toNat < 4 * d.dstWords s.fab.pkg ∧ (d.op ≠ 5 ∨ d.group.getLsbD s.fab.pkg) then (s, false)
  else if c.dst = 66 ∨ d.sig = 0 ∨ c.b = 0 then (done s, true)
  else
    match s.engAdd c d.sig with
    | (s, .data ..) => (done s, true)
    | (s, .wait) => (if s.cmdBusy c.id then s.mapCmd c.id fun c => { c with dst := 66 } else s, false)
    | (s, .fail x) => if d.op = 5 then (done (s.noteFail c.id x d.sig), true) else (s.collStop c d.sig true (.fail x), false)
    | (s, .fault f) =>
      if d.op = 5 ∧ f ≠ .page ∧ f ≠ .rdw then (done (s.noteFail c.id 2 d.sig), true) else (s.collStop c d.sig true (.fault f), false)

/-- Every other member's command has matched, where there are any (R245). -/
def State.collAllMet (s : State) (id : Nat) (d : CollDesc) : Bool :=
  d.op = 5 || (match s.coll? id with
    | some x => (members d.group).all fun n => n == s.fab.pkg || x.met.contains (BitVec.ofNat 7 n)
    | none => true)

/-- The engine's work from the first match on; the command completes once every other member's has matched. -/
def State.collWork (s : State) (id : Nat) (d : CollDesc) : State :=
  match s.collRead id (d.count + 16) with
  | (s, false) => s
  | (s, true) =>
    match (if d.reduces then s.collTree id 16 else (s, true)) with
    | (s, false) => s
    | (s, true) =>
      let s := match s.cmd? id, s.coll? id with | some c, some x => s.collShare c x d | _, _ => s
      match s.collWrite id (128 * d.count + 1024) with
      | (s, false) => s
      | (s, true) =>
        match s.cmd? id, s.coll? id with
        | some c, some x =>
          (match s.collSig c x d with
           | (s, false) => s
           | (s, true) =>
             if s.collAllMet id d && (d.awaits s.fab.pkg c.deadline).all fun n => x.acks.contains (BitVec.ofNat 7 n) then
               (match s.cmd? id with
                | some c => if c.status = 7 ∧ d.op ≠ 5 then s.collFail c 7 c.bad else s.collEnd c (c.status % 256) c.bad
                | none => s)
             else s)
        | _, _ => s

/-- A collective command goes on: its descriptor, its first match with another member (R369), its work. A page of this package's own destination of a multicast that the service has
refused ends that destination only. -/
def State.collRun (s : State) (c : Cmd) : State :=
  let busy : Bool := match c.stage with | .queued => false | _ => true
  if 512 ≤ c.status then (if s.cmdBusy c.id then s else s.collClose c (c.status % 256) (c.info, c.bad, c.status % 256 == 3))
  else if busy then s
  else
    match s.readDesc c 64 4 with
    | (s, false) => s
    | (s, true) =>
      match s.cmd? c.id, s.coll? c.id with
      | some c, some x =>
        (match (if x.met.isEmpty then s.collAccept c else (s, true)) with
         | (s, false) => s
         | (s, true) =>
           match s.cmd? c.id, s.coll? c.id with
           | some c, some x =>
             let d := CollDesc.ofBytes c.bytes
             let mcast : Bool := match c.op with | .mcast => true | _ => false
             let others := (members d.group).filter fun n => n != s.fab.pkg
             match (if mcast then none else others.find? fun n => !s.peerUp n) with
             | some n => s.collEndWith c 4 (BitVec.ofNat 32 n, 0, false)
             | none =>
               if !mcast && !others.isEmpty && others.all (fun n => !x.met.contains (BitVec.ofNat 7 n)) then s
               else if mcast ∧ 256 ≤ c.status ∧ x.acks.contains s.me then
                 (s.mapCmd c.id fun c => { c with status := c.status % 256, dst := 67, buf := some ([], 0) }).collWork c.id d
               else if 256 ≤ c.status ∨ (!([0, 3, 7].contains c.status) ∧ !mcast) then s.collFail c (c.status % 256) c.bad
               else if s.heldBack c then s
               else s.collWork c.id d
           | _, _ => s)
      | _, _ => s

/-- COLL_COMBINE (R370; n: command). -/
def execCollCombine (s : State) : Out :=
  match s.cmd? s.ev.n with
  | some c => .next (s.collRun c)
  | none => .next s

/-! ## What the other members do -/

/-- What another member's command states of the collective: it matches, or every member completes with MISMATCH (R245). -/
def State.collMeet (s : State) (c : Cmd) (m : Nat) (p : CollParams) : State :=
  let d := CollDesc.ofBytes c.bytes
  if decide (p.op.toNat = d.op) && decide (p.comb.toNat = d.comb) && decide (p.dkind.toNat = d.dkind) && decide (p.root.toNat = d.root) &&
     decide (p.count.toNat = d.count) && p.group == d.group then
    (s.mapColl c.id fun x => { x with met := if x.met.contains (BitVec.ofNat 7 m) then x.met else BitVec.ofNat 7 m :: x.met }).wakeCmd c.id
  else s.collEnd c 8 0

/-- An event of a collective whose command has not been accepted here yet is held; the flits of a message lie in its source's part of the relay reserve
(R369). -/
def State.collHold (s : State) (e : Event) : State :=
  let place := if e.row = .bulk then s.fab.relayPlace e.hdr.src e.flits else 0
  let s := if e.row = .bulk then s.relayWrite (s.carried e) place else s
  { s with fab := { s.fab with held := s.fab.held ++ [(2, { e with ok := true, entry := place })] } }

/-- The collective here that a BULK from a member belongs to where nothing else tells (log 17): the first live one of a group with that member. -/
def State.collKnown (s : State) (src : BitVec 7) : Option CollParams :=
  (s.colls.filter fun x => x.status.isNone && !x.met.isEmpty).findSome? fun x => (s.cmd? x.cmd).bind fun c =>
    let d := CollDesc.ofBytes c.bytes
    if (match c.op with | .coll => d.group.getLsbD src.toNat | _ => false) then
      some { op := BitVec.ofNat 8 d.op, comb := BitVec.ofNat 8 d.comb, dkind := BitVec.ofNat 8 d.dkind, root := BitVec.ofNat 8 d.root,
             count := BitVec.ofNat 32 d.count, group := d.group, tag := d.tag, vd := BitVec.ofNat 6 c.vd, ctx := BitVec.ofNat 4 c.ctx }
    else none

/-- COLL_MATCH (R245; n: command, m: member, coll): the parameters of a member's command reach this package's. -/
def execCollMatch (s : State) : Out :=
  match s.ev.coll with
  | none => .next s
  | some p =>
    match s.collOf p.vd.toNat p.ctx.toNat p.tag with
    | some (c, _) => .next (s.collMeet c s.ev.m p)
    | none => .next (s.collHold s.ev)

/-- Data of a collective from another member (R364, R369): a partial, or a part of the member's DST. -/
def State.collData (s : State) (e : Event) (p : CollParams) : State :=
  match s.collOf p.vd.toNat p.ctx.toNat p.tag with
  | none => s.collHold e
  | some (c, _) =>
    let s := s.collMeet c e.hdr.src.toNat p
    match s.cmd? c.id, s.coll? c.id with
    | some c, some _ =>
      let d := CollDesc.ofBytes c.bytes
      let own := d.rank s.fab.pkg
      let partial_ := d.reduces && decide (own < e.m)
      let rs := mapFrom (fun i (r : Reg) => if e.seqs.contains i then ecReg else r) 0 (regsOf false (e.bytes.length / 4) e.bytes)
      (s.mapColl c.id fun x => { x with
        parts := x.parts ++ [(e.val, if partial_ then e.m else 1000 + e.m, rs)],
        peers := if x.peers.any (fun y => y.1 == e.m) then x.peers else (e.m, e.n, e.k) :: x.peers }).wakeCmd c.id
        |> fun s => if partial_ then s else s.pinRange c (d.dst + BitVec.ofNat 64 e.val) e.bytes.length (d.dkind = 2)
    | _, _ => s

/-- What an entry for a failure at a destination carries (R265, R397): the package for ABSENT, the reason of a refusal, else the address. -/
def backInfo (src : BitVec 7) (status reason : Nat) (dst : DWord) : Word :=
  match status with | 4 => BitVec.ofNat 32 src.toNat | 7 => BitVec.ofNat 32 reason | _ => lowWord dst

/-- BACK: a destination has performed a command's bytes (R364). -/
def State.collBack (s : State) (src : BitVec 7) (no status reason : Nat) : State :=
  match s.colls.find? fun x => decide (x.no = no) && x.status.isNone with
  | none => s
  | some x =>
    let s := s.mapColl x.cmd fun x => { x with acks := src :: x.acks }
    let d := match s.cmd? x.cmd with | some c => CollDesc.ofBytes c.bytes | none => CollDesc.ofBytes []
    (if status = 0 then s else s.mapCmd x.cmd fun c => c.noteWith status (backInfo src status reason d.dst) d.dst).wakeCmd x.cmd

/-- ABORT from a member (R289): the collective completes with ABORT; one not yet posted is marked; a completed one ignores it. Where a TAG is used again, an
ABORT is for the last completed collective while its member has sent none for that one and nothing for a later one (log 34). -/
def State.collAbort (s : State) (src : BitVec 7) (vd ctx : Nat) (tag : Word) : State :=
  let heard (cmd : Nat) (s : State) : State :=
    { s with colls := mapIf (fun x => x.cmd == cmd) (fun (x : Coll) => { x with met := x.met.filter fun n => n != src }) s.colls }
  let later := s.fab.held.any fun x => decide (x.1 = 2) && (x.2.hdr.src == src || (x.2.row == .collMatch && x.2.m == src.toNat)) &&
    (match x.2.coll with | some p => decide (p.vd.toNat = vd) && decide (p.ctx.toNat = ctx) && p.tag == tag | none => false)
  match s.collOf vd ctx tag with
  | some (c, _) => heard c.id (s.collEnd c 9 0)
  | none =>
    match s.colls.find? fun x => x.vd == vd && x.ctx == ctx && x.tag == tag && !x.met.isEmpty with
    | some x =>
      if x.met.contains src && !later then heard x.cmd s
      else if s.aborts.contains (vd, ctx, tag) then s else { s with aborts := s.aborts ++ [(vd, ctx, tag)] }
    | none => if s.aborts.contains (vd, ctx, tag) then s else { s with aborts := s.aborts ++ [(vd, ctx, tag)] }

/-- A package has been declared absent (R245, R246, R373). -/
def State.collAbsent (s : State) (q : Nat) : State :=
  s.cmds.foldl (fun s c =>
    let d := CollDesc.ofBytes c.bytes
    if (s.coll? c.id).isNone ∨ c.bytes.length < 64 ∨ !d.group.getLsbD q then s
    else
      match c.op with
      | .coll => s.collEndWith c 4 (BitVec.ofNat 32 q, 0, false)
      | .mcast => ((s.mapColl c.id fun x => { x with acks := BitVec.ofNat 7 q :: x.acks }).mapCmd c.id fun c => c.noteWith 4 (BitVec.ofNat 32 q) d.dst).wakeCmd c.id
      | _ => s) s

/-! ## A multicast's destination (R245, R246) -/

/-- The VD is in use here and the context has a valid root. -/
def State.ctxValid (s : State) (vd ctx : Nat) : Bool := (s.partOf vd).isSome && (s.ctxRoot vd ctx).isSome

/-- What a destination does with a part of a multicast: a command of this package's engine, under one number for the multicast (R201), its DKIND in
`tid`, its whole destination from `pc` on and `deadline` bytes long. The lines it will write are pinned (R313). -/
def State.mcastPart (s : State) (e : Event) (p : CollParams) : State :=
  let key := (e.hdr.src, BitVec.ofNat 32 e.n)
  let (no, s) : Nat × State := match s.fab.bulk.find? fun x => x.1 == key with
    | some x => (x.2 / 2 ^ 48 % 8192, s)
    | none => (s.collNo % 8192, { s with
        collNo := (s.collNo + 1) % 2 ^ 31, fab := { s.fab with bulk := (key, s.collNo % 8192 * 2 ^ 48) :: s.fab.bulk } })
  let words := mapFrom (fun i (r : Reg) => if e.seqs.contains i then ecReg else r) 0 (regsOf false (e.bytes.length / 4) e.bytes)
  let c : Cmd :=
    { id := s.nextId, no := e.n, eng := .coll, wave := 2 ^ 32, tid := p.dkind.toNat, mask := 0, vd := p.vd.toNat, ctx := p.ctx.toNat, block := 0,
      core := 1024, flags := [], op := .mcastIn, a := BitVec.ofNat 64 e.val, b := BitVec.ofNat 64 e.data.toNat, bytes := bytesOf words,
      dst := 128 + e.hdr.src.toNat, prog := 0, status := 0, deadline := e.k, stage := .queued, buf := none, wtag := engineTag s.fab.pkg 1 0x7F no,
      pc := p.dst }
  let s := { s with cmds := s.cmds ++ [c], nextId := s.nextId + 1 }
  (s.pinRange c c.a c.bytes.length (c.tid = 2)).wakeCmd c.id

/-- What a destination has kept of a multicast: the reason of a refusal times 2^64, its command number times 2^48, the first failure times 2^40, and the
bytes finished with. -/
def State.mcastKept (s : State) (c : Cmd) : Nat :=
  match s.fab.bulk.find? fun x => x.1 == (BitVec.ofNat 7 (c.dst - 128), BitVec.ofNat 32 c.no) with | some x => x.2 | none => 0

/-- The commands of a multicast of another package here: its parts, and what stands between them. -/
def Cmd.mcastOf (src no : Nat) (c : Cmd) : Bool := c.op == .mcastIn && c.dst == 128 + src && c.no == no

/-- A multicast is finished with here. -/
def State.mcastGone (s : State) (c : Cmd) : State :=
  let src := c.dst - 128
  let s := (s.cmds.filter (Cmd.mcastOf src c.no)).foldl (fun s e => s.dropCmd e.id) s
  { s with fab := { s.fab with bulk := s.fab.bulk.filter fun x => x.1 != (BitVec.ofNat 7 src, BitVec.ofNat 32 c.no) } }

/-- A part is finished with and others are to come: the multicast keeps its place among the commands (R243), by its oldest command. -/
def State.mcastStay (s : State) (c : Cmd) : State :=
  if s.cmds.any fun e => decide (e.id < c.id) && e.mcastOf (c.dst - 128) c.no then s.dropCmd c.id
  else { (s.mapCmd c.id fun c => { c with stage := .waiting, bytes := [], buf := none }) with pins := s.pins.filter fun x => x.1 != c.id }

/-- The answer of a destination: BACK, with a status. -/
def State.mcastBack (s : State) (c : Cmd) (status : Nat) (x : Word × DWord × Bool) : State :=
  let n := s.mcastKept c % 2 ^ 40
  let s := if status = 0 then s else s.logErr c.vd (statusClass status) status c.wtag x.1 x.2.1 x.2.2 0
  (s.mcastGone c).sendBack c.vd (c.dst - 128) c.no n status (if status = 7 then x.1.toNat else 0)

/-- SIG of a multicast's destination, incremented before BACK (R246); `deadline` is 2^40, and one more while the addition is on its way. -/
def State.mcastSig (s : State) (c : Cmd) : State :=
  if c.status ≠ 0 then s.mcastBack c (c.status % 256) (c.info, c.bad, false)
  else if c.b = 0 ∨ c.deadline = 2 ^ 40 + 1 then s.mcastBack c 0 (0, 0, false)
  else
    match s.engAdd c c.b with
    | (s, .data ..) => s.mcastBack c 0 (0, 0, false)
    | (s, .wait) => if s.cmdBusy c.id then s.mapCmd c.id fun c => { c with deadline := 2 ^ 40 + 1 } else s
    | (s, .fault f) => if f = .page ∨ f = .rdw then s.faultCmd c c.b f true else s.mcastBack c 2 (lowWord c.b, c.b, false)
    | (s, .fail x) => s.mcastBack c x (s.statusInfo c x c.b)

/-- The bytes of a part that a destination has finished with, and how; the last of them leaves the increment of SIG and the answer. Of an absent source
nothing more comes, and nothing is answered (R373). -/
def State.mcastDone (s : State) (c : Cmd) (status : Nat) (x : Word × DWord × Bool) : State :=
  if !s.peerUp (c.dst - 128) then s.dropCmd c.id else
  let key := (BitVec.ofNat 7 (c.dst - 128), BitVec.ofNat 32 c.no)
  let old := s.mcastKept c
  let first := decide (status ≠ 0 ∧ old / 2 ^ 40 % 256 = 0)
  let now := old + c.bytes.length + if first then status * 2 ^ 40 + (if status = 7 then x.1.toNat * 2 ^ 64 else 0) else 0
  let s := { s with fab := { s.fab with bulk := (key, now) :: s.fab.bulk.filter fun x => x.1 != key } }
  if now % 2 ^ 40 < c.deadline then
    (if first then s.logErr c.vd (statusClass status) status c.wtag x.1 x.2.1 x.2.2 0 else s).mcastStay c
  else
    let st := now / 2 ^ 40 % 256
    if st = 0 then
      let s := s.mapCmd c.id fun c => { c with deadline := 2 ^ 40, status := 0, buf := none }
      match s.cmd? c.id with | some c => s.mcastSig c | none => s
    else if first then s.mcastBack c st x
    else (s.mcastGone c).sendBack c.vd (c.dst - 128) c.no (now % 2 ^ 40) st (now / 2 ^ 64)

/-- The bytes of a part written. -/
def State.mcastGo (s : State) (id : Nat) : Nat → State
  | 0 => s
  | n + 1 =>
    match s.cmd? id with
    | none => s
    | some c =>
      let va := c.a + BitVec.ofNat 64 c.prog
      let k := min (64 - va.toNat % 64) (c.bytes.length - c.prog)
      if c.status ≠ 0 ∧ (c.status ≠ 7 ∨ c.bytes.length ≤ c.prog) then s.mcastDone c (c.status % 256) (c.info, c.bad, false)
      else if c.bytes.length ≤ c.prog then s.mcastDone c 0 (0, 0, false)
      else
        match s.engStore c va (c.bytes.drop c.prog) (c.tid = 2) with
        | (s, .data ..) => State.mcastGo (s.mapCmd id fun c => { c with prog := c.prog + k }) id n
        | (s, .wait) => s
        | (s, .fault f) => if f = .rdw then s.faultCmd c va f true else s.mcastDone c 2 (lowWord va, va, false)
        | (s, .fail x) => s.mcastDone c x (s.statusInfo c x va)

/-- A part of a multicast goes on: before its first byte, the destination is looked at whole (R245). -/
def State.mcastRun (s : State) (c : Cmd) : State :=
  if c.stage ≠ .queued then s
  else if 2 ^ 40 ≤ c.deadline then s.mcastSig c
  else if s.heldBack c then s
  else if c.prog ≠ 0 ∨ c.status ≠ 0 then s.mcastGo c.id (c.bytes.length + 2)
  else if s.mcastKept c / 2 ^ 40 % 256 ≠ 0 then s.mcastDone c (s.mcastKept c / 2 ^ 40 % 256) (0, 0, false)
  else if !s.ctxValid c.vd c.ctx then s.mcastDone c 2 (lowWord c.a, c.a, false)
  else
    match s.destFault c c.pc c.deadline (c.tid = 2) with
    | some (x, va) => s.mcastDone c x (lowWord va, va, false)
    | none => s.mcastGo c.id (c.bytes.length + 2)

/-! ## The instructions -/

/-- A collective command posted, with its record: COLL writes its number to D at issue. Records 4,096 old go. -/
def State.postColl (s : State) (w : Wave) (i : Instr) (t : Nat) (op : CmdOp) (va : DWord) (d : Option Nat) (e : Option Nat) : State :=
  let s' := s.postWithDesc w i t .coll op va 0 64 64 false e
  match s'.cmds.drop s.cmds.length with
  | [] => s'
  | c :: _ =>
    let mcast : Bool := match op with | .mcast => true | _ => false
    let x : Coll := ⟨if mcast then 2 ^ 32 else s'.collCount % 2 ^ 32, c.no, c.id, c.vd, c.ctx, 0, [], [], [], [], none⟩
    let s := { s' with
      collCount := if mcast then s'.collCount else s'.collCount + 1,
      colls := x :: s'.colls.filter fun y => y.status.isNone || decide (y.num < 2 ^ 32 ∧ (s'.collCount - y.num) % 2 ^ 32 < 4096) }
    match d with
    | some r => if r < 48 ∨ t = lowest s.issue.mask then s.mapWave w.id fun w => w.deliver t r ⟨BitVec.ofNat 32 x.num, false⟩ else s
    | none => s

/-- COLL (R245). -/
def execColl (d a : BitVec 6) (s : State) : Out :=
  let i : Instr := .coll d a
  postEach i false (fun w th => [(1, (pairAt w th a).2)]) (fun s w t e => s.postColl w i t .coll (pairAt w (w.th t) a).1 (some d.toNat) e) s

/-- MCAST (R246). -/
def execMcast (a : BitVec 6) (s : State) : Out :=
  let i : Instr := .mcast a
  postEach i false (fun w th => [(1, (pairAt w th a).2)]) (fun s w t e => s.postColl w i t .mcast (pairAt w (w.th t) a).1 none e) s

/-- A word for D at once: the thread goes on. -/
def State.answer (s : State) (w : Wave) (i : Instr) (t : Nat) (d : BitVec 6) (x : Word) : State :=
  (s.mapWave w.id fun w => if d.toNat < 48 ∨ t = lowest s.issue.mask then w.deliver t d.toNat ⟨x, false⟩ else w).advance w.id (s.actsFor i t)

/-- The register that the wait of thread u in thread t's turn writes as it ends: D, or 63 where it is another thread that writes D. -/
def State.waitReg (s : State) (i : Instr) (t u : Nat) (d : BitVec 6) : BitVec 6 :=
  if i.uniform && u != t || (decide (48 ≤ d.toNat) && t != lowest s.issue.mask) then 63 else d

/-- COLLW (R245): a number never issued, or more than 4,096 old, gives BADID; a status is there, and the core acquires at .pod (R294), or the thread waits, with
the flag that its clause selects set meanwhile (R75). -/
def execCollw (d a : BitVec 6) (s : State) : Out :=
  let i : Instr := .collw d a
  postEach i false (fun w th => [(1, (opd w th a).2)])
    (fun s w t _ =>
      let n := (opd w (w.th t) a).1
      let age := (BitVec.ofNat 32 s.collCount - n).toNat
      match s.colls.find? fun x => x.num == n.toNat with
      | some x =>
        if age = 0 ∨ 4096 < age then s.answer w i t d 0xFF
        else
          (match x.status with
           | some st => (s.acquire w.coreNo 5).answer w i t d (BitVec.ofNat 32 st)
           | none =>
             (tids (s.actsFor i t)).foldl (fun s u =>
               let f := (w.th u).flagOf s.issue.s
               let s := if f < 12 then s.mapWave w.id fun w => w.mapTh u fun th => th.attach f else s
               s.blockAt w.id (1#32 <<< u) s.issue.pc (.collw n (some (s.waitReg i t u d)) f)) s)
      | none => s.answer w i t d 0xFF) s

end Sys2Proof.Machine
end

