-- ==== Sys2Proof/Machine/Launches.lean ====
section
/-!
DEFINITION. Launches (R248 to R250, R330, R332, R390): posting, dispatch and completion; the end of waves and blocks (R128, R230); kills
(R288) and the retirement of worlds (R393); and the work of engine commands.
-/

namespace Sys2Proof.Machine

/-! ## Launch records (R248) -/

def LaunchRec.ofBytes (bs : List Byte) : LaunchRec :=
  let f (o n : Nat) := field bs o n
  { ventry := BitVec.ofNat 64 (f 0 8), coff := BitVec.ofNat 32 (f 8 4), soff := BitVec.ofNat 32 (f 12 4), evaddr := BitVec.ofNat 64 (f 16 8),
    pred0 := BitVec.ofNat 32 (f 24 4), pred1 := BitVec.ofNat 32 (f 28 4), grid := f 32 2, vwaves := f 34 1, vthr := f 35 1, cwaves := f 36 1,
    cthr := f 37 1, regs := f 38 1, flags := BitVec.ofNat 8 (f 39 1), scratch := f 40 2, arows := f 42 2, acols := f 44 2, minres := f 46 2,
    keyh := f 48 2, rings := (List.range (f 50 1)).map fun r => (f (56 + 2 * r) 1 + 1, 16 * (f (57 + 2 * r) 1 + 1)),
    kargs := (List.range 14).map fun n => BitVec.ofNat 32 (f (72 + 4 * n) 4), qargs := (List.range 16).map fun n => BitVec.ofNat 64 (f (128 + 8 * n) 8) }

def LaunchRec.coop (r : LaunchRec) : Bool := r.flags.getLsbD 7
def LaunchRec.prio (r : LaunchRec) : Nat := r.flags.toNat / 16 % 8
def LaunchRec.seq (r : LaunchRec) : Bool := r.flags.getLsbD 3
/-- MINRES, where 0 means GRID. -/
def LaunchRec.least (r : LaunchRec) : Nat := if r.minres = 0 then r.grid else r.minres

/-- The rings placed at 64-byte-aligned offsets in order (R16), as they stand at launch (R182). -/
def placeRings : List (Nat × Nat) → Nat → List Ring
  | [], _ => []
  | (n, b) :: t, o => ⟨n, b, o, n, 0, ⟨0, false⟩, ⟨0, false⟩, ⟨0, false⟩, ⟨0, false⟩⟩ :: placeRings t ((o + n * b + 63) / 64 * 64)

/-- A record is valid (R248). -/
def recordOk (bs : List Byte) : Bool :=
  let r := LaunchRec.ofBytes bs
  let n := field bs 50 1
  decide (r.coff.toNat % 4 = 0) && decide (r.soff.toNat % 4 = 0) && decide (1 ≤ r.grid) && decide (r.vwaves ≤ 64) && decide (1 ≤ r.vthr) &&
    decide (r.vthr ≤ 32) && decide (r.cwaves ≤ 64) && decide (r.cthr ≤ 32) && (decide (r.cwaves = 0) || decide (1 ≤ r.cthr)) && decide (8 ≤ r.regs) &&
    decide (r.regs ≤ 48) && decide (r.regs % 8 = 0) && !r.flags.getLsbD 0 && decide (r.scratch ≤ 4096) && decide (r.arows ≤ 1024) &&
    decide (r.acols ≤ 1024) && decide (n ≤ 8) && decide (field bs 51 5 = 0) && decide (field bs (56 + 2 * n) (2 * (8 - n)) = 0) &&
    decide (r.vwaves + r.cwaves + (if r.seq then 1 else 0) ≠ 0) && decide (r.vwaves + r.cwaves ≤ 128) &&
    ((decide (r.arows = 0) && decide (r.acols = 0)) || (decide (r.arows ≠ 0) && decide (r.acols ≠ 0) && r.seq)) &&
    (placeRings r.rings 0).all fun x => decide (x.o + x.n * x.b ≤ 64 * r.scratch)

/-- An id is not yet issued (R250). -/
def State.unissued (s : State) (vd : Nat) (x : Word) : Bool := decide ((x - (s.vd vd).nextLaunch).toNat < 2 ^ 31)

/-- A sealed-key handle of a VD (R389). -/
def State.keyHandle (s : State) (vd h : Nat) : Option KeyHandle := s.keys.handles.find? fun x => x.vd == vd && x.handle == h

/-- The work of LAUNCH: the record is accepted, or FIELD. -/
def State.launchRun (s : State) (c : Cmd) (queue : Nat) : State :=
  match s.readDesc c 256 8 with
  | (s, false) => s
  | (s, true) =>
    match s.cmd? c.id with
    | none => s
    | some c =>
      let fail (x : Nat) : State := s.endCmd c x c.a (c.give 0xFFFFFFFF)
      let r := LaunchRec.ofBytes c.bytes
      match s.descEnd c (c.give 0xFFFFFFFF) with
      | some s => s
      | none =>
      if !recordOk c.bytes ∨ (r.flags.getLsbD 1 ∧ s.unissued c.vd r.pred0) ∨ (r.flags.getLsbD 2 ∧ s.unissued c.vd r.pred1) ∨
         (r.keyh ≠ 0 ∧ (s.keyHandle c.vd r.keyh).isNone) then fail 1
      else
        let id := (s.vd c.vd).nextLaunch
        let l : Launch :=
          { uid := s.nextId, id := id, vd := c.vd, queue := queue, ctx := s.vdField c.vd (0x220 + queue) 1 % 16, recd := r, dispatched := false, placed := 0,
            ended := 0, keyid := 0, trapped := false, killed := false, parked := 0, status := 0, evDone := false }
        let s := { s with launches := s.launches ++ [l], nextId := s.nextId + 1 }
        let s := s.mapVd c.vd fun v => { v with nextLaunch := v.nextLaunch + 1 }
        (s.endCmd c 0 0 (c.give id)).due (evn .launchDispatch c.vd :: if s.plat.pscur = 0 then [] else [{ row := .powerStateExit, wake := .launch }])

/-! ## Worlds (R390, R393) -/

/-- The keys a blob holds, when its unwrap passes (R389). -/
def unwrapBlob (blob : List Byte) : Option (BitVec 128 × BitVec 128) :=
  (keyUnwrap Config.wrappingKey ((blob.drop 8).take 40)).map fun bs => (blockOf bs, blockOf (bs.drop 16))

/-- The world of a handle is live: it is, or its blob is unwrapped; none where that fails. -/
def State.beginWorld (s : State) (h : KeyHandle) : Option State :=
  if (s.world? h.keyid).isSome then some s
  else (unwrapBlob h.blob).map fun (d, t) => { s with keys := { s.keys with worlds := s.keys.worlds ++ [⟨h.keyid, h.vd, d, t, []⟩] } }

/-- Steps 2 to 4 of R393. Memory holds a world's lines sealed: what is written back is there. -/
def State.retireWorld (s : State) (k : Nat) : State :=
  match s.world? k with
  | none => s
  | some w =>
    let s := w.cores.foldl State.invalidate s
    let s := (s.freeOperators fun o => o.d.key == k).releaseWorld k
    { s with keys := { s.keys with worlds := s.keys.worlds.filter fun x => x.keyid != k } }

/-! ## Dispatch (R330, R332, R384, R390) -/

/-- The status of a predecessor, none while it has not completed. -/
def State.predStatus (s : State) (vd : Nat) (x : Word) : Option Nat :=
  if s.launches.any fun l => l.vd == vd && l.id == x then none
  else some (match (s.vd vd).statuses.find? fun y => y.1 == x with | some y => y.2 | none => 0)

/-- The predecessors of a launch: none while one has not completed, else whether all completed OK. -/
def State.predsOk (s : State) (l : Launch) : Option Bool :=
  let ps := (if l.recd.flags.getLsbD 1 then [l.recd.pred0] else []) ++ if l.recd.flags.getLsbD 2 then [l.recd.pred1] else []
  (allSome (ps.map (s.predStatus l.vd))).map fun xs => xs.all fun x => x == 0

/-- Every block of a launch has been placed, or none will be. -/
def Launch.allPlaced (l : Launch) : Bool := l.dispatched && (l.killed || l.status != 0 || decide (l.recd.grid ≤ l.placed))

/-- The heads of a VD's queues that can be dispatched. -/
def State.heads (s : State) (vd : Nat) : List Launch :=
  (List.range 16).filterMap fun q =>
    let l := s.launches.filter fun l => l.vd == vd && l.queue == q && !l.killed
    match l.find? fun x => !x.dispatched with
    | none => none
    | some x => if (l.filter (·.dispatched)).all Launch.allPlaced && (s.predsOk x).isSome then some x else none

/-- A block of a launch fits an empty core. -/
def LaunchRec.fitsEmpty (r : LaunchRec) : Bool := (assignLanes r.needs (List.replicate 16 (48, 8))).isSome && decide (64 * r.scratch ≤ 262144)

/-- A launch dispatched: its context, its world, and the status of one that places nothing. -/
def State.dispatchOne (s : State) (l : Launch) : State :=
  let ctx := s.vdField l.vd (0x220 + l.queue) 1 % 16
  let set (s : State) (key st : Nat) : State := s.mapLaunch l.uid fun l => { l with dispatched := true, ctx := ctx, keyid := key, status := st }
  if s.predsOk l = some false then set s 0 0xC
  else if (s.ctxRoot l.vd ctx).isNone then set s 0 1
  else if !l.recd.fitsEmpty then set s 0 0xD
  else if l.recd.keyh = 0 then set s 0 0
  else
    match (s.keyHandle l.vd l.recd.keyh).bind fun h => (s.beginWorld h).map fun s => (s, h.keyid) with
    | some (s, k) => set s k 0
    | none => set s 0 1

/-- LAUNCH_DISPATCH (R330; n: VD): of the queue heads that can be dispatched, the one of highest PRIO and lowest queue. -/
def execLaunchDispatch (s : State) : Out :=
  match leastBy (fun l => 16 * (7 - l.recd.prio) + l.queue) (s.heads s.ev.n) with
  | none => .next s
  | some l =>
    let s := s.dispatchOne l
    .next (s.due ((match s.partOf l.vd with | some p => [evn .blockPlace p] | none => []) ++ [evn .launchComplete l.uid]))

/-! ## The end of waves and blocks (R128, R230) -/

/-- A wave has no access outstanding. -/
def State.quietWave (s : State) (id : Nat) : Bool := !s.accs.any fun a => a.wave == id && decide (a.mask ≠ 0)

/-- No access that an engine makes for a block is on its way, one of a dropped command among them (R231, R250). -/
def State.quietBlock (s : State) (b : Nat) : Bool := !s.accs.any fun a => decide (b ≠ 0) && a.block == b

def Wave.allExited (w : Wave) : Bool := w.threads.all fun th => match th.cond with | .exited => true | _ => false

/-- A compute wave has ended: its granules and its entry can go. -/
def State.waveOver (s : State) (w : Wave) : Bool := !w.isVent && w.lane?.isSome && w.allExited && w.episode.isNone && s.quietWave w.id

/-- WAVE_END (R128; n: wave). -/
def execWaveEnd (s : State) : Out :=
  match s.wave? s.ev.n with
  | none => .next s
  | some w =>
    if !s.waveOver w then .next s
    else
      .next ((s.mapWave w.id fun w => { w with loc := .gone, saveReq := none, turn := none, waitLimit := 0 }).due
        [evn .blockComplete w.block, evn .waveSave w.id])

/-- A block has nothing left on its core, or, where it was killed, nothing of it is on its way: it can go (R230, R231, R250). -/
def State.blockOver (s : State) (b : Block) : Bool :=
  let ws := s.wavesOf b.id
  let cmds := s.cmds.any fun c => c.block == b.id
  ws.all (fun w => (match w.loc with | .gone => true | _ => false) && s.quietWave w.id) && !cmds && s.quietBlock b.id &&
  (match b.st with
   | .ended _ => true
   | .resident | .saving => (match b.seq with | some q => q.ended && q.win.isEmpty | none => true)
   | _ => false)

/-- BLOCK_COMPLETE (R230; n: block): its scratch and accumulator are given back, and its launch may be complete. -/
def execBlockComplete (s : State) : Out :=
  match s.block? s.ev.n with
  | none => .next s
  | some b =>
    if !s.blockOver b then .next s
    else
      let s := { s with blocks := s.blocks.filter fun x => x.id != b.id, waves := s.waves.filter fun w => w.block != b.id }
      let trapped := match b.st with | .ended t => t | _ => false
      let s := s.mapLaunch b.launch fun l => { l with ended := l.ended + 1, trapped := l.trapped || trapped }
      .next (s.due ([evn .launchComplete b.launch] ++ match s.partOf b.vd with | some p => [evn .blockPlace p] | none => []))

/-! ## Kills (R288) -/

/-- The engine's accesses of a command that have not left are dropped with it (R235, R288). -/
def State.dropHeld (s : State) (id : Nat) : State :=
  { s with accs := s.accs.filter fun a => !((match a.kind with | .engRead c | .engWrite c | .engAtom c | .desc c => c == id | _ => false) &&
      decide (a.mask = 0) && (match a.stage with | .held => true | _ => false)) }

/-- The commands of a killed block: its collectives abort at every other member, no unperformed write is made, what an install has locked of the operator
store goes back (R198), and an ERRPOP behind a dropped one goes on (R255). -/
def State.dropCmds (s : State) (b : Nat) : State :=
  let gone := s.cmds.filter fun c => c.block == b
  let s := gone.foldl (fun s c =>
    let d := CollDesc.ofBytes c.bytes
    let s := match c.op, s.coll? c.id with
      | .coll, some x =>
        let s := if c.bytes.length < 64 then s else s.sendAborts c d
        (s.mapColl c.id fun x => { x with status := some 0xB, parts := [] }).wakeWith (fun _ k => match k with | .collw n _ _ => n.toNat == x.num | _ => false) 0xB
      | _, _ => s
    (s.dropHeld c.id).dropCmd c.id) s
  let s := if gone.any Cmd.installing then s.trimStore else s
  let s := if gone.any fun c => c.op == .errpop then (s.cmds.filter fun c => c.op == .errpop).foldl (fun s c => s.wakeCmd c.id) s else s
  if gone.any fun c => (match c.op with | .publish _ => true | _ => false) then s.startHeld 0 else s

/-- A launch ends with KILLED: its waves stop, their engine commands are dropped, and its blocks go once the accesses already issued, those in the operand log
and registered watches among them, have completed (R250, R288). -/
def State.killLaunch (s : State) (uid : Nat) : State :=
  let bs := (s.blocks.filter fun b => b.launch == uid).map (·.id)
  let s := bs.foldl (fun s b =>
    (s.dropCmds b).killBlock b (.ended false)) s
  let s := s.mapLaunch uid fun l => { l with killed := true, dispatched := true }
  s.due (bs.map (evn .blockComplete) ++ [evn .launchComplete uid])

/-- The launches that CTXSAVE, CTXREST or CTXKILL names: one, or with all ones every one of the context. -/
def State.named (s : State) (vd ctx : Nat) (id : Word) : List Launch :=
  s.launches.filter fun l => l.vd == vd && l.ctx == ctx && (id == 0xFFFFFFFF || l.id == id)

/-- The live launches of a world. -/
def State.worldLaunches (s : State) (k : Nat) : List Launch := s.launches.filter fun l => k != 0 && l.keyid == k

/-- WORLD_RETIRE (R393, R399; n: KeyID): the world's launches are killed; when none is left its keys go. -/
def execWorldRetire (s : State) : Out :=
  let k := s.ev.n
  let s := ((s.worldLaunches k).filter fun l => !l.killed || s.blocks.any fun b => b.launch == l.uid && (match b.st with | .ended _ => false | _ => true)).foldl
    (fun s l => s.killLaunch l.uid) s
  .next (if (s.worldLaunches k).isEmpty then s.retireWorld k else s)

/-! ## Completion (R250) -/

/-- A launch has nothing left to place, run or acknowledge. -/
def State.launchOver (s : State) (l : Launch) : Bool :=
  l.dispatched && !(s.blocks.any fun b => b.launch == l.uid) && (l.killed || l.status != 0 || decide (l.recd.grid ≤ l.ended))

/-- The status of a launch that completes. -/
def Launch.final (l : Launch) : Nat := if l.killed then 0xB else if l.trapped then 0xE else l.status

/-- The command of the launch unit that increments a launch's event word. -/
def State.eventCmd (s : State) (l : Launch) : Cmd :=
  { id := s.nextId, no := 0, eng := .launch, wave := 2 ^ 32, tid := 0, mask := 0, vd := l.vd, ctx := l.ctx, block := 0, core := 1024, flags := [],
    op := .evinc l.uid, a := l.recd.evaddr, b := 0, bytes := [], dst := 64, prog := 0, status := 0, deadline := 0, stage := .queued, buf := none, wtag := 0 }
def State.postEvent (s : State) (l : Launch) : State :=
  if s.cmds.any fun c => c.op == .evinc l.uid then s
  else State.wakeCmd { s with cmds := s.cmds ++ [s.eventCmd l], nextId := s.nextId + 1 } s.nextId

/-- The event word of a launch may lie in a page of its world. -/
def State.eventKeyed (s : State) (l : Launch) : Bool :=
  match (s.translate (s.cmdWho (s.eventCmd l)) .atomic l.recd.evaddr).2 with | .ok _ k => k != 0 | .fault _ => true

/-- LAUNCH_COMPLETE (R250, R393; n: launch): the event word, the status and LWAIT, after the last launch of a world has retired it. An event word in a page
of the world is incremented before: it is an access of the world, which R393 has acknowledged first (DEDUCED, log 73). -/
def execLaunchComplete (s : State) : Out :=
  match s.launch? s.ev.n with
  | none => .next s
  | some l =>
    let owed := decide (l.recd.evaddr ≠ 0) && !l.evDone
    let last := decide (l.keyid ≠ 0) && decide ((s.worldLaunches l.keyid).length = 1)
    if !s.launchOver l then .next s
    else if owed && last && (s.world? l.keyid).isSome && s.eventKeyed l then .next (s.postEvent l)
    else
      let s := if last then s.retireWorld l.keyid else s
      if owed then .next (s.postEvent l)
      else
        let st := l.final
        let s := { s with launches := s.launches.filter fun x => x.uid != l.uid }
        let s := s.mapVd l.vd fun v => { v with statuses := ((l.id, st) :: v.statuses).take 1024 }
        .next ((s.wakeWith (fun w k => w.agentVd == l.vd && match k with | .lwait x _ => x == l.id | _ => false) (BitVec.ofNat 32 st)).due
          [evn .launchDispatch l.vd])

/-- The work of the event word's addition: a failure leaves the word and has its entry, of class PROT with FAULT or ABSENT (R250). -/
def State.evincRun (s : State) (c : Cmd) (uid : Nat) : State :=
  let done (s : State) : State := ((s.dropCmd c.id).mapLaunch uid fun l => { l with evDone := true }).due [evn .launchComplete uid]
  let fail (s : State) (x : Nat) (e : Word × DWord × Bool) : State :=
    let x := if x = 4 then 4 else 2
    done (s.logErr c.vd (statusClass x) x 0 e.1 e.2.1 e.2.2 (s.cmdKey c))
  if c.stage ≠ .queued then s
  else if c.prog ≠ 0 then (if c.status = 0 then done s else fail s c.status (c.info, c.bad, false))
  else if c.status ≠ 0 ∨ c.a.toNat % 8 ≠ 0 then fail s 2 (lowWord c.a, c.a, false)
  else
    match s.engAdd c c.a with
    | (s, .data ..) => done s
    | (s, .wait) => s
    | (s, .fault f) => if f = .page ∨ f = .rdw then s.faultCmd c c.a f true else fail s 2 (lowWord c.a, c.a, false)
    | (s, .fail x) => fail s x (s.statusInfo c x c.a)

/-! ## Engine commands -/

/-- ENGINE_COMMAND_COMPLETE (R234, R235; n: command): an engine goes on with a command, to its end, a wait or a fault. -/
def execEngineCommandComplete (s : State) : Out :=
  match s.cmd? s.ev.n with
  | none => .next s
  | some c =>
    match c.op with
    | .cpy _ | .cpyw | .gath | .scat => .next (s.copyRun c)
    | .bind => .next (s.bindRun c)
    | .free => .next (s.freeRun c)
    | .launch q => .next (s.launchRun c q)
    | .mcastIn => .next (s.mcastRun c)
    | .evinc u => .next (s.evincRun c u)
    | .portIn n rd posted => .next (s.portRun c n rd posted)
    | _ => .next s

/-! ## The instructions -/

/-- LAUNCH (R249). -/
def execLaunch (d a b : BitVec 6) (s : State) : Out :=
  let i : Instr := .launch d a b
  postEach i false (fun w th => [(1, (pairAt w th a).2), (2, (opd w th b).2)])
    (fun s w t e => s.postWithDesc w i t .launch (.launch ((opz w t b).toNat % 16)) (pairAt w (w.th t) a).1 0 d.toNat 256 false e) s

/-- LWAIT (R250): a status that is there is an acquire of the core at .pod (R294). -/
def execLwait (d a : BitVec 6) (s : State) : Out :=
  let i : Instr := .lwait d a
  postEach i true (fun w th => [(1, (opd w th a).2)])
    (fun s w t _ =>
      let x := (opd w (w.th t) a).1
      let v := w.agentVd
      if s.unissued v x then s.answer w i t d 0xFF
      else if s.launches.any fun l => l.vd == v && l.id == x then (tids (s.actsFor i t)).foldl (fun s u => s.blockAt w.id (1#32 <<< u) s.issue.pc (.lwait x (some (s.waitReg i t u d)))) s
      else
        (s.acquire w.coreNo 5).answer w i t d (match (s.vd v).statuses.find? fun y => y.1 == x with | some y => BitVec.ofNat 32 y.2 | none => 0xFE)) s

end Sys2Proof.Machine
end

