-- ==== Sys2Proof/Machine/Sched.lean ====
section
/-!
DEFINITION. The package scheduler (R331 to R336, R345 to R350): what waits for placement and in which order, the core a block goes to, a
placement, pre-emption by priority, the reclaim of lent clusters, parking, and the state of clusters (R310, R333).
-/

namespace Sys2Proof.Machine

/-! ## What waits (R335, R349, R350) -/

/-- What a placement needs of a core: VD, granules of each wave in order, scratch bytes, a sequencer; the one cluster it may go to; and
whether it keeps off lent clusters. -/
structure Want where
  vd    : Nat
  needs : List Nat
  scratch : Nat
  seq   : Bool
  only  : Option Nat
  coop  : Bool
deriving DecidableEq, Repr

/-- Something to be placed: a saved block, a block to be placed anew (R231), the next block of a launch, or several blocks of a cooperative
launch together, the saved ones first. -/
inductive Item where
  | saved (b : Block)
  | again (b : Block)
  | next (l : Launch)
  | group (l : Launch) (n : Nat)
deriving DecidableEq, Repr

/-- The blocks of a launch not yet completed that must be placed together: min(MINRES, blocks not yet completed), and one at least. -/
def Launch.together (l : Launch) : Nat := max 1 (min l.recd.least (l.recd.grid - l.ended))

/-- Blocks of a launch still to be placed for the first time. -/
def Launch.unplaced (l : Launch) : Nat := if l.dispatched && !l.killed && l.status == 0 then l.recd.grid - l.placed else 0

/-- A saved block that may return: none of its waves awaits CTXREST for its traps. -/
def State.mayReturn (s : State) (b : Block) : Bool :=
  (match b.st with | .saved => true | _ => false) && (s.wavesOf b.id).all fun w => !w.trapsTaken

/-- A killed block has nothing of its own left in flight. -/
def State.blockQuiet (s : State) (b : Block) : Bool :=
  (s.wavesOf b.id).all (fun w => s.quietWave w.id) && !(s.cmds.any fun c => c.block == b.id) && s.quietBlock b.id &&
    (match b.seq with | some q => q.win.isEmpty | none => true)

/-- A launch that is parked. -/
def State.parkedLaunch (s : State) (uid : Nat) : Bool := match s.launch? uid with | some l => l.parked != 0 | none => false

/-- A list in order; equal elements keep theirs. -/
def insertBy {α : Type} (le : α → α → Bool) (x : α) : List α → List α
  | [] => [x]
  | y :: t => if le x y then x :: y :: t else y :: insertBy le x t
def sortBy {α : Type} (le : α → α → Bool) : List α → List α
  | [] => []
  | x :: t => insertBy le x (sortBy le t)

/-- The saved blocks of a launch that may return, in the order in which they were saved. -/
def State.savedBlocks (s : State) (uid : Nat) : List Block :=
  sortBy (fun a b => decide (a.savedNo ≤ b.savedNo)) (s.blocks.filter fun b => b.launch == uid && s.mayReturn b)

/-- What a VD has waiting. A launch that a CTXSAVE names has nothing until that is complete (R262, log 83). -/
def State.items (s : State) (v : Nat) : List Item :=
  s.blocks.filterMap (fun b =>
    if b.vd ≠ v then none
    else if s.mayReturn b ∧ (b.holder ∨ !s.parkedLaunch b.launch) then some (.saved b)
    else (match b.st with
      | .relaunch => if s.blockQuiet b && !((s.launch? b.launch).elim false s.ctxSaves) then some (.again b) else none
      | _ => none)) ++
  s.launches.filterMap fun l =>
    if l.vd ≠ v ∨ s.ctxSaves l then none
    else if l.parked ≠ 0 then
      (if s.blocks.any (fun b => b.launch == l.uid && b.onCore) then none else some (.group l (min l.together ((s.savedBlocks l.uid).length + l.unplaced))))
    else if l.unplaced = 0 then none
    else if l.recd.coop ∧ l.placed = 0 then some (.group l l.together)
    else some (.next l)

/-- The launch of an item. -/
def State.itemLaunch (s : State) : Item → Option Launch
  | .saved b | .again b => s.launch? b.launch
  | .next l | .group l _ => s.launch? l.uid

/-- Where an item stands in the order of R335 among those of its PRIO: parked launches, saved blocks, unplaced blocks of launches that have begun to be placed,
new queue heads, the lowest queue first (R330); and its place among those. -/
def State.itemRank (s : State) (i : Item) : Nat × Nat :=
  let begun (l : Launch) : Nat × Nat := if l.order = 0 then (4, l.queue) else (3, l.order)
  match i with
  | .saved b => (2, b.savedNo)
  | .again b => (match s.launch? b.launch with | some l => begun l | none => (3, 0))
  | .next l => begun l
  | .group l _ => if l.parked = 0 then begun l else (1, l.parked)

/-- The order of R335 as a number: possible lock holders first; then by PRIO and rank. -/
def State.itemKey (s : State) (i : Item) : Nat :=
  let prio := match s.itemLaunch i with | some l => 7 - l.recd.prio | none => 7
  let x := s.itemRank i
  let key := (8 * (prio + 1) + x.1) * 2 ^ 64 + x.2
  match i with
  | .saved b => if b.holder then b.savedNo else key
  | _ => key

/-- Since when an item waits, in the order of the machine's names: a block since it was saved, a launch since it was posted or parked. -/
def Item.age : Item → Nat
  | .saved b => b.savedNo
  | .again b => b.id
  | .next l => l.uid
  | .group l _ => if l.parked = 0 then l.uid else l.parked

/-- What the block of a launch needs at its first placement (R331). -/
def Launch.want (l : Launch) : Want :=
  { vd := l.vd, needs := l.recd.needs, scratch := 64 * l.recd.scratch, seq := l.recd.seq, only := none, coop := l.recd.coop }

/-- What a saved block needs to return: a matrix-role block returns to its cluster (R36). -/
def State.wantBack (s : State) (b : Block) : Want :=
  { vd := b.vd, needs := (s.savedWaves b.id).map Wave.needs, scratch := b.ssize, seq := b.seq.isSome, only := if b.seq.isSome then some b.cl else none,
    coop := match s.launch? b.launch with | some l => l.recd.coop | none => false }

/-- What an item needs, block by block. -/
def State.wants (s : State) : Item → List Want
  | .saved b => [s.wantBack b]
  | .again b => match s.launch? b.launch with | some l => [l.want] | none => []
  | .next l => [l.want]
  | .group l n => (((s.savedBlocks l.uid).map s.wantBack) ++ List.replicate n l.want).take n

/-! ## Where a block goes (R333, R334) -/

/-- A core of a cluster that a block fits: the one with the most free scratch, the lowest on a tie, with the lanes of its waves. -/
def State.coreFor (s : State) (w : Want) (cl : Nat) : Option (Nat × List Nat) :=
  if (match w.only with | some c => c != cl | none => false) then none
  else
    leastBy (fun (x : Nat × List Nat) => 262144 - s.freeScratch cl x.1)
      ((List.range 4).filterMap fun k => (s.fits cl k w.needs w.scratch w.seq).map fun ls => (k, ls))

/-- An owner that has a block waiting that fits a cluster. -/
def State.ownerWaits (s : State) (u cl : Nat) : Bool := (s.items u).any fun i => (s.wants i).any fun w => (s.coreFor w cl).isSome

/-- The group of R334 that a cluster falls in for a VD: owned, owned by none, lent; none where it is no candidate. -/
def State.groupOf (s : State) (w : Want) (cl : Nat) : Option Nat :=
  if !s.usable w.vd cl then none
  else
    match (s.cluster cl).owner with
    | none => some 1
    | some u => if u = w.vd then some 0 else if w.coop ∨ (s.cluster cl).notice ∨ s.ownerWaits u cl then none else some 2

/-- Waves resident on a cluster. -/
def State.wavesOn (s : State) (cl : Nat) : Nat :=
  (s.waves.filter fun w => match w.loc with | .lane c _ _ => c == cl | _ => false).length

/-- The place of a block: cluster, core, lanes. A hot cluster is taken only when no cool one of the candidate set fits (R333); within a state the groups of
R334 go in order, and within a group the cluster with the fewest waves. -/
def State.site (s : State) (w : Want) : Option (Nat × Nat × List Nat) :=
  let cands := (List.range 128).filterMap fun cl =>
    match s.groupOf w cl with
    | some g => (s.coreFor w cl).map fun (k, ls) => (g + if (s.cluster cl).hot then 3 else 0, cl, k, ls)
    | none => none
  (leastBy (fun (x : Nat × Nat × Nat × List Nat) => x.1 * 2 ^ 32 + s.wavesOn x.2.1) cands).map fun x => x.2

/-! ## A placement (R25, R180, R182, R221, R222, R248, R331) -/

/-- The lowest wave number that no wave has. -/
def State.freeWave (s : State) : Nat := ((List.range (s.waves.length + 1)).find? fun n => !s.waves.any fun w => w.id == n).getD s.waves.length

/-- A wave of a block at launch. The low bits of an entry address are no part of a PC (R26, log 14). -/
def State.newWave (s : State) (l : Launch) (b : Block) (copy : Bool) (wid lane : Nat) : State :=
  let r := l.recd
  let entry := pcOf (if copy then r.ventry + r.coff.signExtend 64 else r.ventry)
  let w : Wave :=
    { Wave.vent 0 0 0 .u entry b.vd with
      id := s.freeWave, loc := .lane b.cl b.core lane, role := if copy then .copy else .vector, block := b.id, wid := wid, ctx := b.ctx,
      threads := List.replicate (if copy then r.cthr else r.vthr)
        { Thread.init entry with since := s.cycle },
      k := vecFill (Vector.replicate 15 Reg.zero) fun n => ⟨(r.kargs[n]?).getD 0, false⟩, alloc := r.regs, age := s.nextId, vbars := [], waitSince := s.cycle }
  { s with waves := s.waves ++ [w], nextId := s.nextId + 1 }

/-- The waves of a block at launch, copy waves first, on the lanes given. -/
def State.newWaves (s : State) (l : Launch) (b : Block) (lanes : List Nat) : State :=
  let roles := (List.range l.recd.cwaves).map (fun n => (true, n)) ++ (List.range l.recd.vwaves).map fun n => (false, n)
  (roles.zip lanes).foldl (fun s x => s.newWave l b x.1.1 x.1.2 x.2) s

/-- A core joins those that have run a world (R393). -/
def State.noteCore (s : State) (key core : Nat) : State :=
  if key = 0 then s
  else { s with keys := { s.keys with worlds := mapIf (fun (w : World) => w.keyid == key) (fun (w : World) =>
      { w with cores := if w.cores.contains core then w.cores else w.cores ++ [core] }) s.keys.worlds } }

/-- A block of a launch at its first placement, under the number given. -/
def State.placeNew (s : State) (l : Launch) (id blkid : Nat) (x : Nat × Nat × List Nat) : State :=
  let r := l.recd
  let b : Block :=
    { id := id, launch := l.uid, blkid := blkid, vd := l.vd, ctx := l.ctx, keyid := l.keyid, cl := x.1, core := x.2.1, ssize := 64 * r.scratch,
      sofs := (s.scratchAt x.1 x.2.1 (64 * r.scratch)).getD 0,
      scratch := [], bars := List.replicate 16 ⟨0, 0, 0, false, 0⟩, rings := placeRings r.rings 0,
      seq := if r.seq then some ⟨pcOf (r.ventry + r.soff.signExtend 64), vecFill (Vector.replicate 32 0) fun n => (r.qargs[n]?).getD 0, 0, [], 0, false, false⟩
        else none,
      arows := r.arows, acols := r.acols, acc := [], st := .resident, holder := false, savedNo := 0, image := 0 }
  ({ s with blocks := s.blocks ++ [b] }.noteCore l.keyid (4 * x.1 + x.2.1)).newWaves l b x.2.2

/-- A saved block back on a core: its waves are restored, up to one whose image cannot be read, with which the block ends (R281); its barriers' watchdogs run on,
its image is given up. A block that a retiring
cluster lost is a CMIG event of the SYSVD (R396, R398; DEDUCED, log 38). -/
def State.placeBack (s : State) (b : Block) (x : Nat × Nat × List Nat) : State :=
  let ws := (s.savedWaves b.id).zip x.2.2
  let moved := (s.cluster b.cl).retiring && b.cl != x.1
  let place := (s.scratchAt x.1 x.2.1 b.ssize).getD 0
  let s := s.mapBlock b.id fun b => { b with
    st := .resident, sofs := place, cl := x.1, core := x.2.1, image := 0, holder := false,
    bars := b.bars.map fun y => if y.limit = 0 then y else { y with limit := y.limit + s.cycle } }
  let s := s.noteCore b.keyid (4 * x.1 + x.2.1)
  let s := ws.foldl (fun s w => match s.wave? w.1.id with | some v => s.restoreWave v x.1 x.2.1 w.2 | none => s) s
  if moved then s.logCorr (match s.partOf b.vd with | some p => s.sysvd p | none => b.vd) 3 0 else s

/-- The next block of a launch placed where it fits. -/
def State.placeNext (s : State) (uid : Nat) : Option State :=
  match s.launch? uid with
  | none => none
  | some l =>
    (s.site l.want).map fun x =>
      ({ s with nextId := s.nextId + 1 }.placeNew l s.nextId l.placed x).mapLaunch uid fun l => { l with
        placed := l.placed + 1, order := if l.order = 0 then s.nextId else l.order }

/-- A saved block placed where it fits. -/
def State.placeSaved (s : State) (b : Block) : Option State := (s.site (s.wantBack b)).map (s.placeBack b)

/-- n blocks of a launch placed in one step, saved ones first; none where one does not fit. -/
def State.placeGroup (s : State) (uid : Nat) : Nat → Option State
  | 0 => some s
  | n + 1 =>
    (match s.savedBlocks uid with
     | b :: _ => s.placeSaved b
     | [] => s.placeNext uid).bind fun s => State.placeGroup s uid n

/-- An item placed, or none where no core has room. -/
def State.placeItem (s : State) : Item → Option State
  | .saved b => s.placeSaved b
  | .again b =>
    match s.launch? b.launch with
    | none => none
    | some l =>
      let s := { s with blocks := s.blocks.filter (fun x => x.id != b.id), waves := s.waves.filter fun w => w.block != b.id }
      (s.site l.want).map fun x => s.placeNew l b.id b.blkid x
  | .next l => s.placeNext l.uid
  | .group l n => if n = 0 then none else (s.placeGroup l.uid n).map fun s => s.mapLaunch l.uid fun l => { l with parked := 0 }

/-- The item a VD places next: its first one; a saved matrix-role block that waits for its cluster holds no other back (log 35). -/
def State.headItem (s : State) (v : Nat) : Option Item :=
  leastBy s.itemKey ((s.items v).filter fun i => match i with
    | .saved b => b.seq.isNone || (s.placeItem i).isSome
    | _ => true)

/-- The head of a VD fits a cluster that the VD owns. -/
def State.headOwned (s : State) (v : Nat) (i : Item) : Bool :=
  match s.wants i with | w :: _ => (match s.site w with | some x => (s.cluster x.1).owner == some v | none => false) | [] => false

/-- Notice ends when no borrower's block is left on the cluster (log 37). -/
def State.borrowers (s : State) (cl : Nat) : List Block :=
  s.blocks.filter fun b => b.onCore && b.cl == cl && (match (s.cluster cl).owner with | some u => u != b.vd | none => false)
def State.noticeEnd (s : State) : State :=
  (List.range 128).foldl (fun s cl => if (s.cluster cl).notice && (s.borrowers cl).isEmpty then s.mapCluster cl fun c => { c with notice := false } else s) s

/-- What the scheduler places next in a partition (R335). A VD with a block for a cluster it owns goes first, the one whose block has waited longest, the lowest
on a tie (R340); else tier 2 chooses with class-0 WEIGHT. -/
def State.nextPlacement (s : State) (p : Nat) : Option State :=
  if s.plat.pscur ≠ 0 then none else
  let s := s.noticeEnd
  let cands := (List.range 64).filterMap fun v =>
    if s.partOf v ≠ some p then none
    else match s.headItem v with
      | some i => (s.placeItem i).map fun t => (v, if s.headOwned v i then some i.age else none, t)
      | none => none
  match leastBy (fun (x : Nat × Option Nat × State) => x.2.1.getD 0) (cands.filter fun (x : Nat × Option Nat × State) => x.2.1.isSome) with
  | some x => some x.2.2
  | none =>
    let arb := (0, 16384 + p)
    match s.tier2 arb (cands.map fun x => x.1) with
    | none => none
    | some (v, left) =>
      (cands.find? fun (x : Nat × Option Nat × State) => x.1 == v).map fun x =>
        let t := x.2.2
        { t with arb := { t.arb with ptrs := (arb, (v, left)) :: t.arb.ptrs.filter fun y => y.1 != arb } }

/-- BLOCK_PLACE (R334, R335; n: partition). -/
def execBlockPlace (s : State) : Out :=
  match s.nextPlacement s.ev.n with
  | none => .next s.noticeEnd
  | some t => .next (t.due [evn .blockPlace s.ev.n])

/-! ## Pre-emption, parking, reclaim (R336, R347, R348, R350) -/

/-- The machine without some blocks, for the question whether another then fits. -/
def State.without (s : State) (ids : List Nat) : State :=
  { s with blocks := s.blocks.filter (fun b => !ids.contains b.id), waves := s.waves.filter fun w => !ids.contains w.block }

/-- Save requests to every resident block of a launch, which waits as a whole from then on (R350). -/
def State.park (s : State) (uid : Nat) : State :=
  let s := (s.blocks.filter fun b => b.launch == uid && b.onCore).foldl (fun s b => s.askBlock b.id (s.preemptAt b.vd) false) s
  { s.mapLaunch uid fun l => { l with parked := s.nextId } with nextId := s.nextId + 1 }

/-- The blocks a launch of some priority may displace, in order: the lowest PRIO first, the youngest launch first (R336). -/
def State.victims (s : State) (l : Launch) : List Block :=
  let rank (b : Block) : Option Nat := match s.launch? b.launch with
    | some x => if x.recd.prio < l.recd.prio then some (x.recd.prio * 2 ^ 64 + (s.nextId - x.uid)) else none
    | none => none
  sortBy (fun a b => decide ((rank a).getD 0 < (rank b).getD 0) || ((rank a).getD 0 == (rank b).getD 0 && decide (b.blkid ≤ a.blkid)))
    (s.blocks.filter fun b => b.vd == l.vd && (match b.st with | .resident => true | _ => false) && (rank b).isSome)

/-- The first of some blocks that leave room for an item when they are gone; a cooperative launch goes whole. -/
def State.enough (s : State) (i : Item) : List Nat → List Block → Option (List Nat)
  | ids, l =>
    if ((s.without ids).placeItem i).isSome then some ids
    else
      match l with
      | [] => none
      | b :: t =>
        let whole := match s.launch? b.launch with
          | some x => if x.recd.coop then (s.blocks.filter fun y => y.launch == b.launch).map (·.id) else [b.id]
          | none => [b.id]
        State.enough s i (ids ++ whole) t

/-- The blocks that R336 sends save requests for an item that finds no core. Blocks already on their way out count as gone. -/
def State.preempt (s : State) (i : Item) : List Block :=
  let going := (s.blocks.filter fun b => match b.st with | .saving => true | _ => false).map (·.id)
  match s.itemLaunch i with
  | none => []
  | some l =>
    match s.enough i going (s.victims l) with
    | none => []
    | some ids =>
      let l := s.blocks.filter fun b => ids.contains b.id && !going.contains b.id
      match (s.wants i) with
      | [w] => (match (s.without ids).site w with | some x => l.filter (fun b => b.cl == x.1 && (b.core == x.2.1 || (w.seq && b.seq.isSome))) | none => l)
      | _ => l

/-- PRIORITY_PREEMPT (R336; n: launch): save requests follow PREEMPTTO; a cooperative launch is parked whole. -/
def execPriorityPreempt (s : State) : Out :=
  match s.launch? s.ev.n with
  | none => .next s
  | some l =>
    match s.headItem l.vd with
    | none => .next s
    | some i =>
      if (s.itemLaunch i).map (·.uid) ≠ some l.uid ∨ (s.placeItem i).isSome then .next s
      else
        .next ((s.preempt i).foldl (fun s b =>
          match s.launch? b.launch with
          | some x => if x.recd.coop then (if x.parked = 0 then s.park x.uid else s) else s.askBlock b.id (s.preemptAt b.vd) false
          | none => s) s)

/-- The owned cluster on which an owner gives notice now (R347): a block of it waits that fits none of its clusters as they stand and would
fit one without the borrowers' blocks; of those clusters the one whose borrowers hold the fewest waves. A cluster under notice already that
would serve is waited for (log 37). -/
def State.noticeOn (s : State) (v : Nat) : Option Nat :=
  let own := (List.range 128).filter fun cl => (s.cluster cl).owner == some v && s.usable v cl
  let clear (cl : Nat) : State := s.without ((s.borrowers cl).map (·.id))
  ((s.items v).flatMap s.wants).findSome? fun w =>
    if own.any fun cl => (s.coreFor w cl).isSome then none
    else
      let cands := own.filter fun cl => !(s.borrowers cl).isEmpty && ((clear cl).coreFor w cl).isSome
      if cands.any fun cl => (s.cluster cl).notice then none
      else leastBy (fun cl => (s.waves.filter fun x => (s.borrowers cl).any (fun b => b.id == x.block) && x.lane?.isSome).length) cands

/-- RECLAIM_NOTICE (R347; n: VD). -/
def execReclaimNotice (s : State) : Out :=
  match s.noticeOn s.ev.n with
  | none => .next s
  | some cl =>
    let limit := s.cycle + usCycles ((s.vd s.ev.n).reclaimto.toNat % 65536)
    .next ((s.borrowers cl).foldl (fun s b => s.askBlock b.id limit true) (s.mapCluster cl fun c => { c with notice := true }))

/-- A wave whose reclaim has run out and that has not stopped yet. -/
def State.reclaimOver (s : State) (w : Wave) : Bool :=
  match w.saveReq with
  | some r => r.reclaim && decide (r.deadline ≤ s.cycle) && r.kind.isNone && w.pfx.isNone && w.lane?.isSome
  | none => false

/-- RECLAIMTO_EXPIRY (R347; n: block): what is not saved yet is stopped for a forced full save. -/
def execReclaimtoExpiry (s : State) : Out :=
  .next ((s.waves.filter fun w => w.block == s.ev.n && s.reclaimOver w).foldl State.forceSave s)

/-- A block's waves moved to other lanes, for the question whether further blocks then fit. -/
def State.moveBlock (s : State) (b : Block) (x : Nat × Nat × List Nat) : State :=
  let s := s.mapBlock b.id fun b => { b with st := .resident, cl := x.1, core := x.2.1, sofs := (s.scratchAt x.1 x.2.1 b.ssize).getD 0 }
  ((s.wavesOf b.id).zip x.2.2).foldl (fun s w => s.mapWave w.1.id fun v => { v with loc := .lane x.1 x.2.1 w.2 }) s

/-- Some blocks can all be placed again at once. -/
def State.allFit (s : State) : List Block → Bool
  | [] => true
  | b :: l =>
    match s.site { s.wantBack b with needs := (s.wavesOf b.id).map Wave.needs } with
    | some x => (s.moveBlock b x).allFit l
    | none => false

/-- A cooperative launch has lost blocks to a loss of capacity that cannot all be placed again at once, and too few would stay (R350). -/
def State.mustPark (s : State) (l : Launch) : Bool :=
  let bs := s.blocks.filter fun b => b.launch == l.uid
  let lost := bs.filter fun b => (s.cluster b.cl).retiring && !(match b.st with | .ended _ => true | _ => false)
  let stay := bs.filter fun b => (match b.st with | .resident => true | _ => false) && s.usable l.vd b.cl
  l.recd.coop && l.parked == 0 && !lost.isEmpty && !s.allFit lost &&
    decide (stay.length < min l.recd.least (l.recd.grid - l.ended))

/-- COOP_PARK (R350; n: launch). -/
def execCoopPark (s : State) : Out :=
  match s.launch? s.ev.n with
  | some l => .next (if s.mustPark l then s.park l.uid else s)
  | none => .next s

/-! ## Clusters (R310, R333, R345) -/

/-- Droop events of the last so many microseconds. -/
def Cluster.droopsIn (c : Cluster) (now us : Nat) : Nat := (c.droops.filter fun t => decide (now ≤ t + usCycles us)).length

/-- THERMAL_SAMPLE (R333; n: cluster, temp: °C). -/
def execThermalSample (s : State) : Out :=
  .next (s.mapCluster s.ev.n fun c => { c with
    hot := if c.hot then !(decide (s.ev.temp ≤ 87) && c.droopsIn s.cycle 200 == 0) else decide (95 ≤ s.ev.temp) })

/-- VOLTAGE_DROOP (R333; n: cluster): the fifth event within 100 µs makes a cool cluster hot. -/
def execVoltageDroop (s : State) : Out :=
  .next (s.mapCluster s.ev.n fun c =>
    let c := { c with droops := s.cycle :: c.droops.filter fun t => decide (s.cycle ≤ t + usCycles 200) }
    { c with hot := c.hot || decide (5 ≤ c.droopsIn s.cycle 100) })

/-- The blocks of a cluster leave it by save and restore (R36, R275, R333). -/
def State.emptyCluster (s : State) (cl : Nat) : State :=
  (s.blocks.filter fun b => b.onCore && b.cl == cl).foldl (fun s b => s.askBlock b.id (s.preemptAt b.vd) false) s

/-- A spare of a die is there to take a cluster's number: two stand on each die, and each takes over once, for a spare that another has replaced is no longer
there (R1). -/
def State.spareFree (s : State) (cl m : Nat) : Bool :=
  decide (cl < 128) && decide (m / 2 = cl / 32) && (List.range 128).all fun k => !(s.cluster k).spares.contains m

/-- CLUSTER_SPARE_TAKEOVER (R1, R36, R310; n: cluster, m: spare, 2 to a die, in order): an unused spare of the cluster's die takes the number, the slice's
contents and its role; what runs on the failing cluster leaves it; the spare's caches and translation entries hold nothing, and it is cool (DEDUCED, log 38). A cluster that is being retired stays so (R195). -/
def execClusterSpareTakeover (s : State) : Out :=
  let cl := s.ev.n
  if !s.spareFree cl s.ev.m then .next s else
  let s := s.emptyCluster cl
  let s := (List.range 4).foldl (fun s k => s.invalidate (4 * cl + k)) s
  let s := { s with
    tlb := s.tlb.filter (fun e => match e.place with | .last l => l / 64 != cl | .core k => k / 4 != cl | .cluster c => c != cl),
    wcache := s.wcache.filter fun e => e.cl != cl }
  .next (s.mapCluster cl fun c => { c with spares := s.ev.m :: c.spares, hot := false, droops := [] })

/-- Ownership of a partition's clusters anew (R345): in increasing VD id, the lowest clusters not yet owned. -/
def State.assignOwners (s : State) (p : Nat) : State :=
  let cls := match (s.part p).desc with | some d => (List.range 128).filter fun cl => d.quads.getLsbD (cl / 4) | none => []
  let owed := (List.range 64).flatMap fun v => if s.partOf v = some p then List.replicate ((s.vd v).clguar.toNat % 256) v else []
  let s := cls.foldl (fun s cl => s.mapCluster cl fun c => { c with owner := none }) s
  (cls.zip owed).foldl (fun s x => s.mapCluster x.1 fun c => { c with owner := some x.2 }) s

end Sys2Proof.Machine
end

