-- ==== Sys2Proof/Machine/Partitions.lean ====
section
/-!
DEFINITION. Partitions (R379 to R383): descriptors, assignment and boot, the change of a partition's clusters, reset and stop; a failed
Vent processor (R388).
-/

namespace Sys2Proof.Machine

/-! ## Descriptors (R380, R381) -/

def PartDesc.ofBytes (bs : List Byte) : PartDesc :=
  { quads := BitVec.ofNat 32 (field bs 0 4), lpch := BitVec.ofNat 16 (field bs 4 2), vent := BitVec.ofNat 16 (field bs 6 2),
    pch := BitVec.ofNat 256 (field bs 8 32), vds := BitVec.ofNat 64 (field bs 40 8), netrp := field bs 48 1, storrp := field bs 49 1,
    sysvd := field bs 50 1, fabsh := field bs 52 2, imglen := field bs 54 2, entry := field bs 56 8, raw := bs }

/-- Two descriptors name a resource in common. -/
def PartDesc.meets (a b : PartDesc) : Bool :=
  a.quads &&& b.quads != 0 || a.lpch &&& b.lpch != 0 || a.vent &&& b.vent != 0 || a.pch &&& b.pch != 0 || a.vds &&& b.vds != 0 ||
    a.netrp == b.netrp || a.netrp == b.storrp || a.storrp == b.netrp || a.storrp == b.storrp

/-- The descriptors of the partitions other than p. -/
def State.otherDescs (s : State) (p : Nat) : List PartDesc := (List.range 8).filterMap fun q => if q = p then none else (s.part q).desc

/-- A descriptor is valid for partition p. -/
def State.descValid (s : State) (p : Nat) (d : PartDesc) : Bool :=
  d.quads != 0 && d.pch != 0 && d.vent != 0 && d.vds != 0 && decide (d.netrp < 16) && decide (d.storrp < 16) && d.netrp != d.storrp &&
    decide (d.sysvd < 64) && d.vds.getLsbD d.sysvd && decide (field d.raw 51 1 = 0) && decide (1 ≤ d.imglen) && decide (d.entry % 65536 = 0) &&
    !((s.otherDescs p).any d.meets) && decide ((s.otherDescs p).foldl (fun n x => n + x.fabsh) d.fabsh ≤ 1024) &&
    (List.range d.imglen).all fun n => d.owns (d.entry + 65536 * n)

/-- The lowest Vent processor of a set. -/
def lowestBit (m : BitVec 16) : Nat := ((List.range 16).find? m.getLsbD).getD 0

/-- A partition boots from its descriptor: its image is measured (R395), and hardware thread 0 of its lowest Vent processor starts at S. -/
def State.boot (s : State) (p : Nat) (d : PartDesc) : State :=
  let s := s.mapPart p fun x => { x with
    desc := some d, pstate := 1, digest := sm3 (d.raw ++ s.mem.bytes d.entry (65536 * d.imglen)), findex := 0, leaving := 0 }
  let n := lowestBit d.vent
  { s with waves := Wave.vent (ventId n 0) n 0 .s (BitVec.ofNat 64 d.entry) d.sysvd :: s.waves.filter fun w => w.id != ventId n 0 }

/-! ## Clusters that join and leave (R333, R345, R381) -/

/-- The clusters of a set of quads. -/
def quadClusters (q : BitVec 32) : List Nat := (List.range 128).filter fun cl => q.getLsbD (cl / 4)

/-- The quads of a running partition changed: added ones join, removed ones are retired, and one that was leaving and is kept stays. -/
def State.changeQuads (s : State) (p : Nat) (old : PartDesc) (quads : BitVec 32) : State :=
  let leave := old.quads &&& ~~~quads
  let s := s.mapPart p fun x => { x with desc := some { old with quads := old.quads ||| quads }, leaving := leave }
  let s := (quadClusters (leave &&& ~~~(s.part p).leaving)).foldl (fun s cl => s.emptyCluster cl) s
  let s := (quadClusters old.quads).foldl (fun s cl => s.mapCluster cl fun c => { c with retiring := leave.getLsbD (cl / 4) }) s
  (s.assignOwners p).due [evn .quadsRetired p, evn .blockPlace p]

/-- The quads that leave hold no block and no stripe member any more, of an operator that is being installed neither. -/
def State.quadsFree (s : State) (p : Nat) : Bool :=
  let cls := quadClusters (s.part p).leaving
  !(s.blocks.any fun b => b.onCore && cls.contains b.cl) && !(s.ops.any fun o => (List.range o.d.span).any fun i => cls.contains (o.lead + i)) &&
    !((s.cmds.filter Cmd.installing).any fun c => (List.range (OpDesc.ofBytes c.bytes).span).any fun i => cls.contains (c.lead + i))

/-- A held command ends: its register and its threads (R256). -/
def State.endHeld (s : State) (c : Cmd) (x : Word) : State := s.endCmd c 0 0 fun w => c.release s.cycle (c.give x w)

/-- The PARTCTL that waits for a partition ends with OK. -/
def State.endPartctl (s : State) (p op : Nat) : State :=
  (s.cmds.filter fun c => (match c.op with | .partctl n => n == op | _ => false) && c.a == BitVec.ofNat 64 p).foldl (fun s c => s.endHeld c 0) s

/-- The quads that leave are gone, and PARTCTL answers. -/
def State.retireQuads (s : State) (p : Nat) : State :=
  match (s.part p).desc with
  | none => s
  | some d =>
    let leave := (s.part p).leaving
    let q := d.quads &&& ~~~leave
    let s := (quadClusters leave).foldl (fun s cl => s.mapCluster cl fun c => { c with retiring := false, owner := none, notice := false }) s
    let s := s.mapPart p fun x => { x with desc := some { d with quads := q, raw := leBytes 4 q.toNat ++ d.raw.drop 4 }, leaving := 0 }
    (s.assignOwners p).endPartctl p 0

/-- QUADS_RETIRED (R381; n: partition). -/
def execQuadsRetired (s : State) : Out :=
  .next (if (s.cmds.any fun c => (match c.op with | .partctl 0 => true | _ => false) && c.a == BitVec.ofNat 64 s.ev.n) && s.quadsFree s.ev.n
    then s.retireQuads s.ev.n else s)

/-! ## Reset and stop (R381, R382) -/

/-- The VDs of a partition. -/
def State.vdsOf (s : State) (p : Nat) : List Nat := (List.range 64).filter fun v => s.partOf v == some p

/-- A wave on a Vent processor of a partition. -/
def State.ventOf (s : State) (p : Nat) (w : Wave) : Bool := match w.loc with | .vent n _ => s.partOfProc n == some p | _ => false

/-- A reset or stop begins: every Vent thread of the partition stops and every launch is killed. -/
def State.beginStop (s : State) (p : Nat) : State :=
  let s := s.mapPart p fun x => { x with pstate := 2 }
  let s := { s with waves := mapIf (s.ventOf p) (fun w => { w with halted := true, pfx := none }) s.waves }
  (s.launches.filter fun l => s.partOf l.vd == some p).foldl (fun s l => s.killLaunch l.uid) s

/-- The end of a reset or stop once no launch is left: quads that were leaving are gone, worlds are retired, what the partition's agents had under way is dropped, operators
and shadowed ranges of its contexts go (log 41), and VD control blocks, error rings and bucket levels return to reset (R340). -/
def State.clearPartition (s : State) (p : Nat) (keep : Nat) : State :=
  let vds := s.vdsOf p
  let mine (v : Nat) : Bool := vds.contains v
  let s := (s.keys.worlds.filter fun w => mine w.vd).foldl (fun s w => s.retireWorld w.keyid) s
  let s := s.freeOperators fun o => mine o.vd
  let vents := (s.waves.filter (s.ventOf p)).map (·.id)
  let s := { s with
    waves := s.waves.filter (fun w => !vents.contains w.id), shadows := s.shadows.filter (fun x => !mine x.vd),
    accs := s.accs.filter (fun a => !vents.contains a.wave), cmds := s.cmds.filter (fun c => c.id == keep || !vents.contains c.wave),
    pins := s.pins.filter (fun x => x.1 == keep || !(s.cmds.any fun c => c.id == x.1 && vents.contains c.wave)),
    aborts := s.aborts.filter (fun x => !mine x.1),
    tlb := s.tlb.filter (fun e => !mine e.vd), wcache := s.wcache.filter (fun e => !mine e.vd), faults := s.faults.filter (fun f => !mine f.vd),
    arb := { s.arb with levels := s.arb.levels.filter fun x => !mine x.1.2.2 } }
  let s : State := vds.foldl (fun s v => s.mapVd v fun _ => VD.reset) s
  let s := if (s.part p).leaving = 0 then s else s.retireQuads p
  let s := s.mapPart p fun x => { Partition.reset with desc := x.desc }
  (match (s.part p).desc with | some d => quadClusters d.quads | none => []).foldl
    (fun s cl => s.mapCluster cl fun c => { c with retiring := false, owner := none, notice := false }) s

/-- A stopped partition's resources are released, its sealed keys among them; it is unassigned. -/
def State.releasePartition (s : State) (p : Nat) : State :=
  let vds := s.vdsOf p
  State.mapPart { s with keys := { s.keys with handles := s.keys.handles.filter fun h => !vds.contains h.vd } } p fun _ => Partition.reset

/-- A reset or stop goes on. -/
def State.stopRun (s : State) (c : Cmd) (op : Nat) : State :=
  let p := c.a.toNat
  if s.launches.any fun l => s.partOf l.vd == some p then s
  else
    let s := (s.clearPartition p c.id).endHeld c 0
    match op, (s.part p).desc with
    | 1, some d => s.boot p d
    | _, _ => s.releasePartition p

/-! ## A Vent processor fails (R388) -/

/-- A free hardware thread of another Vent processor of the same partition. -/
def State.freeVent (s : State) (proc : Nat) : Option (Nat × Nat) :=
  (List.range 1024).findSome? fun n =>
    let q := n / 64
    let h := n % 64
    if q ≠ proc ∧ !s.mgmt.failed.getLsbD q ∧ (s.partOfProc q).isSome ∧ s.partOfProc q = s.partOfProc proc ∧
       !(s.waves.any fun w => w.id == ventId q h && !w.halted) then some (q, h) else none

/-- A record put among those of a ring in the order of posting. -/
def putOrder (x : Nat × Nat) : List (Nat × Nat) → List (Nat × Nat)
  | [] => [x]
  | y :: t => if x.2 < y.2 then x :: y :: t else y :: putOrder x t

/-- The record a stopped thread held is unserved again, in its place at the head of its ring, and its VD has CVENT. -/
def State.unserve (s : State) (r : HeldRec) : State :=
  (s.mapVd r.vd fun v => { v with rings := v.rings.setIfInBounds r.ring (
    let x := v.rings[r.ring]?.getD ⟨0, [], []⟩
    { x with unserved := putOrder (r.slot, r.order) x.unserved, held := x.held.filter (· != r.slot) }) }).logCorr r.vd 2 0

/-- A stopped thread's binding moves to a hardware thread, which starts at its S vector with class UDI. The PC and the level that its frame
receives are not stated: free (log 43). -/
def State.moveVent (s : State) (w : Wave) (q h : Nat) : State :=
  let x := Config.freeDevice s.freeCtr
  let v := { Wave.vent (ventId q h) q h .s (pcOf (s.ventv q).svec) w.vd with queue := w.queue }
  let s := { s with waves := v :: s.waves.filter (fun y => y.id != w.id && y.id != v.id), freeCtr := s.freeCtr + 1 }
  s.homeWrite v.agentVd 0 (s.frameOf v .s) (frameBytes (BitVec.ofNat 64 x.toNat) (Level.ofCode (x.toNat / 2 ^ 64 % 3)) .udi 0 0)

/-- VENT_FAILURE (R388; n: processor): its threads stop, and its partition's SYSVD has CVENT, an event of no partition's the management log (R396); bindings
that find no thread yet wait, and the event comes again. -/
def execVentFailure (s : State) : Out :=
  let n := s.ev.n
  let on (w : Wave) : Bool := match w.loc with | .vent p _ => p == n | _ => false
  let told := s.mgmt.failed.getLsbD n
  let s := { s with mgmt := { s.mgmt with failed := s.mgmt.failed ||| (1#16 <<< n) } }
  let s := ((s.waves.filter on).filterMap (·.held)).foldl State.unserve s
  let s := if told then s else match s.partOfProc n with
    | some p => s.logCorr (s.sysvd p) 2 0
    | none => s.mlogEntry (s.entryOf (correctableClass 2) 0 0 0xFF 0 false 0 0 0)
  let s := { s with waves := mapIf on (fun w => { w with halted := true, held := none, pfx := none, serves := w.vd }) s.waves }
  .next ((s.waves.filter on).foldl (fun s w => match s.freeVent n with | some (q, h) => s.moveVent w q h | none => s) s)

end Sys2Proof.Machine
end

