-- ==== Sys2Proof/Machine/System.lean ====
section
/-!
DEFINITION. Service, queue and calendar instructions (R251 to R255), and the privileged instructions (R256 to R262, R381, R389).
-/

namespace Sys2Proof.Machine

/-! ## Calls (R251 to R253, R384, R387) -/

/-- A call ring as its VD's table entry gives it: base, slots, queue; none where it is not valid (R384), or in another partition's memory (R379, log 26). -/
def State.callRing (s : State) (v r : Nat) : Option (Nat × Nat × Nat) :=
  let c := s.vdField v (0xA8 + 16 * r) 4
  let base := s.vdField v (0xA0 + 16 * r) 8
  if c / 2 ^ 31 % 2 = 1 ∧ s.within (s.partOf v) base (32 * (c % 4096 + 1)) then some (base, c % 4096 + 1, c / 65536 % 256) else none

/-- The ring of a service: none where the map leaves it unassigned or names a ring that is not valid. -/
def State.serviceRing (s : State) (v n : Nat) : Option (Nat × Nat × Nat × Nat) :=
  let m := s.vdField v (0x120 + n) 1
  if m / 128 % 2 = 0 then none else (s.callRing v (m % 8)).map fun x => (m % 8, x)

def VD.ring (v : VD) (r : Nat) : CallRing := v.rings[r]?.getD ⟨0, [], []⟩
def VD.mapRing (v : VD) (r : Nat) (f : CallRing → CallRing) : VD := { v with rings := v.rings.setIfInBounds r (f (v.ring r)) }

/-- The CALLID of the next call of a VD: the lowest free of its 4,096 entries, under a sequence number whose low bits name the VD, so that no
two calls have one CALLID (the sequence number is the model's: DESIGN CHOICE, log 39). -/
def State.nextCall (s : State) (v : Nat) : Option Word :=
  let used := (s.vd v).calls.map fun c => c.callid.toNat % 4096
  ((List.range 4096).find? fun n => !used.contains n).map fun n => BitVec.ofNat 32 (n + 4096 * (v + 64 * (s.vd v).callSeq))

/-- The call record of thread t (R252). -/
def State.callRecord (s : State) (w : Wave) (t : Nat) (id : Word) (n : Nat) (arg : DWord) : List Byte :=
  leBytes 4 id.toNat ++ leBytes 4 (threadTag s.fab.pkg w.id t).toNat ++ leBytes 1 n ++ leBytes 1 w.vd ++ leBytes 1 w.ctx ++ zeros 1
    ++ leBytes 4 (match s.launchOf w with | some l => l.id.toNat | none => 0) ++ leBytes 8 arg.toNat ++ zeros 8

/-- SVC of thread t of a compute wave: the record is posted and the thread blocks until the reply; without room it waits. -/
def State.svcCall (s : State) (w : Wave) (i : Instr) (t : Nat) (d a : BitVec 6) (n : Nat) : State :=
  let m := s.actsFor i t
  match s.serviceRing w.vd n with
  | none => s.trapFor w i t .prot 0 0 0
  | some (r, base, slots, q) =>
    let x := (s.vd w.vd).ring r
    match s.nextCall w.vd, decide (x.next % slots ∈ x.unserved.map (·.1) ++ x.held) with
    | some id, false =>
      let s := s.homeWrite w.vd 0 (base + 32 * (x.next % slots)) (s.callRecord w t id n (pairAt w (w.th t) a).1)
      let s := s.mapVd w.vd fun v =>
        { v.mapRing r (fun x => { x with next := (x.next + 1) % slots, unserved := x.unserved ++ [(x.next % slots, s.nextId)] }) with
          calls := v.calls ++ [⟨id, w.id, t, if 48 ≤ d.toNat ∧ t ≠ lowest s.issue.mask then 64 else d.toNat⟩], callSeq := v.callSeq + 1 }
      (State.blockAt { s with nextId := s.nextId + 1 } w.id m s.issue.pc (.svc (some id))).notify q 1
    | _, _ => s.blockAt w.id m s.issue.repPc (.svc none)

/-- A wave has a thread whose call waits for room. -/
def Wave.callsWaiting (w : Wave) : Bool :=
  (List.range w.threads.length).any fun t => match (w.arch t).cond with | .blocked (.svc none) => true | _ => false

/-- Threads of a VD whose call waits for room issue it again, those of saved waves too (R36, R279). -/
def State.callRoom (s : State) (v : Nat) : State :=
  (s.waves.filter fun w => w.vd == v && w.callsWaiting).foldl (fun s w =>
    s.onWave w.id fun w => w.mapArchAll fun th => match th.cond with | .blocked (.svc none) => th.wakeAgain s.cycle | _ => th) s

/-- SVC (R251): on a Vent thread the next level is entered, with n and the argument in the frame; the class its frame holds is not stated: free
(log 24). -/
def execSvc (d a : BitVec 6) (n : BitVec 8) (s : State) : Out :=
  let i : Instr := .svc d a n
  skipAhead i (fun s w =>
    s.each i (fun s t =>
      let (arg, p) := pairAt w (w.th t) a
      if p then s.poisonTrap w i t 1
      else if w.isVent then
        State.enter { s with freeCtr := s.freeCtr + 1 } w (correctableClass s.freeCtr) (n.zeroExtend 32) (s.issue.pc + 4) arg
      else s.svcCall w i t d a n.toNat)) s

/-- TRAP (R255): SWT in each active thread, with the code as information and the value of A as address. A Vent thread's frame holds that value in its fourth
word too, of which R257 speaks for SVC only (DESIGN CHOICE, log 83). -/
def execTrap (a : BitVec 6) (n : BitVec 8) (s : State) : Out :=
  let i : Instr := .trap a n
  skipAhead i (fun s w =>
    (tids s.issue.mask).foldl (fun s t =>
      let (x, p) := opd w (w.th t) a
      if p then s.raise w.id t .poison 0 1 s.issue.repPc 0
      else if w.isVent then s.enter w .swt (n.zeroExtend 32) (s.issue.pc + 4) (x.zeroExtend 64)
      else s.raise w.id t .swt 0 (n.zeroExtend 32) s.issue.repPc (x.zeroExtend 64)) s) s

/-! ## Queues (R254, R386) -/

/-- The partition an agent belongs to: its Vent processor's, or its VD's. -/
def State.partOfWave (s : State) (w : Wave) : Option Nat := match w.loc with | .vent n _ => s.partOfProc n | _ => s.partOf w.vd

/-- A queue is open to a notifier. -/
def State.mayNotify (s : State) (w : Wave) (q : Nat) : Bool :=
  let o := (s.queue q).own
  o.getLsbD 7 && s.partOfWave w == some (o.toNat % 8) && (w.isPriv || o.getLsbD 8)

/-- NOTIFY (R254). -/
def execNotify (a b : BitVec 6) (s : State) : Out :=
  let i : Instr := .notify a b
  skipAhead i (fun s w =>
    s.each i (fun s t =>
      let x := opd w (w.th t) a
      let y := opd w (w.th t) b
      match firstPoison [(1, x.2), (2, y.2)] with
      | some pos => s.poisonTrap w i t pos
      | none =>
        let q := x.1.toNat % 256
        if s.mayNotify w q then (s.advance w.id (s.actsFor i t)).notify q y.1
        else s.trapFor w i t .prot 0 0 0)) s

/-! ## The error ring (R255) -/

/-- ERRPOP: an empty ring answers at once; else the thread waits for the write of the oldest entry. -/
def execErrpop (d a : BitVec 6) (s : State) : Out :=
  let i : Instr := .errpop d a
  skipAhead i (fun s w =>
    s.each i (fun s t =>
      let (va, p) := pairAt w (w.th t) a
      if p then s.poisonTrap w i t 1
      else if va.toNat % 32 ≠ 0 then s.trapFor w i t .align 0 (lowWord va) va
      else s.post w i t .oe .errpop va 0 d.toNat true .queued)) s

/-- The work of ERRPOP, one at a time for a ring (R255): the entry leaves once its write is performed. A fault traps the thread and removes nothing; a write
that fails has its own entry and ERRSTAT.SF, as a store's (log 25). -/
def State.errpopRun (s : State) (c : Cmd) : State :=
  let next (s : State) : State :=
    match s.cmds.find? fun x => (match x.op with | .errpop => true | _ => false) && x.vd == c.vd with | some x => s.wakeCmd x.id | none => s
  let trap (s : State) (f : TrapClass) : State :=
    next (((s.dropCmd c.id).onWave c.wave (c.release s.cycle)).raiseNow c.wave c.tid f 0 (lowWord c.a) c.pc c.a)
  let ring := (s.vd c.vd).err.ring
  let pop (s : State) : State :=
    next ((s.mapVd c.vd fun v => { v with err := { v.err with ring := v.err.ring.drop 1 } }).endHeld c (BitVec.ofNat 32 (ring.length - 1)))
  let failed (s : State) (err : Word) : State :=
    next (State.endHeld (s.onWave c.wave fun w => w.mapArch c.mask fun th => th.setErr err) c (BitVec.ofNat 32 (s.vd c.vd).err.ring.length))
  if s.cmds.any fun x => (match x.op with | .errpop => true | _ => false) && x.vd == c.vd && decide (x.id < c.id) then s
  else if c.stage ≠ .queued then s
  else if c.prog ≠ 0 then
    if c.status = 0 then pop s
    else if c.status = 7 then failed s eSR
    else failed (s.logErr c.vd (statusClass c.status) 0 c.wtag c.info c.bad false (s.agentKey c.wave)) eSF
  else if c.status = 2 then trap s .prot
  else
    match ring with
    | [] => next (s.endHeld c 0x80000000)
    | e :: _ =>
      match s.engWrite c c.a e.bytes false with
      | (s, .data ..) => pop s
      | (s, .wait) => s
      | (s, .fault f) =>
        let compute : Bool := match s.wave? c.wave with | some w => !w.isVent | none => false
        if (f = .page ∨ f = .rdw) ∧ compute then s.faultCmd c c.a f true else trap s f
      | (s, .fail x) =>
        let y := s.statusInfo c x c.a
        failed (s.logErr c.vd (statusClass x) 0 c.wtag y.1 y.2.1 y.2.2 (s.agentKey c.wave)) eSF

/-! ## SLOTQ (R255) -/

/-- SLOTQ for package a and an offset b: the direct slot, or the slot in which a message sent now arrives. -/
def State.slotq (s : State) (route : Bool) (a b : Word) : DWord :=
  if !s.isPeer a.toNat then BitVec.allOnes 64
  else if route then (match s.chooseRoute a.toNat 1 with | some r => BitVec.ofNat 64 r.arrive | none => BitVec.allOnes 64)
  else BitVec.ofNat 64 (s.fab.slotFrom (s.fab.slotnow.toNat + b.toNat) (s.fab.offset s.fab.pkg a.toNat / 8))

def slotqBody (route : Bool) (d a b : BitVec 6) (c : Ctx) : Res :=
  match firstPoison [(1, (c.read a).psn), (2, (c.read b).psn)] with
  | some pos => trapPoison pos
  | none => c.ret2 d (c.s.slotq route (c.read a).val (c.read b).val) false

/-- SLOTQ, in an episode skipped (R263). -/
def slotqOp (i : Instr) (route : Bool) (d a b : BitVec 6) (s : State) : Out := skipAhead i (fun s _ => s.simt i (slotqBody route d a b)) s

def execSlotqDirect (d a b : BitVec 6) (s : State) : Out := slotqOp (.slotqDirect d a b) false d a b s
def execSlotqRoute (d a b : BitVec 6) (s : State) : Out := slotqOp (.slotqRoute d a b) true d a b s

/-! ## Privileged instructions (R256) -/

/-- A wave may name a VD: at M every one, at S those of its partition. -/
def State.reaches (s : State) (w : Wave) (v : Nat) : Bool :=
  (match w.level with | .m => true | _ => false) || ((s.partOfWave w).isSome && s.partOf v == s.partOfWave w)

/-- The common form: the poison of the operands, then the effect for the one thread of the Vent hardware thread. -/
def privEach (i : Instr) (ops : Wave → Thread → List (Nat × Bool)) (act : State → Wave → Nat → State) (s : State) : Out :=
  skipAhead i (fun s w =>
    s.each i (fun s t => match firstPoison (ops w (w.th t)) with | some pos => s.poisonTrap w i t pos | none => act s w t)) s

/-- PROT in the thread. -/
def State.privProt (s : State) (w : Wave) (t : Nat) : State := s.raise w.id t .prot 0 0 s.issue.repPc 0

/-- The thread goes on with a value in D. -/
def State.privDone (s : State) (w : Wave) (t : Nat) (d : BitVec 6) (x : Word) : State :=
  (s.mapWave w.id fun w => w.deliver t d.toNat ⟨x, false⟩).advance w.id (1#32 <<< t)

/-- A call answered: the reply's value to a resident or a saved caller; 2 where there is none. -/
def State.reply (s : State) (v : Nat) (id : Word) (x : DWord) : State × Word :=
  match (s.vd v).calls.find? fun c => c.callid == id with
  | none => (s, 2)
  | some c =>
    let s := (s.mapVd v fun d => { d with calls := d.calls.filter fun y => y.callid != id }).callRoom v
    match s.wave? c.wave with
    | none => (s, 2)
    | some w =>
      let give (w : Wave) : Wave :=
        let w := if c.dst < 64 then (w.deliver c.tid c.dst ⟨lowWord x, false⟩).deliver c.tid (c.dst + 1) ⟨highWord x, false⟩ else w
        w.mapArchAll fun th => match th.cond with | .blocked (.svc (some y)) => if y = id then th.wakeNext s.cycle else th | _ => th
      match w.loc with
      | .gone => (s, 2)
      | .saved _ => (s.onWave w.id give, 1)
      | _ => (s.onWave w.id give, 0)

/-- SVCREPLY (R253). The VD of a CALLID stands in its sequence number (log 39). -/
def execSvcreply (d a b : BitVec 6) (s : State) : Out :=
  privEach (.svcreply d a b) (fun w th => [(1, (opd w th a).2), (2, (pairAt w th b).2)])
    (fun s w t =>
      let id := (opd w (w.th t) a).1
      let v := id.toNat / 4096 % 64
      if !s.reaches w v then s.privProt w t
      else
        let (s, r) := s.reply v id (pairAt w (w.th t) b).1
        s.privDone w t d r) s

/-- RTT (R257). -/
def execRtt (s : State) : Out := skipAhead .rtt (fun s w => s.leave w) s

/-! ## Translations removed (R258) -/

/-- The operand b of TLBINV: VD and context. -/
def tlbOperand (b : Word) : Nat × Nat := (b.toNat / 32 % 64, b.toNat / 2048 % 16)

/-- An entry of a VD, or of a context of it, or over one address. -/
def tlbNames (kind vd ctx : Nat) (va : DWord) (v c base size : Nat) : Bool :=
  v == vd && (kind == 2 || c == ctx) && (kind != 0 || (decide (base ≤ va.toNat) && decide (va.toNat < base + size)))

/-- The translations removed from every structure of the package (R258). -/
def State.tlbRemove (s : State) (kind vd ctx : Nat) (va : DWord) : State :=
  { s with tlb := s.tlb.filter fun e => !tlbNames kind vd ctx va e.vd e.ctx e.base e.size }

/-- The context an outstanding access translated through. -/
def State.accView (s : State) (a : Access) : Nat × Nat :=
  match s.wave? a.wave with
  | some w => if w.isVent then (s.view (s.who w)).getD (a.vd, a.ctx) else (a.vd, a.ctx)
  | none => (a.vd, a.ctx)

/-- An access older than a command, through a page that a test of its VD, context, base and size names, has still to be performed (R258). -/
def State.tlbPending (s : State) (hit : Nat → Nat → Nat → Nat → Bool) (before : Nat) : Bool :=
  s.accs.any fun a => decide (a.id < before) && decide (a.page ≠ 0) &&
    (match a.stage with | .issued | .held | .remote _ | .unready _ | .firing | .watching | .polled => true | _ => false) &&
    hit (s.accView a).1 (s.accView a).2 (a.va.toNat / a.page * a.page) a.page

/-- TLBINV: the thread waits until no access through what it removed is outstanding. What it does on other packages at .pod is theirs (log 54). One with a
reserved scope, 6 or 7, changes nothing (R256). -/
def tlbinvOp (i : Instr) (kind : Nat) (a b : BitVec 6) (s : State) : Out :=
  privEach i (fun w th => [(1, kind == 0 && (pairAt w th a).2), (2, (opd w th b).2)])
    (fun s w t =>
      let x := (opd w (w.th t) b).1
      let va := (pairAt w (w.th t) a).1
      let (vd, ctx) := tlbOperand x
      if !s.reaches w vd then s.privProt w t
      else if 6 ≤ x.toNat % 8 then s.advance w.id (1#32 <<< t)
      else (s.tlbRemove kind vd ctx va).post w i t .oe (.tlbinv kind) va (x.zeroExtend 64) 64 true .queued) s

def execTlbinvPage (a b : BitVec 6) (s : State) : Out := tlbinvOp (.tlbinvPage a b) 0 a b s
def execTlbinvContext (a b : BitVec 6) (s : State) : Out := tlbinvOp (.tlbinvContext a b) 1 a b s
def execTlbinvVd (a b : BitVec 6) (s : State) : Out := tlbinvOp (.tlbinvVd a b) 2 a b s

/-- Walkers' caches and last-page registers of the package hold nothing (R258). -/
def State.fenceWalks (s : State) : State := { s with wcache := [], tlb := s.tlb.filter fun e => match e.place with | .last _ => false | _ => true }

/-- TFENCE: the release condition is met before it issues. Every scope covers this package (DEDUCED for those below .pkg, log 54). -/
def execTfence (c : BitVec 3) (s : State) : Out := skipAhead (.tfence c) (fun s w => s.fenceWalks.advance w.id s.issue.mask) s

/-! ## Keys (R260, R389) -/

/-- KEYLOAD (R389, R415). -/
def execKeyload (d a b : BitVec 6) (s : State) : Out :=
  let i : Instr := .keyload d a b
  privEach i (fun w th => [(1, (pairAt w th a).2), (2, (opd w th b).2)])
    (fun s w t =>
      let x := (opd w (w.th t) b).1
      if !s.reaches w (x.toNat % 64) then s.privProt w t
      else s.postWithDesc w i t .oe .keyload (pairAt w (w.th t) a).1 (x.zeroExtend 64) d.toNat 64 true none) s

/-- The lowest free KeyID and handle. -/
def State.freeKeyid (s : State) : Option Nat := ((List.range 511).map (· + 1)).find? fun k => !s.keys.handles.any fun h => h.keyid == k
def State.freeHandle (s : State) (v : Nat) : Option Nat :=
  ((List.range 4095).map (· + 1)).find? fun n => !s.keys.handles.any fun h => h.vd == v && h.handle == n

/-- A blob is valid for a VD. -/
def blobOk (v : Nat) (bs : List Byte) : Bool :=
  decide (field bs 0 2 = 1) && decide (field bs 2 2 = 0) && decide (field bs 4 4 = v) && decide (leVal (bs.drop 48) = 0) && (unwrapBlob bs).isSome

/-- The work of KEYLOAD: failure has its entry as a command's does (DEDUCED, log 40). -/
def State.keyloadRun (s : State) (c : Cmd) : State :=
  match s.readDesc c 64 4 with
  | (s, false) => s
  | (s, true) =>
    match s.cmd? c.id with
    | none => s
    | some c =>
      let v := c.b.toNat % 64
      let none_ (w : Wave) : Wave := c.release s.cycle (c.give 0xFFFFFFFF w)
      match s.descEnd c none_ with
      | some s => s
      | none =>
        if !blobOk v c.bytes then s.endCmd c 1 c.a none_
        else
          match s.freeKeyid, s.freeHandle v with
          | some k, some h =>
            State.endHeld { s with keys := { s.keys with handles := s.keys.handles ++ [⟨h, k, v, c.bytes⟩] } } c (BitVec.ofNat 32 (h + 65536 * k))
          | _, _ => s.endCmd c 1 c.a none_

/-- KEYREVOKE (R260): a KeyID outside 1 to 511 gives FIELD; one of another partition raises PROT (DEDUCED, log 40). -/
def execKeyrevoke (d a : BitVec 6) (s : State) : Out :=
  let i : Instr := .keyrevoke d a
  privEach i (fun w th => [(1, (opd w th a).2)])
    (fun s w t =>
      let k := (opd w (w.th t) a).1.toNat % 512
      if k = 0 then s.privDone w t d 1
      else if s.keys.handles.any (fun h => h.keyid == k && !s.reaches w h.vd) then s.privProt w t
      else s.post w i t .oe .keyrevoke (BitVec.ofNat 64 k) 0 d.toNat true .queued) s

/-- The work of KEYREVOKE: the world's launches end, the world is retired, the handle is unbound. -/
def State.keyrevokeRun (s : State) (c : Cmd) : State :=
  let k := c.a.toNat
  if !(s.worldLaunches k).isEmpty then ((s.worldLaunches k).filter fun l => !l.killed).foldl (fun s l => s.killLaunch l.uid) s
  else
    let s := s.retireWorld k
    State.endHeld { s with keys := { s.keys with handles := s.keys.handles.filter fun h => h.keyid != k } } c 0

/-! ## Rates (R261, R339) -/

/-- The capacity a partition holds at one instance of a class; of class 4 its share of the plane that has least, of class 1 the shared ways of the
slice of its clusters that has fewest (DEDUCED, log 42). -/
def State.capacity (s : State) (p cls : Nat) : Nat :=
  match cls with
  | 0 | 5 => 1024
  | 1 => match (s.part p).desc with | some d => (quadClusters d.quads).foldl (fun n cl => min n (s.sharedWays cl).length) 16 | none => 16
  | 2 => 400
  | 3 => 512
  | _ =>
    let flits := ((List.range 8).filter s.fab.lit).foldl (fun n k => min n (s.fab.planeCap k)) 55800
    flits * (match (s.part p).desc with | some d => d.fabsh | none => 0) / 1024

/-- QOSSET's status for a VD, class, rate and depth. -/
def State.qosStatus (s : State) (v cls r d : Nat) : Nat :=
  match s.partOf v with
  | none => 1
  | some p =>
    if 5 < cls then 1
    else
      let others := (s.vdsOf p).foldl (fun n u => if u = v then n else n + (s.rate u cls).rate.toNat % 2 ^ 24) 0
      if s.capacity p cls < r + others ∨ 65535 < d ∨ (d = 0 ∧ r ≠ 0 ∧ cls ≠ 1) then 1 else 0

/-- Levels of a VD in a class clamped to a depth (R340). -/
def State.clampLevels (s : State) (cls v d : Nat) : State :=
  { s with arb := { s.arb with levels := s.arb.levels.map fun x => if x.1.1 = cls ∧ x.1.2.2 = v then (x.1, min x.2 (1024 * d)) else x } }

/-- QOSSET (R261, R343). -/
def execQosset (d a b : BitVec 6) (s : State) : Out :=
  privEach (.qosset d a b) (fun w th => [(1, (opd w th a).2), (2, (pairAt w th b).2)])
    (fun s w t =>
      let x := (opd w (w.th t) a).1.toNat
      let v := x % 64
      let cls := x / 256 % 16
      let r := (opd w (w.th t) b).1.toNat
      let dep := (highWord (pairAt w (w.th t) b).1).toNat
      if !s.reaches w v then s.privProt w t
      else
        match s.qosStatus v cls r dep with
        | 0 =>
          let s := (s.refillNow cls).mapRate v cls fun x => { x with rate := BitVec.ofNat 32 r, depth := BitVec.ofNat 32 dep }
          (if cls = 1 then s else s.clampLevels cls v dep).privDone w t d 0
        | n => s.privDone w t d (BitVec.ofNat 32 n)) s

/-! ## Contexts (R262, R273, R288) -/

/-- VD and context of an operand a. -/
def ctxOperand (a : Word) : Nat × Nat := (a.toNat % 64, a.toNat / 256 % 16)

/-- The common form of CTXSAVE, CTXREST and CTXKILL: a VD outside the partition raises PROT; one launch that is not live gives BADID
(DEDUCED, log 36). -/
def ctxOp (i : Instr) (d a b : BitVec 6) (act : State → Wave → Nat → Nat → Nat → Word → State) (s : State) : Out :=
  privEach i (fun w th => [(1, (opd w th a).2), (2, (opd w th b).2)])
    (fun s w t =>
      let (v, c) := ctxOperand (opd w (w.th t) a).1
      let id := (opd w (w.th t) b).1
      if !s.reaches w v then s.privProt w t
      else if id ≠ 0xFFFFFFFF ∧ (s.named v c id).isEmpty then s.privDone w t d 0xFF
      else act s w t v c id) s

/-- A command of a context: the operand a names VD and context, b the launch. -/
def State.postCtx (s : State) (w : Wave) (i : Instr) (t : Nat) (op : CmdOp) (d a b : BitVec 6) : State :=
  let id := s.nextId
  let (v, c) := ctxOperand (opd w (w.th t) a).1
  (s.post w i t .oe op (opz w t a) (opz w t b) d.toNat true .queued).mapCmd id fun x => { x with vd := v, ctx := c }

/-- The blocks of the launches a command names. -/
def State.namedBlocks (s : State) (v c : Nat) (id : Word) : List Block :=
  s.blocks.filter fun b => (s.named v c id).any fun l => l.uid == b.launch

/-- CTXSAVE: save requests to every block on a core; blocks already saved wait for CTXREST too. Until it completes no block of a launch it names is placed
(DESIGN CHOICE, log 83). -/
def execCtxsave (d a b : BitVec 6) (s : State) : Out :=
  let i : Instr := .ctxsave d a b
  ctxOp i d a b (fun s w t v c id =>
    let s := (s.namedBlocks v c id).foldl (fun s b =>
      if b.onCore then s.askBlock b.id (s.preemptAt v) false
      else s.mapBlock b.id fun b => match b.st with | .saved => { b with st := .parked } | _ => b) s
    s.postCtx w i t .ctxsave d a b) s

/-- A block that CTXREST makes eligible: it awaits placement; what trapped in it resumes at the PC its image holds (R273). -/
def State.restBlock (s : State) (b : Block) : State :=
  let s := s.mapBlock b.id fun b => match b.st with | .parked => { b with st := .saved } | _ => b
  { s with waves := mapIf (fun w => w.block == b.id) (fun w =>
      match w.loc with
      | .saved _ => { w with trapsTaken := false, threads := w.threads.map fun th => match th.cond with | .trapped _ => { th with cond := .run } | _ => th }
      | _ => w) s.waves }

/-- CTXREST. -/
def execCtxrest (d a b : BitVec 6) (s : State) : Out :=
  ctxOp (.ctxrest d a b) d a b (fun s w t v c id =>
    let s := (s.namedBlocks v c id).foldl State.restBlock s
    (s.due (match s.partOf v with | some p => [evn .blockPlace p] | none => [])).privDone w t d 0) s

/-- CTXKILL: the launches end, and with every launch named the context's operators are freed, and its shadowed ranges once what may still use them is
done (R243, R288). -/
def execCtxkill (d a b : BitVec 6) (s : State) : Out :=
  let i : Instr := .ctxkill d a b
  ctxOp i d a b (fun s w t v c id =>
    let s := ((s.named v c id).filter fun l => !l.killed).foldl (fun s l => s.killLaunch l.uid) s
    let s := if id = 0xFFFFFFFF then s.freeOperators (fun o => o.vd == v && o.ctx == c) else s
    s.postCtx w i t .ctxkill d a b) s

/-- The shadowed ranges that a CTXKILL of every launch frees. -/
def State.killedRanges (s : State) (c : Cmd) : List Shadow :=
  if lowWord c.b = 0xFFFFFFFF then s.shadows.filter fun x => x.vd == c.vd && x.ctx == c.ctx else []

/-- A CTXKILL's ranges can be let go: as SHDW.FREE waits for earlier commands and then for draining accesses (R243). -/
def State.rangesFree (s : State) (c : Cmd) : Bool :=
  (s.killedRanges c).all fun x => if c.prog = 0 then s.turnCome { c with a := BitVec.ofNat 64 x.handle } x else s.drainedRange x c.deadline

/-- A context command has had its effect: every named block is saved, or every named launch has completed and its ranges can go. -/
def State.ctxDone (s : State) (c : Cmd) : Bool :=
  match c.op with
  | .ctxsave => !(s.namedBlocks c.vd c.ctx (lowWord c.b)).any Block.onCore
  | _ => (!(s.named c.vd c.ctx (lowWord c.b)).any (·.killed)) && s.rangesFree c

/-- The work of CTXKILL once its launches have completed: the context's ranges are unbound, whatever their generation (log 74). -/
def State.ctxkillRun (s : State) (c : Cmd) : State :=
  if !s.ctxDone c then s
  else if c.prog = 0 ∧ !(s.killedRanges c).isEmpty then (s.mapCmd c.id fun c => { c with prog := 1, deadline := s.nextId }).wakeCmd c.id
  else State.endHeld { s with shadows := s.shadows.filter fun x => !(s.killedRanges c).contains x } c 0

/-! ## PGSPLIT (R259) -/

/-- The entry of the n-th 64 KiB page of a large leaf: frame + 64 KiB × n, all else as the leaf has it. -/
def splitEntry (e : DWord) (n : Nat) : DWord := e + BitVec.ofNat 64 (n * 16 * 2 ^ 11)

/-- An entry that maps some of the 2 MiB around an address in a context. -/
def inSplit (v c : Nat) (va : DWord) (v' c' base size : Nat) : Bool := v' == v && c' == c && overlaps base size (va.toNat / 2 ^ 21 * 2 ^ 21) (2 ^ 21)

/-- The translations of a split page removed. -/
def State.splitRemove (s : State) (v c : Nat) (va : DWord) : State := { s with tlb := s.tlb.filter fun y => !inSplit v c va y.vd y.ctx y.base y.size }

/-- PGSPLIT: a large entry that stands on another package is replaced at its home, by a message (R290), and until that is performed walks find the old one. The table page has to be a 4 KiB page of the partition's memory here; a mapping that is not a 2 MiB page gives FIELD. -/
def execPgsplit (d a b : BitVec 6) (s : State) : Out :=
  let i : Instr := .pgsplit d a b
  privEach i (fun w th => [(0, (pairAt w th d).2), (1, (pairAt w th a).2), (2, (opd w th b).2)])
    (fun s w t =>
      let x := (opd w (w.th t) b).1.toNat
      let v := x % 64
      let c := x / 64 % 16
      let va := (pairAt w (w.th t) a).1
      let page := (pairAt w (w.th t) d).1.toNat
      let mine := decide (page < 2 ^ 52) && pkgOf page == s.fab.pkg && decide (page % 4096 = 0) && isMemory (localOf page) &&
        ((match w.level with | .m => true | _ => false) || s.ownerOf (localOf page) == s.partOfWave w)
      if !s.reaches w v then s.privProt w t
      else
        match s.walk 128 v c va true with
        | .leaf addr e size _ =>
          if size ≠ 2 ^ 21 ∨ !mine then s.privDone w t d 1
          else
            let s := (List.range 32).foldl (fun s n => s.homeWrite w.agentVd 0 (localOf page + 8 * n) (leBytes 8 (splitEntry e n).toNat)) s
            let new := 5 + page / 4096 * 2 ^ 11
            let id := s.nextId
            let s := s.post w i t .oe .pgsplit va (BitVec.ofNat 64 (v * 32 + c * 2048)) d.toNat true .queued
            let s := if pkgOf addr = s.fab.pkg then s.homeWrite w.agentVd 0 (localOf addr) (leBytes 8 new)
              else match s.cmd? id with | some x => s.engineSend x (s.engineAccess x (.engWrite id) va addr 0 8 new) | none => s
            s.splitRemove v c va
        | .fault .. => s.privDone w t d 1) s

/-! ## Waiting and stopping (R256) -/

/-- WFI: until the pending word of the bound queue is not zero. -/
def execWfi (s : State) : Out :=
  skipAhead .wfi (fun s w => if (s.queue w.queue).pend = 0 then s.blockAt w.id s.issue.mask s.issue.pc .wfi else s.advance w.id s.issue.mask) s

/-- SLEEP: the deepest state permitted, values above 3 read as 3. -/
def execSleep (a : BitVec 6) (s : State) : Out :=
  privEach (.sleep a) (fun w th => [(1, (opd w th a).2)])
    (fun s w t => State.advance { s with mgmt := { s.mgmt with maxps := min 3 ((opd w (w.th t) a).1.toNat % 8) } } w.id (1#32 <<< t)) s

/-- HALT: the hardware thread stops until its partition is reset. -/
def execHalt (s : State) : Out := skipAhead .halt (fun s w => (s.advance w.id s.issue.mask).mapWave w.id fun w => { w with halted := true }) s

/-! ## PARTCTL (R381) -/

/-- PARTCTL with M = 0. On a running partition a change while quads still leave replaces the set that leaves, and both commands end when that has left
(DESIGN CHOICE, log 83). -/
def execPartctlAssign (d a b : BitVec 6) (s : State) : Out :=
  let i : Instr := .partctlAssign d a b
  privEach i (fun w th => [(1, (opd w th a).2), (2, (pairAt w th b).2)])
    (fun s w t =>
      let p := (opd w (w.th t) a).1.toNat % 8
      let at_ := (pairAt w (w.th t) b).1.toNat
      let x := PartDesc.ofBytes (s.mem.bytes at_ 64)
      let readable := decide (at_ + 64 ≤ 2 ^ 45) && isMemory at_ && isMemory (at_ + 63)
      match (s.part p).desc with
      | none => if readable ∧ s.descValid p x then (s.privDone w t d 0).boot p x else s.privDone w t d 1
      | some old =>
        if !readable ∨ (s.part p).pstate ≠ 1 ∨ x.raw.drop 4 ≠ old.raw.drop 4 ∨ !s.descValid p x then s.privDone w t d 1
        else (s.post w i t .oe (.partctl 0) (BitVec.ofNat 64 p) 0 d.toNat true .waiting).changeQuads p old x.quads) s

/-- PARTCTL with M = 1 or 2: an unassigned partition gives FIELD. -/
def partctlStop (i : Instr) (op : Nat) (d a : BitVec 6) (s : State) : Out :=
  privEach i (fun w th => [(1, (opd w th a).2)])
    (fun s w t =>
      let p := (opd w (w.th t) a).1.toNat % 8
      if (s.part p).desc.isNone then s.privDone w t d 1
      else (s.post w i t .oe (.partctl op) (BitVec.ofNat 64 p) 0 d.toNat true .queued).beginStop p) s

def execPartctlReset (d a b : BitVec 6) (s : State) : Out := partctlStop (.partctlReset d a b) 1 d a s
def execPartctlStop (d a b : BitVec 6) (s : State) : Out := partctlStop (.partctlStop d a b) 2 d a s

/-! ## Completion -/

/-- A privileged command can complete now. -/
def State.privReady (s : State) (c : Cmd) : Bool :=
  let (vd, ctx) := tlbOperand (lowWord c.b)
  match c.op with
  | .tlbinv kind => !s.tlbPending (tlbNames kind vd ctx c.a) c.id
  | .pgsplit => !s.cmdBusy c.id && (decide (c.prog = 0) || !s.tlbPending (inSplit vd ctx c.a) c.deadline)
  | .ctxsave | .ctxkill => s.ctxDone c
  | .keyrevoke => (s.worldLaunches c.a.toNat).isEmpty
  | .partctl 0 => s.quadsFree c.a.toNat
  | .partctl _ => !s.launches.any fun l => s.partOf l.vd == some c.a.toNat
  | _ => false

/-- The work of PGSPLIT once the large entry is replaced: what a walk has installed meanwhile goes too, and the thread waits for what uses it (R258, R259). -/
def State.pgsplitRun (s : State) (c : Cmd) : State :=
  let (vd, ctx) := tlbOperand (lowWord c.b)
  if !s.privReady c then s
  else if c.prog = 0 then ((s.splitRemove vd ctx c.a).mapCmd c.id fun c => { c with prog := 1, deadline := s.nextId }).wakeCmd c.id
  else s.endHeld c (BitVec.ofNat 32 (c.status % 256))

/-- What an instruction at .pod of another package removes here (R258, R259, R328): kind 0 to 2 of TLBINV, 3 TFENCE, 4 PGSPLIT. -/
def State.podRemove (s : State) (kind vd ctx : Nat) (va : DWord) : State :=
  match kind with
  | 3 => s.fenceWalks
  | 4 => s.splitRemove vd ctx va
  | k => s.tlbRemove k vd ctx va

/-- PRIVILEGED_COMPLETION (R256; n: command). With `ok` it is the part here of another package's TLBINV, TFENCE or PGSPLIT (kind, n: VD, m: context, val:
address), which no message format of R357 names (log 54). -/
def execPrivilegedCompletion (s : State) : Out :=
  if s.ev.ok then .next (s.podRemove s.ev.kind s.ev.n s.ev.m (BitVec.ofNat 64 s.ev.val)) else
  match s.cmd? s.ev.n with
  | none => .next s
  | some c =>
    match c.op with
    | .errpop => .next (s.errpopRun c)
    | .keyload => .next (s.keyloadRun c)
    | .keyrevoke => .next (s.keyrevokeRun c)
    | .partctl 0 => .next s
    | .partctl op => .next (s.stopRun c op)
    | .ctxkill => .next (s.ctxkillRun c)
    | .pgsplit => .next (s.pgsplitRun c)
    | _ => .next (if s.privReady c then s.endHeld c (BitVec.ofNat 32 (c.status % 256)) else s)

end Sys2Proof.Machine
end

