-- ==== Sys2Proof/Machine/Registers.lean ====
section
/-!
DEFINITION. The home of an access (R290): memory, root ports (R171, R404), and the registers of the device range: VD control blocks (R40,
R342, R398), partition control blocks (R383), service queues (R386, R387), management registers (R411, R412).
-/

namespace Sys2Proof.Machine

/-! ## Reads (R40, R342, R383, R386, R398, R411) -/

def loWord (x : DWord) : Word := lowWord x
def bitWord (b : Bool) (n : Nat) : Word := if b then 1#32 <<< n else 0

/-- Clusters a VD owns, and of them those that hold blocks of other VDs (R346). -/
def State.owned (s : State) (v : Nat) : List Nat := (List.range 128).filter fun cl => (s.cluster cl).owner == some v
def State.lent (s : State) (v : Nat) : List Nat := (s.owned v).filter fun cl => !(s.borrowers cl).isEmpty

/-- A word of a VD's control block. -/
def State.vdRead (s : State) (v off : Nat) : Word :=
  let d := s.vd v
  if 0x200 ≤ off ∧ off < 0x2C0 then
    let r := d.rates[(off - 0x200) / 0x20]?.getD Rate.reset
    match off % 0x20 with
    | 0x00 => r.rate | 0x04 => r.depth | 0x08 => r.weight | 0x10 => lowWord r.g1 | 0x14 => r.l1 | 0x18 => lowWord r.g2 | 0x1C => r.l2 | _ => 0
  else
    match off with
    | 0x000 => d.ctl.preemptto | 0x004 => d.ctl.jointo | 0x008 => d.ctl.barto | 0x00C => d.ctl.waitto | 0x010 => d.ctl.optrap
    | 0x014 => d.ctl.lattol | 0x018 => d.ctl.tqhead | 0x01C => d.ctl.tqtail
    | 0x100 => d.err.uesta | 0x104 => d.err.uemsk | 0x108 => d.err.uesev | 0x10C => d.err.cesta | 0x110 => d.err.cemsk | 0x114 => d.err.errcap
    | 0x118 => d.err.hdrlog.extractLsb' 0 32 | 0x11C => d.err.hdrlog.extractLsb' 32 32 | 0x120 => d.err.hdrlog.extractLsb' 64 32
    | 0x124 => d.err.hdrlog.extractLsb' 96 32 | 0x128 => BitVec.ofNat 32 d.err.ring.length
    | 0x2C0 => d.clguar | 0x2C4 => d.reclaimto | 0x2C8 => BitVec.ofNat 32 (s.owned v).length | 0x2CC => BitVec.ofNat 32 (s.lent v).length
    | _ => 0

/-- A word of a partition's control block; VTREF is write-only, and what a read of it gives is free (log 22). -/
def State.partRead (s : State) (p off : Nat) : Word :=
  let x := s.part p
  match off with
  | 0x000 => BitVec.ofNat 32 x.pstate
  | 0x004 => (Config.freeDevice s.freeCtr).truncate 32
  | 0x008 => lowWord x.vdtab | 0x00C => highWord x.vdtab | 0x010 => lowWord x.fring | 0x014 => highWord x.fring | 0x018 => x.fringctl
  | 0x01C => x.netctx | 0x020 => x.storctx | 0x024 => lowWord x.vduse | 0x028 => highWord x.vduse
  | _ => 0

/-- MSTAT and PODCFG (R411). -/
def State.mstat (s : State) : Word :=
  BitVec.ofNat 32 (s.plat.pscur * 256) ||| bitWord s.mgmt.rfmlock 2 ||| bitWord s.mgmt.keyrdy 1 ||| bitWord s.fab.locked 0
def State.podcfg (s : State) : Word := if s.fab.podcfg then BitVec.ofNat 32 (s.fab.nlog * 256 + s.fab.pkg) else 0

/-- The half of a 64-bit register at an offset: its low word at offset 0 of it, its high word at 4. -/
def half (x : DWord) (off : Nat) : Word := if off % 8 = 0 then lowWord x else highWord x

/-- A word of the management registers; KCMD is write-only. -/
def State.mgmtRead (s : State) (off : Nat) : Word :=
  let m := s.mgmt
  if 0x020 ≤ off ∧ off < 0x040 then m.ptol[(off - 0x020) / 4]?.getD 0
  else if 0x100 ≤ off ∧ off < 0x500 then
    let (b, l) := m.rfm[(off - 0x100) / 16]?.getD (0, 0)
    half (if off % 16 < 8 then b else l) off
  else if 0x800 ≤ off ∧ off < 0xA00 then
    let v := s.ventv ((off - 0x800) / 32)
    half (match off % 32 / 8 with | 0 => v.svec | 1 => v.mvec | 2 => v.sframe | _ => v.mframe) off
  else if 0xC00 ≤ off ∧ off < 0x1000 then
    let d := s.vd ((off - 0xC00) / 16)
    half (if off % 16 < 8 then d.episodes else d.prefetches) off
  else
    match off with
    | 0x000 => 0x08800101 | 0x004 => s.mstat | 0x008 => s.podcfg | 0x00C => BitVec.ofNat 32 m.maxps
    | 0x010 => lowWord m.wakeat | 0x014 => highWord m.wakeat | 0x040 => bitWord m.rfmlock 0
    | 0xA00 => lowWord m.ksrc | 0xA04 => highWord m.ksrc | 0xA08 => lowWord m.kdst | 0xA0C => highWord m.kdst
    | 0xA10 => (Config.freeDevice s.freeCtr).truncate 32 | 0xA14 => BitVec.ofNat 32 m.kstat
    | 0xB00 => lowWord m.mlogbase | 0xB04 => highWord m.mlogbase | 0xB08 => m.mlogsize | 0xB0C => m.mloghead | 0xB10 => m.mlogtail
    | _ => 0

/-- A register read that has no effect of its own: its word; none where the read acts (R342, R387) or its data are free (R402). -/
def State.regRead (s : State) (a : Nat) : Option Word :=
  match regAt a with
  | .mgmt o => some (s.mgmtRead o)
  | .queue q 0 => some (s.queue q).pend
  | .queue q 12 => some (s.queue q).own
  | .queue _ 8 => some ((Config.freeDevice s.freeCtr).truncate 32)
  | .queue _ _ => none
  | .part p o => some (s.partRead p o)
  | .vd v o => if 0x200 ≤ o ∧ o < 0x2C0 ∧ (o % 0x20 = 0x10 ∨ o % 0x20 = 0x18) then none else some (s.vdRead v o)
  | .config _ | .none => none

/-! ## Writes -/

/-- The least tolerance of R407 in microseconds: LATTOL of VDs in use and PTOL of assigned partitions; 0 where there are none (R407's last sentence). -/
def State.tolerance (s : State) : Nat :=
  let vds := (List.range 64).filterMap fun v =>
    match s.partOf v with | some p => if (s.part p).vduse.getLsbD v then some (s.vd v).ctl.lattol.toNat else none | none => none
  let parts := (List.range 8).filterMap fun p => if (s.part p).desc.isSome then some (s.mgmt.ptol[p]?.getD 0).toNat else none
  if (vds ++ parts).isEmpty then 0 else (vds ++ parts).foldl min (2 ^ 32)

/-- Exit latencies in microseconds (R406). -/
def psLatency : Nat → Nat | 0 => 0 | 1 => 1 | 2 => 50 | _ => 5000

/-- A tolerance below the exit latency of the state starts an exit (R43). -/
def State.tolerated (s : State) : State :=
  if s.plat.pscur ≠ 0 ∧ s.tolerance < psLatency s.plat.pscur then s.due [{ row := .powerStateExit, wake := .tolerance }] else s

def setHalf (x : DWord) (off : Nat) (w : Word) : DWord := if off % 8 = 0 then pairValue w (highWord x) else pairValue (lowWord x) w

/-- A write to a VD's control block at a register with no behaviour of its own (R40, R42, R342, R346, R398). -/
def State.vdWrite (s : State) (v off : Nat) (x : Word) : State :=
  let ctl (f : VdCtl → VdCtl) : State := s.mapVd v fun d => { d with ctl := f d.ctl }
  let err (f : VdErr → VdErr) : State := s.mapVd v fun d => { d with err := f d.err }
  let short : Word := if x &&& 0xFFFF = 0 then 1 else x &&& 0xFFFF
  if 0x200 ≤ off ∧ off < 0x2C0 ∧ off % 0x20 = 8 then s.mapRate v ((off - 0x200) / 0x20) fun r => { r with weight := x &&& 0xFF }
  else
    match off with
    | 0x000 => ctl fun c => { c with preemptto := short }
    | 0x004 => ctl fun c => { c with jointo := x }
    | 0x008 => ctl fun c => { c with barto := x }
    | 0x00C => ctl fun c => { c with waitto := x }
    | 0x010 => ctl fun c => { c with optrap := x &&& 1 }
    | 0x104 => err fun e => { e with uemsk := x &&& 0x7FFF }
    | 0x108 => err fun e => { e with uesev := x &&& 0x7FFF }
    | 0x10C => err fun e => { e with cesta := e.cesta &&& ~~~x }
    | 0x110 => err fun e => { e with cemsk := x &&& 0xF }
    | 0x2C4 => s.mapVd v fun d => { d with reclaimto := short }
    | _ => s

/-- A write to a partition's control block (R383). -/
def State.partWrite (s : State) (p off : Nat) (x : Word) : State :=
  let vds : DWord := match (s.part p).desc with | some d => d.vds | none => 0
  match off with
  | 0x008 => s.mapPart p fun y => { y with vdtab := setHalf y.vdtab 0 (x &&& 0xFFFF0000) }
  | 0x00C => s.mapPart p fun y => { y with vdtab := setHalf y.vdtab 4 x }
  | 0x010 => s.mapPart p fun y => { y with fring := setHalf y.fring 0 (x &&& 0xFFFFFFC0) }
  | 0x014 => s.mapPart p fun y => { y with fring := setHalf y.fring 4 x }
  | 0x018 => (s.mapPart p fun y => { y with fringctl := x &&& 0xFFFFFF }).due ((s.nextFault p).toList.map fun f => evn .faultRequestPost f.seq)
  | 0x01C => s.mapPart p fun y => { y with netctx := x &&& 0xF3F }
  | 0x020 => s.mapPart p fun y => { y with storctx := x &&& 0xF3F }
  | 0x024 => (s.mapPart p fun y => { y with vduse := setHalf y.vduse 0 x &&& vds }).tolerated
  | 0x028 => (s.mapPart p fun y => { y with vduse := setHalf y.vduse 4 x &&& vds }).tolerated
  | _ => s

/-- A write to the management registers (R411). -/
def State.mgmtWrite (s : State) (off : Nat) (x : Word) : State :=
  let set (f : Mgmt → Mgmt) : State := { s with mgmt := f s.mgmt }
  if 0x020 ≤ off ∧ off < 0x040 then (set fun m => { m with ptol := m.ptol.setIfInBounds ((off - 0x020) / 4) x }).tolerated
  else if 0x100 ≤ off ∧ off < 0x500 then
    if s.mgmt.rfmlock then s
    else
      let n := (off - 0x100) / 16
      let y : Word := if off % 8 = 0 then x &&& 0xFFFF0000 else x
      let (b, l) := s.mgmt.rfm[n]?.getD (0, 0)
      set fun m => { m with rfm := m.rfm.setIfInBounds n (if off % 16 < 8 then (setHalf b off y, l) else (b, setHalf l off y)) }
  else if 0x800 ≤ off ∧ off < 0xA00 then
    let n := (off - 0x800) / 32
    let v := s.ventv n
    let v := match off % 32 / 8 with
      | 0 => { v with svec := setHalf v.svec off x } | 1 => { v with mvec := setHalf v.mvec off x }
      | 2 => { v with sframe := setHalf v.sframe off x } | _ => { v with mframe := setHalf v.mframe off x }
    set fun m => { m with ventv := m.ventv.setIfInBounds n v }
  else
    match off with
    | 0x00C => set fun m => { m with maxps := min 3 (x.toNat % 8) }
    | 0x010 | 0x014 => set fun m => { m with wakeat := setHalf m.wakeat off x }
    | 0xA00 | 0xA04 => set fun m => { m with ksrc := setHalf m.ksrc off x }
    | 0xA08 | 0xA0C => set fun m => { m with kdst := setHalf m.kdst off x }
    | 0xB00 => set fun m => { m with mlogbase := setHalf m.mlogbase 0 (x &&& 0xFFFFFFC0) }
    | 0xB04 => set fun m => { m with mlogbase := setHalf m.mlogbase 4 x }
    | 0xB08 => set fun m => { m with mlogsize := x &&& 0xFFFF }
    | 0xB10 => set fun m => { m with mlogtail := x }
    | _ => s

/-- A write to a register with no behaviour of its own; reserved and read-only words ignore it. -/
def State.regWrite (s : State) (a : Nat) (x : Word) : State :=
  match regAt a with
  | .mgmt o => s.mgmtWrite o x
  | .queue q 12 => s.mapQueue q fun y => { y with own := x &&& 0x187 }
  | .part p o => s.partWrite p o x
  | .vd v o => s.vdWrite v o x
  | _ => s

/-- REGISTER_WRITE (R40; n: address, val). -/
def execRegisterWrite (s : State) : Out := .next (s.regWrite s.ev.n (BitVec.ofNat 32 s.ev.val))

/-- LATTOL_WRITE (R43; n: VD, val). -/
def execLattolWrite (s : State) : Out :=
  .next (s.mapVd s.ev.n fun d => { d with ctl := { d.ctl with lattol := BitVec.ofNat 32 s.ev.val } }).tolerated

/-- VTREF_WRITE (R385; n: partition, m: VD): the entry is read afresh, and no older copy is left; where its TRAPQ or TRAPCTL differs from the copy's, or
there is no copy and so no record has been appended, TQHEAD and TQTAIL return to 0 (R271). -/
def execVtrefWrite (s : State) : Out :=
  let p := s.ev.n
  let v := s.ev.m % 64
  if s.partOf v ≠ some p then .next s
  else
    let new := (s.entryAt v).map fun a => s.mem.bytes a 1024
    let moved := match (s.vd v).entry, new with
      | some a, some b => (a.drop 0x90).take 12 != (b.drop 0x90).take 12
      | _, _ => true
    .next ((s.mapVd v fun d => { d with
      entry := new, ctl := if moved then { d.ctl with tqhead := 0, tqtail := 0 } else d.ctl }).callRoom v)

/-- QPEND_WRITE (R386; n: queue, val): each bit written 1 is cleared. -/
def execQpendWrite (s : State) : Out := .next (s.mapQueue s.ev.n fun q => { q with pend := q.pend &&& ~~~(BitVec.ofNat 32 s.ev.val) })

/-- The rings of a queue that hold an unserved record: VD, ring, slot and order of the oldest. -/
def State.unserved (s : State) (q : Nat) : List (Nat × Nat × Nat × Nat) :=
  (List.range 64).flatMap fun v => (List.range 8).filterMap fun r =>
    match ((s.vd v).ring r).unserved, s.callRing v r with
    | (slot, no) :: _, some (_, _, q') => if q' = q then some (v, r, slot, no) else none
    | _, _ => none

/-- The record that QNEXT chooses on a Vent processor, among those of its partition's VDs (R379), with tier 2's pointer where it moved (R340, R344, R387). -/
def State.nextRing (s : State) (proc q : Nat) : Option (HeldRec × Option (Nat × Nat)) :=
  let l := (s.unserved q).filter fun x => s.partOf x.1 == s.partOfProc proc
  let first (v : Nat) (t1 : Bool) : Option HeldRec := (l.find? fun x => x.1 == v).map fun x => ⟨x.1, x.2.1, x.2.2.1, x.2.2.2, t1⟩
  match leastBy (fun (x : Nat × Nat × Nat × Nat) => x.2.2.2 * 64 + x.1) (l.filter fun x => decide (1024 ≤ s.level 5 proc x.1)) with
  | some x => (first x.1 true).map fun y => (y, none)
  | none =>
    match s.tier2 (5, 64 + proc) (l.map (·.1)) with
    | some (v, left) => (first v false).map fun y => (y, some (v, left))
    | none => none

/-- A value handed to the access that reads a register. -/
def State.giveReg (s : State) (acc : Nat) (x : Word) : State :=
  match s.acc? acc with
  | some a => (s.mapAcc acc fun a => { a with data := BitVec.ofNat 512 (x.toNat * 2 ^ (8 * (a.pa % 64))), stage := .performed, nokeep := true }).due
      [evn .loadDataArrival a.id]
  | none => s

/-- QNEXT_READ (R387; n: queue, m: wave, k: the access that reads it). -/
def execQnextRead (s : State) : Out :=
  match s.wave? s.ev.m with
  | none => .next (s.giveReg s.ev.k 0)
  | some w =>
    match w.loc, w.held with
    | .vent proc _, none =>
      (match s.nextRing proc s.ev.n with
       | none => .next (s.giveReg s.ev.k 0)
       | some (r, ptr) =>
         let s := s.mapVd r.vd fun d => d.mapRing r.ring fun x => { x with unserved := x.unserved.drop 1, held := x.held ++ [r.slot] }
         let s := s.mapWave w.id fun w => { w with held := some r, serves := r.vd }
         .next ((s.movePtr (5, 64 + proc) ptr).giveReg s.ev.k (BitVec.ofNat 32 (2 ^ 31 + r.vd * 2 ^ 24 + r.ring * 2 ^ 20 + r.slot))))
    | _, _ => .next (s.giveReg s.ev.k 0)

/-- QDONE_WRITE (R387; n: queue, m: wave, val): the record the thread holds is done, and its slot free; any other is ignored. -/
def execQdoneWrite (s : State) : Out :=
  match s.wave? s.ev.m with
  | none => .next s
  | some w =>
    match w.held with
    | none => .next s
    | some r =>
      if s.ev.val / 2 ^ 24 % 64 ≠ r.vd ∨ s.ev.val / 2 ^ 20 % 8 ≠ r.ring ∨ s.ev.val % 4096 ≠ r.slot then .next s
      else
        let s := s.mapVd r.vd fun d => d.mapRing r.ring fun x => { x with held := x.held.filter (· != r.slot) }
        .next ((s.mapWave w.id fun w => { w with held := none, serves := w.vd }).callRoom r.vd)

/-- UESTA after bits are written 1 (R398): they clear, and the bit that FEP names rearms the first-error capture. -/
def VdErr.clearUesta (e : VdErr) (x : Word) : VdErr :=
  { e with
    uesta := e.uesta &&& ~~~x,
    errcap := if x.getLsbD (e.errcap.toNat % 32) then e.errcap &&& ~~~0x20#32 else e.errcap }

/-- UESTA_WRITE (R398; n: VD, val). -/
def execUestaWrite (s : State) : Out := .next (s.mapVd s.ev.n fun d => { d with err := d.err.clearUesta (BitVec.ofNat 32 s.ev.val) })

/-- G_COUNTER_READ (R342; n: VD, m: class, ok: the second counter, k: the access that reads it): the high word is latched. -/
def execGCounterRead (s : State) : Out :=
  let r := s.rate s.ev.n s.ev.m
  let s' := s.mapRate s.ev.n s.ev.m fun r => if s.ev.ok then { r with l2 := highWord r.g2 } else { r with l1 := highWord r.g1 }
  .next (s'.giveReg s.ev.k (lowWord (if s.ev.ok then r.g2 else r.g1)))

/-- CLGUAR_WRITE (R345, R346; n: VD, val): the largest value that fits is stored, and ownership assigned anew. -/
def execClguarWrite (s : State) : Out :=
  let v := s.ev.n
  match s.partOf v with
  | none => .next (s.mapVd v fun d => { d with clguar := 0 })
  | some p =>
    let count := match (s.part p).desc with | some d => (quadClusters d.quads).length | none => 0
    let others := (s.vdsOf p).foldl (fun n u => if u = v then n else n + (s.vd u).clguar.toNat % 256) 0
    let g := min (s.ev.val % 256) (count - others)
    .next (((s.mapVd v fun d => { d with clguar := BitVec.ofNat 32 g }).assignOwners p).due [evn .blockPlace p, evn .reclaimNotice v])

/-- RFMLOCK_WRITE (R411; val): write-one-to-set. -/
def execRfmlockWrite (s : State) : Out := .next { s with mgmt := { s.mgmt with rfmlock := s.mgmt.rfmlock || decide (s.ev.val % 2 = 1) } }

/-- KCMD_GO (R412; val): with GO set and the unit not busy, it starts. -/
def execKcmdGo (s : State) : Out :=
  if s.ev.val / 2 ^ 31 % 2 = 0 ∨ s.mgmt.kstat = 1 then .next s
  else .next (State.due { s with mgmt := { s.mgmt with kstat := 1, kbind := s.ev.val % 64 } } [evn .keyUnitDone 0])

/-- Bytes in the package's HBM4E or LPDDR-6. -/
def inMemory (a n : Nat) : Bool := isMemory a && isMemory (a + n - 1)

/-- KEY_UNIT_DONE (R412, R389): the plaintext keys are read and zeroed, and the blob written. -/
def execKeyUnitDone (s : State) : Out :=
  if s.mgmt.kstat ≠ 1 then .next s
  else
    let src := s.mgmt.ksrc.toNat
    let dst := s.mgmt.kdst.toNat
    if !inMemory src 32 ∨ !inMemory dst 64 then .next { s with mgmt := { s.mgmt with kstat := 3 } }
    else
      let keys := s.mem.bytes src 32
      let blob := leBytes 2 1 ++ zeros 2 ++ leBytes 4 s.mgmt.kbind ++ keyWrap Config.wrappingKey keys ++ zeros 16
      let s := (s.homeWrite noVd 0 src (zeros 32)).homeWrite noVd 0 dst blob
      .next { s with mgmt := { s.mgmt with kstat := 2 } }

/-! ## An access at its home (R290) -/

/-- The event of a register write. -/
def regEvent (a wave x : Nat) : Event :=
  match regAt a with
  | .vd v 0x014 => { row := .lattolWrite, n := v, val := x }
  | .vd v 0x01C => { row := .tqtailWrite, n := v, val := x }
  | .vd v 0x100 => { row := .uestaWrite, n := v, val := x }
  | .vd v 0x2C0 => { row := .clguarWrite, n := v, val := x }
  | .part p 0x004 => { row := .vtrefWrite, n := p, m := x % 64 }
  | .queue q 0 => { row := .qpendWrite, n := q, val := x }
  | .queue q 8 => { row := .qdoneWrite, n := q, m := wave, val := x }
  | .mgmt 0x040 => { row := .rfmlockWrite, val := x }
  | .mgmt 0xA10 => { row := .kcmdGo, val := x }
  | _ => { row := .registerWrite, n := a, val := x }

/-- A register read that acts. -/
def readEvent (a wave acc : Nat) : Option Event :=
  match regAt a with
  | .queue q 4 => some { row := .qnextRead, n := q, m := wave, k := acc }
  | .vd v o => if 0x200 ≤ o ∧ o < 0x2C0 then some { row := .gCounterRead, n := v, m := (o - 0x200) / 0x20, ok := o % 0x20 == 0x18, k := acc } else none
  | _ => none

/-- An access to a register: a write is followed by its acknowledgement; a read without an effect has its word, or in a port's
configuration space free data (log 22). -/
def State.performDevice (s : State) (a : Access) : State :=
  let la := localOf a.pa
  if a.kind.kind.isWrite then
    let x := a.data.toNat % 2 ^ 32
    let s := s.mapAcc a.id fun a => { a with stage := .performed }
    s.due [regEvent la a.wave x, evn .storeAck a.id]
  else
    match s.regRead la with
    | some x => State.giveReg { s with freeCtr := s.freeCtr + 1 } a.id x
    | none =>
      match readEvent la a.wave a.id with
      | some e => s.due [e]
      | none =>
        (State.mapAcc { s with freeCtr := s.freeCtr + 4 } a.id fun a => { a with data := portLine s.freeCtr, stage := .performed, nokeep := true }).due
          [evn .loadDataArrival a.id]

/-- An access to a root port's memory space (R171, R404): a store is posted as one write request; a load's data are free (log 22). While
the link is down both fail. -/
def State.performPort (s : State) (a : Access) (n : Nat) : State :=
  if !s.plat.up.getLsbD n then s.failAcc a.id .absent (0x80000000 + n)
  else if a.kind.kind.isWrite then
    let s := { s with plat := { s.plat with portOut := s.plat.portOut ++ [(n, 1, localOf a.pa, (leBytes 64 a.data.toNat).take a.size)] } }
    (s.mapAcc a.id fun a => { a with stage := .performed }).due [evn .storeAck a.id]
  else
    let s := { s with plat := { s.plat with portOut := s.plat.portOut ++ [(n, 0, localOf a.pa, [])] }, freeCtr := s.freeCtr + 4 }
    (s.mapAcc a.id fun a => { a with data := portLine (s.freeCtr - 4), stage := .performed, nokeep := true }).due [evn .loadDataArrival a.id]

/-- Later accesses of the same wave that had to follow an access are performed once it is (R158, R169, R171). -/
def State.wakeBehind (s : State) (a : Access) : State :=
  s.due ((s.accs.filter fun b => decide (a.id < b.id) && b.wave == a.wave && (match b.stage with | .issued => true | _ => false) &&
    (match regionOf (localOf a.pa), regionOf (localOf b.pa) with
     | .port n, .port m => n == m
     | _, _ => decide (b.pa < a.pa + a.size) && decide (a.pa < b.pa + b.size))).map fun b => evn .homeAccess b.id)

/-- An access of memory whose line is not at hand has to wait at the memory controller (R340): which one. -/
def State.accWaits (s : State) (a : Access) : Option (Nat × Nat) :=
  if decide (512 ≤ a.core) && decide (a.core < 1024) && a.isLoad && s.sysCache.contains (localOf a.pa / 64) then none else s.mustWait a.vd (localOf a.pa / 64)

/-- HOME_ACCESS (R290; n: access): an access is performed where its address is homed, behind earlier ones of its thread that it must follow
(R169, R171), and after the grant of the memory controller where its slice does not hold the line (R339, R340); one held back for another package leaves
once it may (R298). -/
def execHomeAccess (s : State) : Out :=
  match s.acc? s.ev.n with
  | none => .next s
  | some a =>
    match a.stage with
    | .issued =>
      if s.orderedBehind a then .next s
      else
        match regionOf (localOf a.pa) with
        | .hbm | .relay | .lpddr =>
          (match s.accWaits a with
           | some k => .next (s.waitMemory k a.vd (localOf a.pa / 64) (evn .homeAccess a.id))
           | none => .next ((s.performLocal a).wakeBehind a))
        | .port n => .next ((s.performPort a n).wakeBehind a)
        | .device => .next ((s.performDevice a).wakeBehind a)
        | .unassigned => .next ((s.failAcc a.id .prot 0).wakeBehind a)
    | .held => .next (s.depart [a.id])
    | _ => .next s

/-- BUCKET_REFILL (R340; n: class): the levels of a class rise by their rates for the time that has passed, up to their depths. -/
def execBucketRefill (s : State) : Out := .next (s.refillNow s.ev.n)

end Sys2Proof.Machine
end

