-- ==== Sys2Proof/Machine/Fabric.lean ====
section
/-!
DEFINITION. The Phitha fabric as a package sees it: the calendar and its lock (R353, R354, R410), flits (R355, R356), delivery (R362 to R365),
remote requests and replies (R366, R367), relays (R359, R360), absence and return (R372, R373), and wavelengths (R374). The codes that R357
leaves open are the model's (log 17).
-/

namespace Sys2Proof.Machine

/-! ## Flits that arrive (R352, R355, R356) -/

/-- A receiver keeps a flit: its CRC passes, no field is reserved, and it is for this package or on its first hop. -/
def State.flitOk (s : State) (bs : List Byte) : Bool :=
  let h := field bs 0 8
  decide (crcOf (bs.take 120) = BitVec.ofNat 64 (field bs 120 8)) && decide (flitField h 48 2 < 3) && decide (flitField h 42 2 < 3) &&
    decide (flitField h 44 4 < 15) && (decide (flitField h 50 7 = s.fab.pkg) || decide (flitField h 42 2 = 1))

/-- The next SEQ value expected of a source and class. -/
def Fabric.expected (f : Fabric) (k : BitVec 7 × Nat) : Nat := match f.expect.find? fun x => x.1 == k with | some x => x.2 | none => 0

/-- A SEQ value has been delivered. -/
def Fabric.delivered (f : Fabric) (k : BitVec 7 × Nat) (n : Nat) : Bool :=
  decide (2 ^ 23 ≤ (n + 2 ^ 24 - f.expected k) % 2 ^ 24) || (k.2 == 2 && f.seen.contains (k.1, n))

/-- The part of a header that the flits of one message share: all of it but FIDX, with the hop and the VD. -/
def flitKey (bs : List Byte) : Nat := let h := field bs 0 8; h / 2 ^ 11 * 2 ^ 6 + h % 2 ^ 6

/-- The payload of the flits of a message from one on, as far as they follow one another. -/
def joinFlits (l : List (List Byte)) : Nat → Nat → List Byte
  | 0, _ => []
  | n + 1, i => match l.find? fun bs => flitField (field bs 0 8) 6 5 == i with | some bs => (bs.drop 8).take 112 ++ joinFlits l n (i + 1) | none => []

/-- The flits of a window that has ended are put together by their headers (R352, R355), and the messages arrive. -/
def State.reassemble (s : State) : State :=
  let keys := (s.fab.flits.map flitKey).eraseDups
  State.due { s with fab := { s.fab with flits := [] } } (keys.filterMap fun k =>
    let l := s.fab.flits.filter fun bs => flitKey bs == k
    match joinFlits l 32 0 with
    | [] => none
    | pay => (msgOf (field (l.headD []) 0 8) pay).event)

/-- DISCARDED_FLIT (R356, R365; val: the flit's bytes as a number): a flit for this package that is not kept is asked for again, as its header names it. One
that a receiver keeps waits for the rest of its window (log 79). -/
def execDiscardedFlit (s : State) : Out :=
  let bs := leBytes 128 s.ev.val
  let h := field bs 0 8
  let k := (BitVec.ofNat 7 (flitField h 57 7), flitField h 48 2)
  let n := flitField h 11 24
  if s.flitOk bs then .next { s with fab := { s.fab with flits := s.fab.flits ++ [bs] } }
  else if flitField h 50 7 ≠ s.fab.pkg ∨ !s.peerUp k.1.toNat ∨ 2 < k.2 ∨ s.fab.delivered k n ∨ s.fab.retries.contains (k, n) then .next s
  else .next { s with fab := { s.fab with retries := s.fab.retries ++ [(k, n)] } }

/-! ## Messages on their way through (R357, R359, R360) -/

/-- A message of this package's own. -/
def State.post1 (s : State) (dst : BitVec 7) (cls kind vd : Nat) (pay : List Byte) : State :=
  s.send { src := s.me, dst := dst, cls := cls, kind := kind, hop := 0, via := 0, seq := 0, vd := vd, pay := pay }

/-- The message on its way through that an event names: SRC, DST and SEQ by its header, CLS by n. -/
def Fabric.passing (f : Fabric) (e : Event) : Option Relayed :=
  f.relayed.find? fun x => x.msg.src == e.hdr.src && x.msg.dst == e.hdr.dst && x.msg.seq == e.hdr.seq && x.msg.cls == e.n

/-- A message that arrives on its first hop is written to its source's part of the relay reserve until its second (R359, R360). Another copy of one that is
held there (R365) takes no room, and its flits are to give back. -/
def State.relayIn (s : State) (e : Event) : State :=
  let m := s.carried e
  if s.fab.relayed.any fun x => x.msg.twin m then { s with fab := s.fab.owe m.src m.flits }
  else
    let place := s.fab.relayPlace m.src m.flits
    let s := s.relayWrite m place
    let x : Relayed := ⟨m, s.fab.slotnow.toNat, decide (s.fab.slotAt + 5600 < s.cycle), place⟩
    State.due { s with fab := { s.fab with relayed := s.fab.relayed ++ [x] } } [{ evn .relayForward m.cls with hdr := e.hdr }]

/-- RELAY_FORWARD (R359; hdr and n: message held): the second hop waits for its window: in the slot of its arrival if that joins the destination
and the message came 0.4 µs before the window's end or earlier, else in the next slot that does. -/
def execRelayForward (s : State) : Out :=
  match s.fab.passing s.ev with
  | none => .next s
  | some x =>
    let q : Outgoing := ⟨{ x.msg with hop := 2 }, s.fab.nextJoined x.msg.dst.toNat (!(x.late && decide (x.slot = s.fab.slotnow.toNat))), true, false, s.cycle, 0⟩
    if s.fab.slotnow = BitVec.allOnes 64 ∨ s.fab.queue.any (fun y => y.relay && y.msg == q.msg) then .next s
    else .next { s with fab := { s.fab with queue := s.fab.queue ++ [q] } }

/-! ## Delivery (R362, R364, R367, R373) -/

/-- A delivered SEQ value is to be acknowledged. -/
def State.ackLater (s : State) (k : BitVec 7 × Nat) (n : Nat) : State := { s with fab := { s.fab with acks := s.fab.acks ++ [(k, n)] } }

/-- The next expected value set. -/
def Fabric.expectNext (f : Fabric) (k : BitVec 7 × Nat) (n : Nat) : Fabric := { f with expect := (k, n) :: f.expect.filter fun x => x.1 != k }

/-- The C2 values beyond the expected one that now follow it. -/
def Fabric.advance (f : Fabric) (k : BitVec 7 × Nat) : Nat → Fabric
  | 0 => f
  | m + 1 =>
    let n := f.expected k
    if f.seen.contains (k.1, n) then Fabric.advance ({ f with seen := f.seen.filter (· != (k.1, n)) }.expectNext k ((n + 1) % 2 ^ 24)) k m else f

/-- A message arrives: in PS3, with the optics stopped, none does (R406); on its first hop it is relayed; from a package that is not present it is discarded; C0 and C1 are delivered in order, C2 as
it comes, and each once. -/
def State.receive (s : State) (cls : Nat) (go : State → State) : State :=
  let e := s.ev
  let k := (e.hdr.src, cls)
  let n := e.hdr.seq.toNat
  let s := if s.plat.pscur = 1 ∨ s.plat.pscur = 2 then s.due [{ row := .powerStateExit, wake := .fabric }] else s
  if s.plat.pscur = 3 then s
  else if e.hdr.dst ≠ s.me then s.relayIn e
  else if !s.peerUp e.hdr.src.toNat then s
  else if s.fab.delivered k n then s.ackLater k n
  else if cls = 2 then
    go (State.ackLater { s with fab := { s.fab with seen := s.fab.seen ++ [(k.1, n)] }.advance k (s.fab.seen.length + 1) } k n)
  else if n ≠ s.fab.expected k then
    (if s.fab.held.any fun x => x.1 == cls && x.2.hdr.src == e.hdr.src && x.2.hdr.seq == e.hdr.seq then s
     else { s with fab := { s.fab with held := s.fab.held ++ [(cls, e)] } })
  else
    let next := (n + 1) % 2 ^ 24
    let s := go (State.ackLater { s with fab := s.fab.expectNext k next } k n)
    let hit (x : Nat × Event) : Bool := x.1 == cls && x.2.hdr.src == e.hdr.src && x.2.hdr.seq.toNat == next
    State.due { s with fab := { s.fab with held := s.fab.held.filter fun x => !hit x } } ((s.fab.held.filter hit).map fun (x : Nat × Event) => x.2)

/-! ## Requests at their home (R366, R367) -/

/-- What keeps a physical arrival out (R53, R54, R242): none where it goes on. -/
def State.arrivalCheck (s : State) (pa : Nat) : Option TrapClass :=
  match s.frameCheck pa with | some c => some c | none => if s.shadowFrame pa then some .prot else none

/-- The status of a DATA, AREPLY or WREPLY that tells a class of failure: 2 PROT, 6 KRF, 7 ABSENT (log 17). -/
def classStatus : TrapClass → Nat | .krf => 6 | .absent => 7 | _ => 2
def statusFail (n : Nat) : TrapClass := match n with | 6 => .krf | 7 => .absent | _ => .prot

/-- A WACK of a store that failed: status 2, with the code of its class where a reason stands (log 17). -/
def State.wackFail (s : State) (h : MsgHdr) (entry : Nat) (c : TrapClass) : State := s.wackMsg h entry 2 c.code

/-- The class that a failed WACK tells. -/
def wackClass (n : Nat) : TrapClass := match n with | 6 => .krf | 12 => .absent | _ => .prot

/-- READ. A PREF that meets an operator window has no effect there (R171). -/
def State.homeRead (s : State) (e : Event) : State :=
  let h := e.hdr
  let bad (s : State) (st : Nat) : State := s.dataMsg h e.entry st 0 (BitVec.allOnes 16)
  match s.arrivalCheck e.val with
  | some c => bad s (classStatus c)
  | none =>
    match s.windowAt e.val with
    | some (n, out, off) =>
      (match s.ops[n]? with
       | none => s
       | some o =>
         if e.kind % 16 = 3 then s.dataMsg h e.entry 8 0 0 else
         match s.owLoad o out off e.size h.src.toNat h.vd.toNat true with
         | .refused r => bad s (1 + 16 * r)
         | .ready j r => let (line, psn) := (o.outSlot j).line (r / 64); (s.owSeen o j (r / 64)).dataMsg h e.entry 8 line psn
         | .unready j true => { s with fab := { s.fab with unready := s.fab.unready ++ [⟨o.uid, j, h, e.entry, e.val, e.size, s.limitAt o.d⟩] } }
         | .unready _ false => bad s 4)
    | none =>
      let la := localOf e.val
      match regionOf la with
      | .port n =>
        if !s.plat.up.getLsbD n then bad s 7
        else
          let s := { s with plat := { s.plat with portOut := s.plat.portOut ++ [(n, 0, la, [])] }, freeCtr := s.freeCtr + 4 }
          s.dataMsg h e.entry 0 (portLine (s.freeCtr - 4)) 0
      | _ =>
        let s := s.sliceRead h.vd.toNat 0 (la / 64) false (decide (16 ≤ e.kind))
        let line := BitVec.ofNat 512 (leVal (s.lineBytes 0 (la / 64)))
        let marks := s.marksOf la
        let span := (List.range 16).foldl (fun (m : BitVec 16) i => if la % 64 < 4 * i + 4 ∧ 4 * i < la % 64 + e.size then m ||| (1#16 <<< i) else m) 0
        let s := if marks &&& span ≠ 0 then s.eccReport h.vd.toNat 0 e.val else s
        s.dataMsg h e.entry 0 line marks

/-- The bytes of a WRITE that its mask gives, up to the last of them. -/
def maskedBytes (data : BitVec 512) (mask : BitVec 64) (n : Nat) : List (Option Byte) :=
  let n := ((List.range (min n 64)).filter mask.getLsbD).getLast?.elim 0 (· + 1)
  (List.range n).map fun i => if mask.getLsbD i then some (BitVec.ofNat 8 (data.toNat / 2 ^ (8 * i))) else none

/-- The elements of a TSTE request, value and index, written one after another; the flags of each. -/
def State.homeElems (s : State) (vd la : Nat) (md : BitVec 2) (sat : Bool) (first : Bool) : List (Nat × Nat) → State × List Byte
  | [] => (s, [])
  | (x, i) :: l =>
    let (bytes, fl) := tsteBytes (leVal (s.lineBytes 0 (la / 64))) i (Mode.ofBits md) sat (BitVec.ofNat 32 x)
    let (s, rest) := (s.homeWriteMasked vd 0 (la / 64 * 64) first bytes).homeElems vd la md sat first l
    (s, BitVec.ofNat 8 fl.toNat :: rest)

/-- WRITE; the data of a TSTE hold its value, then its mode and saturation, then its element index, and further elements follow (log 17). -/
def State.homeWriteReq (s : State) (e : Event) : State :=
  let h := e.hdr
  match s.arrivalCheck e.val with
  | some c => s.wackFail h e.entry c
  | none =>
    let bs := maskedBytes e.data e.bmask e.size
    match s.windowAt e.val with
    | some (n, out, off) =>
      (match s.ops[n]? with
       | none => s
       | some o =>
         match s.iwStore o out off h.src.toNat h.vd.toNat e.tag (e.kind % 16 == 0) false bs with
         | (s, .refused r) => s.wackMsg h e.entry 1 r
         | (s, .accepted) => s.wackMsg h e.entry 0 0
         | (s, .completing j) => { s with fab := { s.fab with firing := s.fab.firing ++ [⟨o.uid, j, h, e.entry, e.val, e.size, 0⟩] } })
    | none =>
      let la := localOf e.val
      match regionOf la with
      | .port n =>
        if !s.plat.up.getLsbD n then s.wackFail h e.entry .absent
        else State.wackMsg { s with plat := { s.plat with portOut := s.plat.portOut ++ [(n, 1, la, (leBytes 64 e.data.toNat).take e.size)] } } h e.entry 0 0
      | _ =>
        let first := decide (16 ≤ e.kind)
        if e.kind % 16 = 0 then (s.homeWriteMasked h.vd.toNat 0 la first bs).wackMsg h e.entry 0 0
        else
          let md := e.data.toNat / 2 ^ 32
          let elems := (e.data.toNat % 2 ^ 32, e.data.toNat / 2 ^ 64 % 2 ^ 32) :: (e.items 8).map fun b => (field b 0 4, field b 4 4)
          let (s, fl) := s.homeElems h.vd.toNat la (BitVec.ofNat 2 md) (md / 4 % 2 == 1) first elems
          s.wackMsg h e.entry 0 (field fl 0 1) (fl.drop 1)

/-- The operation of an opcode (R177). -/
def AtOp.ofCode : Nat → AtOp
  | 0x90 => .add | 0x91 => .sub | 0x92 => .mins | 0x93 => .minz | 0x94 => .maxs | 0x95 => .maxz | 0x96 => .and | 0x97 => .or
  | 0x98 => .xor | 0x99 => .xch | 0x9A => .inc | 0x9B => .fadd | 0x9C => .fmin | 0x9D => .fmax | _ => .cas

/-- An AREPLY or a WREPLY: FPSTAT bits stand at 3 and poison at 4, and what the further accesses of the request receive behind the first; a WREPLY names
at 3 the thread whose watch it is (log 17). -/
def State.areplyMsg (s : State) (h : MsgHdr) (entry status fl psn old : Nat) (more : List Byte := []) : State :=
  s.post1 h.src 0 5 h.vd.toNat (leBytes 2 entry ++ leBytes 1 status ++ leBytes 1 fl ++ leBytes 2 psn ++ zeros 2 ++ leBytes 8 old ++ more)
def State.wreplyMsg (s : State) (h : MsgHdr) (entry status thread word : Nat) : State :=
  s.post1 h.src 0 7 h.vd.toNat (leBytes 2 entry ++ leBytes 1 status ++ leBytes 1 thread ++ zeros 4 ++ leBytes 4 word)

/-- The atomics of a request, each a local address, an operand and a second operand, performed one after another: old value, flags and poison of each. -/
def State.homeAtoms (s : State) (h : MsgHdr) (op : AtOp) (size : Nat) : List (Nat × Nat × Nat) → State × List (Nat × Nat × Nat)
  | [] => (s, [])
  | (la, d, x) :: l =>
    let s := s.sliceRead h.vd.toNat 0 (la / 64) false false
    let old := leVal (s.getBytes 0 la size)
    let (new, fl) := atomNew op size old (d % 2 ^ (8 * size)) (x % 2 ^ (8 * size))
    let marks := s.mem.poison la size
    let s := if marks ≠ 0 then s.eccReport h.vd.toNat 0 (s.podAddr la) else s
    let (s, rest) := (s.homeWrite h.vd.toNat 0 la (leBytes size new)).homeAtoms h op size l
    (s, (old, fl.toNat, marks.toNat) :: rest)

/-- ATOM. -/
def State.homeAtom (s : State) (e : Event) : State :=
  let h := e.hdr
  match s.arrivalCheck e.val with
  | some c => s.areplyMsg h e.entry (classStatus c) 0 0 0
  | none =>
    match s.windowAt e.val with
    | some (n, out, off) =>
      (match s.ops[n]? with
       | none => s
       | some o =>
         match s.iwStore o out off h.src.toNat h.vd.toNat e.tag false false [] with
         | (s, .refused r) => s.areplyMsg h e.entry (1 + 16 * r) 0 0 0
         | (s, _) => s)
    | none =>
      let la := localOf e.val
      match regionOf la with
      | .hbm | .lpddr =>
        let all := (la, e.data.toNat % 2 ^ 64, e.data.toNat / 2 ^ 64 % 2 ^ 64) ::
          (e.items 17).map fun b => (la / 64 * 64 + field b 0 1 % 64, field b 1 8, field b 9 8)
        let (s, l) := s.homeAtoms h (AtOp.ofCode e.kind) (if e.ok then 8 else 4) all
        let (old, fl, psn) := l.headD (0, 0, 0)
        s.areplyMsg h e.entry 0 fl psn old ((l.drop 1).flatMap fun (old, fl, psn) => leBytes 8 old ++ leBytes 1 fl ++ leBytes 1 psn)
      | _ => s.areplyMsg h e.entry 2 0 0 0

/-- One watch of a WATCH (R179): satisfied at once, or registered, with a place where one is free. -/
def State.homeWatch1 (s : State) (x : RemoteWatch) : State :=
  let x := { x with placed := s.watchRoom x.addr }
  match s.remoteSeen x with
  | some word => s.wreplyMsg x.hdr x.entry 0 x.nth word.toNat
  | none => { s with fab := { s.fab with watches := s.fab.watches ++ [x] } }

/-- WATCH: its watches in order. The first is that of the thread its writer tag names (log 17). -/
def State.homeWatch (s : State) (e : Event) : State :=
  let h := e.hdr
  let who := (e.tag.toNat % 32, e.val % 64, e.m) :: (e.items 6).map fun b => (field b 1 1, field b 0 1 % 64, field b 2 4)
  let all (s : State) (st : Nat) : State := who.foldl (fun s x => s.wreplyMsg h e.entry st x.1 0) s
  match s.arrivalCheck e.val with
  | some c => all s (classStatus c)
  | none =>
    match s.windowAt e.val with
    | some (n, out, off) =>
      (match s.ops[n]? with
       | none => s
       | some o => match s.owLoad o out off 4 h.src.toNat h.vd.toNat false with
         | .refused r => all s (1 + 16 * r)
         | _ => s)
    | none =>
      let la := localOf e.val
      match regionOf la with
      | .hbm | .lpddr =>
        let s := s.sliceRead h.vd.toNat 0 (la / 64) false false
        who.foldl (fun s (t, off, cmp) => s.homeWatch1 ⟨h, e.entry, la / 64 * 64 + off, e.n, BitVec.ofNat 32 cmp, false, t⟩) s
      | _ => all s 2

/-- READ, WRITE, ATOM, WATCH delivered (R366). -/
def execRead (s : State) : Out := .next (s.receive 1 fun s => s.homeRead s.ev)
def execWrite (s : State) : Out := .next (s.receive 1 fun s => s.homeWriteReq s.ev)
def execAtom (s : State) : Out := .next (s.receive 0 fun s => s.homeAtom s.ev)
def execWatch (s : State) : Out := .next (s.receive 0 fun s => s.homeWatch s.ev)

/-! ## Replies at the requester (R366) -/

/-- The accesses a reply is for: those of the request that holds the entry, at a home on the replying package (R165, R366). -/
def State.requested (s : State) (e : Event) : List Access :=
  s.accs.filter fun a => (match a.stage with | .remote n => n == e.entry | _ => false) && pkgOf a.pa == e.hdr.src.toNat

/-- A reply at each access of its request, with its place in it. -/
def State.replied (s : State) (f : State → Nat → Access → State) : State :=
  (s.requested s.ev).zipIdx.foldl (fun s (a, n) => f s n a) s

/-- The information of an ABSENT failure (R265, R404): the root port whose link is down, or the package. -/
def absentInfo (pa : Nat) : Nat := match regionOf (localOf pa) with | .port n => 0x80000000 + n | _ => pkgOf pa

/-- A failure of a class that a reply tells. -/
def State.failWith (s : State) (a : Access) (c : TrapClass) (reply : Instr) : State :=
  (s.mapAcc a.id fun a => { a with stage := .failed c (if c = .absent then absentInfo a.pa else 0) }).due [evn reply a.id]

/-- A failure that a reply tells by its status. -/
def State.replyFail (s : State) (a : Access) (status reason : Nat) (reply : Instr) : State :=
  match status with
  | 1 => s.refuse a reason reply
  | 3 => s.unreadyEnd a
  | 4 => (s.mapAcc a.id fun a => { a with stage := .failed .opunr 0 }).due [evn reply a.id]
  | n => s.failWith a (statusFail n) reply

/-- DATA: what an operator window gives is kept by no cache (R55). -/
def execData (s : State) : Out :=
  .next (s.receive 1 fun s =>
    let e := s.ev
    s.replied fun s _ a =>
      if e.status = 0 ∨ e.status = 8 then
        (s.mapAcc a.id fun a => { a with data := e.data, psn := e.psn, far := true, nokeep := a.nokeep || e.status == 8, stage := .performed }).due
          [evn .loadDataArrival a.id]
      else s.replyFail a (e.status % 16) (e.status / 16) .loadDataArrival)

/-- WACK: the flags of elements stand at 3, one after another (log 17). -/
def execWack (s : State) : Out :=
  .next (s.receive 1 fun s =>
    let e := s.ev
    s.replied fun s n a =>
      if e.status = 0 then
        (s.mapAcc a.id fun a => { a with stage := .performed, fp := BitVec.ofNat 5 (if n = 0 then e.n else field e.bytes (n - 1) 1) }).due [evn .storeAck a.id]
      else if e.status = 2 then s.failWith a (wackClass e.n) .storeAck
      else s.replyFail a e.status e.n .storeAck)

/-- AREPLY. -/
def execAreply (s : State) : Out :=
  .next (s.receive 0 fun s =>
    let e := s.ev
    s.replied fun s n a =>
      let reply : Instr := match a.kind with | .atomic .. => .atomicReply | _ => .storeAck
      let o := 10 * (n - 1)
      let (old, fl, psn) := if n = 0 then (e.val, e.n, e.psn.toNat) else (field e.bytes o 8, field e.bytes (o + 8) 1, field e.bytes (o + 9) 1)
      if e.status = 0 then
        (s.mapAcc a.id fun a => { a with data := BitVec.ofNat 512 old, psn := if psn = 0 then 0 else a.span, fp := BitVec.ofNat 5 fl, stage := .performed }).due
          [evn reply a.id]
      else s.replyFail a (e.status % 16) (e.status / 16) reply)

/-- WREPLY, for the watch of one thread. -/
def execWreply (s : State) : Out :=
  .next (s.receive 0 fun s =>
    let e := s.ev
    s.replied fun s _ a =>
      if a.tid ≠ e.n then s
      else if e.status = 0 then (s.mapAcc a.id fun a => { a with data := BitVec.ofNat 512 e.val, stage := .performed }).due [evn .waitmReply a.id]
      else s.replyFail a (e.status % 16) (e.status / 16) .waitmReply)

/-! ## Engines (R364, R369, R289) -/

/-- Bytes of a BULK in one line, performed at their home here: a status of R236 and, where an operator refuses them, its reason. The writer of a claim on an
operator is the one whose tag the command number holds (R201, log 17). -/
def State.bulkLine (s : State) (e : Event) (a : Nat) (bs : List Byte) : State × Nat × Nat :=
  let vd := e.hdr.vd.toNat
  if (s.arrivalCheck a).isSome then (s, 2, 0)
  else
    match s.windowAt a with
    | some (n, out, off) =>
      (match s.ops[n]? with
       | none => (s, 2, 0)
       | some o =>
         match s.iwStore o out off e.hdr.src.toNat vd (BitVec.ofNat 32 (e.hdr.src.toNat * 2 ^ 25 + e.n % 2 ^ 25)) true false (bs.map some) with
         | (s, .refused r) => (s, 7, r)
         | (s, _) => (s, 0, 0))
    | none =>
      match regionOf (localOf a) with
      | .port n =>
        if !s.plat.up.getLsbD n then (s, 4, 0)
        else ({ s with plat := { s.plat with portOut := s.plat.portOut ++ [(n, 1, localOf a, bs)] } }, 0, 0)
      | _ => (s.homeWrite vd 0 (localOf a) bs, 0, 0)

/-- The lines of a BULK, one after another; the first failure, another one in place of a refusal (R235). -/
def State.bulkLines (s : State) (e : Event) : Nat → Nat → List Byte → State × Nat × Nat
  | 0, _, _ => (s, 0, 0)
  | fuel + 1, a, bs =>
    if bs.isEmpty then (s, 0, 0)
    else
      let n := 64 - a % 64
      let (s, x) := s.bulkLine e a (bs.take n)
      let (s, y) := s.bulkLines e fuel (a + n) (bs.drop n)
      (s, if x.1 = 0 ∨ (x.1 = 7 ∧ y.1 ≠ 0 ∧ y.1 ≠ 7) then y else x)

/-- A BULK without a collective: an engine's store of more than 64 bytes, performed here and counted; BACK when all the bytes are that it announces
(R364), with the first failure. What is kept of it is the bytes, 2^40 times its status and 2^48 times its reason. -/
def State.bulkStore (s : State) (e : Event) : State :=
  let key := (e.hdr.src, BitVec.ofNat 32 e.n)
  let old := match s.fab.bulk.find? fun x => x.1 == key with | some x => x.2 | none => 0
  let bs := e.bytes.take (e.k - old % 2 ^ 40)
  let (s, st, r) := s.bulkLines e (bs.length / 64 + 2) e.val bs
  let now := old + bs.length + if old < 2 ^ 40 then st * 2 ^ 40 + r * 2 ^ 48 else 0
  let rest := s.fab.bulk.filter fun x => x.1 != key
  if now % 2 ^ 40 < e.k then { s with fab := { s.fab with bulk := (key, now) :: rest } }
  else State.sendBack { s with fab := { s.fab with bulk := rest } } e.hdr.vd.toNat e.hdr.src.toNat e.n (now % 2 ^ 40) (now / 2 ^ 40 % 256) (now / 2 ^ 48)

/-- BACK for a store of an engine: its access is answered (R364, R366). -/
def State.storeBack (s : State) (src : BitVec 7) (no status reason : Nat) : State :=
  match s.accs.find? fun a => (match a.stage with | .remote _ => true | _ => false) && pkgOf a.pa == src.toNat && decide (64 < a.size) &&
    (match a.kind with | .engWrite c => (s.cmd? c).any fun c => c.bulkNo == no | _ => false) with
  | none => s
  | some a =>
    match status with
    | 0 => (s.mapAcc a.id fun a => { a with stage := .performed }).due [evn .storeAck a.id]
    | 7 => s.refuse a reason .storeAck
    | 4 => s.failWith a .absent .storeAck
    | _ => s.failWith a .prot .storeAck

/-- The work of a BULK at the receiving engine. -/
def State.bulkIn (s : State) (e : Event) : State :=
  match e.coll with
  | none => if 2 ^ 31 ≤ e.n then s.bulkStore e else
    (match s.collKnown e.hdr.src with | some p => s.collData { e with coll := some p } p | none => s.bulkStore e)
  | some p => if p.op = 5 then s.mcastPart e p else s.collData e p

/-- BULK (R364): `ok` marks one that was held until the member's command came (R369). -/
def execBulk (s : State) : Out := .next (if s.ev.ok then s.bulkIn s.ev else s.receive 2 fun s => s.bulkIn s.ev)
def execBack (s : State) : Out :=
  .next (s.receive 1 fun s =>
    if 2 ^ 31 ≤ s.ev.n then s.storeBack s.ev.hdr.src s.ev.n s.ev.status s.ev.k else s.collBack s.ev.hdr.src s.ev.n s.ev.status s.ev.k)
def execAbort (s : State) : Out := .next (s.receive 0 fun s => s.collAbort s.ev.hdr.src s.ev.hdr.vd.toNat s.ev.n s.ev.tag)

/-! ## Acknowledgement and recovery (R360, R362, R365) -/

/-- DACK (R362): the copies of delivered messages leave the retransmit store. -/
def execDack (s : State) : Out :=
  .next (s.receive 0 fun s =>
    let e := s.ev
    { s with fab := { s.fab with unacked := s.fab.unacked.filter fun m => !(m.dst == e.hdr.src && m.cls == e.n && e.seqs.contains m.seq.toNat) } })

/-- Two messages of this package are the same: destination, class and SEQ. -/
def Msg.same (m n : Msg) : Bool := m.dst == n.dst && m.cls == n.cls && m.seq == n.seq

/-- A message sent again by a new route, under its SEQ value (R365); one that still waits for its window is routed anew. -/
def State.resend (s : State) (m : Msg) : State :=
  let mine (q : Outgoing) : Bool := !q.relay && q.msg.same m
  let s := match s.fab.queue.find? mine with | some q => s.giveBack m (m.flits - q.sent) | none => s
  let (r, s) := s.routed m s.cycle
  { s with fab := { s.fab with
      unacked := mapIf m.same (fun _ => r.msg) s.fab.unacked, queue := s.fab.queue.filter (fun q => !mine q) ++ [r] } }

/-- RETRY (R365, R398): the messages named are sent again; each is a CFAB event of its VD. -/
def execRetry (s : State) : Out :=
  .next (s.receive 0 fun s =>
    let e := s.ev
    (s.fab.unacked.filter fun m => m.dst == e.hdr.src && m.cls == e.n && e.seqs.contains m.seq.toNat).foldl (fun s m => (s.resend m).logCorr m.vd 1 0) s)

/-- CREDIT (R360): a relay gives back flits of its reserve. -/
def execCredit (s : State) : Out :=
  .next (s.receive 0 fun s =>
    let e := s.ev
    { s with fab := { s.fab with spent := s.fab.spent.map fun x => if x.1 = e.hdr.src then (x.1, x.2 - e.n) else x } })

/-- IDLE (R357) is never delivered. -/
def execIdle (s : State) : Out := .next s

/-- SEQ values named to a peer in messages of at most 25 (R357). -/
def State.nameSeqs (s : State) (kind : Nat) (k : BitVec 7 × Nat) : Nat → List Nat → State
  | 0, _ => s
  | n + 1, l =>
    if l.isEmpty then s
    else
      let now := l.take 25
      (s.post1 k.1 0 kind 0 (leBytes 1 k.2 ++ leBytes 1 now.length ++ zeros 6 ++ now.flatMap (leBytes 3))).nameSeqs kind k n (l.drop 25)

/-- The SEQ values that a gap leaves open before the messages held of a source and class. -/
def Fabric.gap (f : Fabric) (k : BitVec 7 × Nat) : List Nat :=
  let got := if k.2 = 2 then (f.seen.filter fun x => x.1 == k.1).map (·.2)
    else (f.held.filter fun x => x.1 == k.2 && x.2.hdr.src == k.1).map fun x => x.2.hdr.seq.toNat
  let e := f.expected k
  let most := got.foldl (fun m n => max m ((n + 2 ^ 24 - e) % 2 ^ 24)) 0
  ((List.range most).map fun i => (e + i) % 2 ^ 24).filter fun n => !got.contains n

/-- What is owed to peers is sent: acknowledgements, and requests for what is missing. -/
def State.settleSeqs (s : State) : State :=
  let keys := ((List.range 128).flatMap fun q => [0, 1, 2].map fun c => (BitVec.ofNat 7 q, c)).filter fun k => s.peerUp k.1.toNat
  let acks := s.fab.acks
  let retries := s.fab.retries
  let s := { s with fab := { s.fab with acks := [], retries := [] } }
  keys.foldl (fun s k =>
    let l := (acks.filter fun x => x.1 == k).map (·.2)
    let s := s.nameSeqs 11 k l.length l
    let gap := s.fab.gap k
    let r := gap ++ ((retries.filter fun x => x.1 == k).map (·.2)).filter fun n => !gap.contains n && !s.fab.delivered k n
    s.nameSeqs 12 k r.length r) s

/-- The credits of a relay go back to each source in a slot that joins it to this package, or by any route where none does (R360); that they wait for one
is the model's (log 17). -/
def State.settleCredits (s : State) : State :=
  let k := s.fab.slotnow.toNat
  let now (x : BitVec 7 × Nat) : Bool := s.peerUp x.1.toNat && (match s.fab.nextJoined x.1.toNat true with | some (j, _) => j == k | none => true)
  ((s.fab.owed.filter now).foldl (fun s x => s.post1 x.1 0 13 0 (leBytes 4 x.2)) { s with fab := { s.fab with owed := s.fab.owed.filter fun x => !now x } })

/-! ## The calendar (R340, R353, R354, R410) -/

/-- The start-of-slot refill of class 4 on each plane, scaled as its window is by its active wavelengths (R340, R374). -/
def State.refillFabric (s : State) : State :=
  ((List.range 8).flatMap fun p => ((List.range 64).filter fun v => (s.rate v 4).rate != 0).map fun v => (p, v)).foldl (fun s x =>
    let r := s.rate x.2 4
    s.setLevel 4 x.1 x.2 (min (s.level 4 x.1 x.2 + (1024 * r.rate.toNat * s.fab.planeCap x.1 / 55800 : Nat)) (1024 * r.depth.toNat))) s

/-- A map's bit for a package. -/
def markBit (m : Option SlotMark) (q : Nat) : Bool := match m with | some x => x.present.getLsbD q | none => false

/-- The IDLE flits of a window that ends: one from each plane that has had no traffic, to the package it is joined to (R357, R368). -/
def State.sendIdle (s : State) : State :=
  let f := s.fab
  let k := f.slotnow.toNat
  let idle (p : Nat) : Option Sent :=
    let q := f.joined f.pkg p (k % f.cycle)
    if !f.lit p ∨ q = f.pkg ∨ (f.use p).busy then none
    else some ⟨k, p, true, true, { src := s.me, dst := BitVec.ofNat 7 q, cls := 2, kind := 14, hop := 0, via := 0, seq := 0, vd := 0, pay := [] }, 0⟩
  { s with fab := { f with outbox := f.outbox ++ (List.range 8).filterMap idle } }

/-- SLOT_START (R340, R352, R354, R362, R368, R372, R374): the next slot begins, 2 µs after the last; what its window left is settled, spares replace the wavelengths whose
guard interval has passed, and peers dark in the last two maps are declared absent. -/
def execSlotStart (s : State) : Out :=
  if !s.fab.locked then .next { s with fab := { s.fab with slotAt := s.cycle } }
  else
    let s := s.sendIdle
    let s := { s with fab := { s.fab with slotnow := s.fab.slotnow + 1, slotAt := s.fab.slotAt + 8000, uses := [] } }
    let k := s.fab.slotnow.toNat
    let gone := (List.range 128).filter fun q => s.peerUp q && !s.fab.lastMap.getLsbD q && !markBit s.fab.mark q
    let spare := s.fab.sparing.filter fun x => decide (x.2.2.2 < k)
    let s := { s with fab := { s.fab with sparing := s.fab.sparing.filter fun x => decide (k ≤ x.2.2.2) } }
    let s := s.reassemble.refillFabric.settleSeqs.settleCredits.reroute
    .next (s.due (gone.map (evn .peerAbsent) ++ spare.map fun (p, f, tx, _) => { row := .wavelengthSpare, n := p, m := if tx then f else f + 8 }))

/-- SLOT_MARK (R354, R406, R410; mark), as a guard interval begins (log 79): two marks that agree and follow each other lock the package; two intervals
without one lose the lock. In PS3 the optics are stopped. -/
def execSlotMark (s : State) : Out :=
  if s.plat.pscur = 3 then .next s
  else
  match s.ev.mark with
  | none =>
    let s := { s with fab := { s.fab with missed := s.fab.missed + 1, mark := if s.fab.locked then s.fab.mark else none } }
    .next (if s.fab.locked ∧ 2 ≤ s.fab.missed then s.due [evn .calendarLockLoss 0] else s)
  | some m =>
    let last := match s.fab.mark with | some x => x.present | none => 0
    let s' := { s with fab := { s.fab with missed := 0, lastMap := last, mark := some m } }
    if s.fab.locked then .next s'
    else
      match s.fab.mark with
      | some x =>
        if x.agree ∧ m.agree ∧ m.slot = x.slot + 1 ∧ m.nlog = x.nlog ∧ m.pkg = x.pkg then
          .next { s' with fab := { s'.fab with
            locked := true, podcfg := true, nlog := m.nlog.toNat, pkg := m.pkg.toNat, slotnow := m.slot - 1, slotAt := s.cycle - 7200, uses := [],
            present := x.present &&& m.present } }
        else .next s'
      | none => .next s'

/-! ## Absence and return (R372, R373) -/

/-- What is declared of a peer that is gone. -/
def State.dropPeer (s : State) (q : Nat) : State :=
  let b := BitVec.ofNat 7 q
  let s := { s with fab := { s.fab with
    present := s.fab.present &&& ~~~(1#128 <<< q),
    sent := s.fab.sent.filter (fun x => x.1.1 != b), expect := s.fab.expect.filter (fun x => x.1.1 != b),
    held := s.fab.held.filter (fun x => x.2.hdr.src != b), seen := s.fab.seen.filter (fun x => x.1 != b),
    acks := s.fab.acks.filter (fun x => x.1.1 != b), retries := s.fab.retries.filter (fun x => x.1.1 != b),
    relayed := s.fab.relayed.filter (fun x => x.msg.src != b && x.msg.dst != b), waiting := s.fab.waiting.filter (fun m => m.dst != b),
    queue := s.fab.queue.filter (fun q => q.msg.dst != b && q.msg.src != b), spent := s.fab.spent.filter (fun x => x.1 != b), owed := s.fab.owed.filter (fun x => x.1 != b),
    watches := s.fab.watches.filter (fun x => x.hdr.src != b), firing := s.fab.firing.filter (fun x => x.hdr.src != b),
    unready := s.fab.unready.filter (fun x => x.hdr.src != b), bulk := s.fab.bulk.filter (fun x => x.1.1 != b),
    unacked := s.fab.unacked.filter fun m => m.dst != b } }
  let s := (s.fab.unacked.filter fun m => m.hop == 1 && m.via == b).foldl State.resend s
  let s := (s.cmds.filter fun c => c.mcastOf q c.no && c.stage == .waiting && c.bytes.isEmpty).foldl (fun s c => s.dropCmd c.id) s
  let lost := s.accs.filter fun a => (match a.stage with | .remote _ | .held => true | _ => false) && pkgOf a.pa == q
  let s := lost.foldl (fun s a => s.failAcc a.id .absent q) s
  s.collAbsent q

/-- PEER_ABSENT (R373; n: package). -/
def execPeerAbsent (s : State) : Out := .next (if s.peerUp s.ev.n then s.dropPeer s.ev.n else s)

/-- PEER_PRESENT (R372; n: package): after two maps that show its light, its calendar lock confirmed; SEQ values start at 0. -/
def execPeerPresent (s : State) : Out :=
  let q := s.ev.n
  if s.peerUp q ∨ q = s.fab.pkg ∨ !s.fab.locked ∨ !s.fab.lastMap.getLsbD q ∨ !markBit s.fab.mark q then .next s
  else
    let b := BitVec.ofNat 7 q
    .next { s with fab := { s.fab with
      present := s.fab.present ||| (1#128 <<< q), sent := s.fab.sent.filter (fun x => x.1.1 != b),
      expect := s.fab.expect.filter (fun x => x.1.1 != b) } }

/-- CALENDAR_LOCK_LOSS (R410): every peer is treated as absent, and SLOTNOW reads all ones. In PS3 the optics are stopped and no mark comes (R406). -/
def execCalendarLockLoss (s : State) : Out :=
  if !s.fab.locked ∨ (s.fab.missed < 2 ∧ s.plat.pscur ≠ 3) then .next s
  else
    let s := ((List.range 128).filter s.peerUp).foldl State.dropPeer s
    .next { s with fab := { s.fab with
      locked := false, mark := none, lastMap := 0, slotnow := BitVec.allOnes 64, flits := [], uses := [],
      queue := s.fab.queue.filter fun q => q.relay } }

/-! ## Wavelengths (R351, R374) -/

/-- A fibre of a plane: 124 wavelengths active and 4 spare unless listed. -/
def Fabric.fibre (f : Fabric) (p k : Nat) (tx : Bool) : Fibre :=
  (f.fibres.find? fun x => x.plane == p && x.fibre == k && x.tx == tx).getD ⟨p, k, tx, 124, 4⟩
def Fabric.setFibre (f : Fabric) (x : Fibre) : Fabric :=
  { f with fibres := x :: f.fibres.filter fun y => !(y.plane == x.plane && y.fibre == x.fibre && y.tx == x.tx) }

/-- A side of a plane is lost: its four transmit fibres, or its four receive fibres, have no light (log 79). -/
def Fabric.sideLost (f : Fabric) (p : Nat) (b : Bool) : Bool :=
  [true, false].any fun tx => (List.range 4).all fun k => decide ((f.fibre p (if b then k + 4 else k) tx).active = 0)

/-- A plane that has lost both sides is down. -/
def Fabric.settlePlane (f : Fabric) (p : Nat) : Fabric :=
  if f.sideLost p false && f.sideLost p true then { f with down := f.down ||| (1#8 <<< p) } else f

/-- WAVELENGTH_RETRAIN (n: plane, m: fibre, transmit 0 to 7 and receive 8 to 15, k: wavelength, ok), in a guard interval: one that does not retrain carries
nothing, and a spare replaces it in the guard interval after. -/
def execWavelengthRetrain (s : State) : Out :=
  if s.ev.ok then .next s
  else
    let (p, k, tx) := (s.ev.n, s.ev.m % 8, decide (s.ev.m < 8))
    let x := s.fab.fibre p k tx
    let f := (s.fab.setFibre { x with active := x.active - 1 }).settlePlane p
    .next (if s.fab.locked then { s with fab := { f with sparing := f.sparing ++ [(p, k, tx, s.fab.slotnow.toNat + 1)] } }
      else State.due { s with fab := f } [{ row := .wavelengthSpare, n := p, m := s.ev.m }])

/-- WAVELENGTH_SPARE (n: plane, m: fibre as above): a spare replaces a wavelength; where the fibre has none left, or no light at all, it keeps one fewer,
with a corrected-error report in the management log. -/
def execWavelengthSpare (s : State) : Out :=
  let x := s.fab.fibre s.ev.n (s.ev.m % 8) (decide (s.ev.m < 8))
  if 124 ≤ x.active then .next s
  else if 0 < x.spares ∧ 0 < x.active then .next { s with fab := s.fab.setFibre { x with active := x.active + 1, spares := x.spares - 1 } }
  else .next ({ s with freeCtr := s.freeCtr + 1 }.mlog (correctableClass s.freeCtr) 0 0 0 0 false)

/-- PLANE_RESTORED (n: plane): the plane carries traffic again; fibres that had lost all light have theirs back. -/
def execPlaneRestored (s : State) : Out :=
  .next { s with fab := { s.fab with
    down := s.fab.down &&& ~~~(1#8 <<< s.ev.n), fibres := s.fab.fibres.filter fun x => !(x.plane == s.ev.n && x.active == 0) } }

end Sys2Proof.Machine
end

