-- ==== Sys2Proof/Machine/Ports.lean ====
section
/-!
DEFINITION. Root ports (R401 to R404), the sideband port (R395, R405), power states (R394, R406 to R408), reset (R409) and scrubbing (R414).
-/

namespace Sys2Proof.Machine

/-! ## Root ports (R303, R401, R403, R404) -/

/-- An event from outside starts the exit from a power state (R408). -/
def State.stir (s : State) (w : WakeEvent) : State := if s.plat.pscur = 0 then s else s.due [{ row := .powerStateExit, wake := w }]

/-- PCIE_INBOUND_READ (R401, R403; n: port, val: address, m: bytes, k: Requester ID, kind: not 0 where it needs ATS, PRI or PASID). -/
def execPcieInboundRead (s : State) : Out := .next ((s.stir .port).portRequest s.ev.n true false (s.ev.kind != 0) s.ev.val s.ev.m s.ev.k [])

/-- PCIE_INBOUND_WRITE (R401, R403; n: port, val: address, bytes, k: Requester ID, ok: posted, kind: as above). -/
def execPcieInboundWrite (s : State) : Out :=
  .next ((s.stir .port).portRequest s.ev.n false s.ev.ok (s.ev.kind != 0) s.ev.val s.ev.bytes.length s.ev.k s.ev.bytes)

def State.setLink (s : State) (n : Nat) (up : Bool) : State :=
  let b : BitVec 16 := 1#16 <<< n
  { s with plat := { s.plat with up := if up then s.plat.up ||| b else s.plat.up &&& ~~~b } }

/-- PCIE_LINK_DOWN (R404; n: port). -/
def execPcieLinkDown (s : State) : Out := .next (s.setLink s.ev.n false)

/-- PCIE_LINK_UP (R404; n: port). -/
def execPcieLinkUp (s : State) : Out := .next ((s.stir .port).setLink s.ev.n true)

/-- PCIE_AER_EVENT (R404, R413; n: port): one entry of class ECC to the SYSVD of the owning partition, and of a port no partition owns to the
management error log. -/
def execPcieAerEvent (s : State) : Out :=
  let a := BitVec.ofNat 64 s.ev.n
  match s.portCtx s.ev.n with
  | some (p, _, _, _) => .next (s.logErr (s.sysvd p) .ecc 0 0 0 a false 0)
  | none => .next (s.mlog .ecc 1 0 0 a false)

/-! ## SPDM (R395): request and response codes and the layouts of responses are those of SPDM 1.3, which the spec names (log 21) -/

/-- A response of a version of the protocol: version, code, two parameters, and its payload. -/
def State.respondAs (s : State) (ver code p1 p2 : Nat) (bs : List Byte) : State :=
  let s := s.stir .sideband
  { s with plat := { s.plat with
      sbOut := s.plat.sbOut ++ [[BitVec.ofNat 8 ver, BitVec.ofNat 8 code, BitVec.ofNat 8 p1, BitVec.ofNat 8 p2] ++ bs] } }

/-- A response of version 1.3. -/
def State.respond (s : State) (code p1 p2 : Nat) (bs : List Byte) : State := s.respondAs 0x13 code p1 p2 bs

/-- ERROR with a code. -/
def State.spdmError (s : State) (code : Nat) : State := s.respond 0x7F code 0 []

/-- Bytes of the certificate chain and its length: free values. -/
def certBytes (off n : Nat) : List Byte := (List.range n).map fun i => BitVec.ofNat 8 ((Config.freeSpdm (2 ^ 32 + (off + i) / 64)).toNat / 2 ^ (8 * ((off + i) % 64)))
def certLength : Nat := (Config.freeSpdm (2 ^ 33 + 1)).toNat % 65536

/-- A free value of 64 bytes: a signature, or with its first 32 a nonce. -/
def State.freshBytes (s : State) : State × List Byte := ({ s with freeCtr := s.freeCtr + 1 }, leBytes 64 (Config.freeSpdm s.freeCtr).toNat)

/-- The end of a response that is signed: no opaque data, the requester's context, the signature. -/
def signedEnd (context sig : List Byte) : List Byte := leBytes 2 0 ++ (context ++ zeros 8).take 8 ++ sig

/-- The bytes of a digest, first byte first. -/
def digestBytes (d : BitVec 256) : List Byte := (leBytes 32 d.toNat).reverse

/-- The digest of the chain. -/
def certDigest : List Byte := digestBytes (sm3 (certBytes 0 certLength))

/-- The measurements (R395): index 3 is over the 64 ranges, BASE and LIMIT, and the word of the lock bit (log 21). -/
def State.measurement (s : State) (n : Nat) : Option (List Byte) :=
  if n = 3 then
    some (digestBytes (sm3 (s.mgmt.rfm.toList.flatMap (fun x => leBytes 8 x.1.toNat ++ leBytes 8 x.2.toNat) ++ leBytes 4 (if s.mgmt.rfmlock then 1 else 0))))
  else if n = 1 ∨ n = 2 ∨ n = 4 then some (digestBytes (sm3 (Config.firmware n)))
  else if 5 ≤ n ∧ n < 13 then some (if (s.part (n - 5)).desc.isSome then digestBytes (s.part (n - 5)).digest else zeros 32)
  else none

/-- A measurement's block: its index, the specification, its size, its kind (0 a ROM, 1 firmware, 3 a configuration), and the digest. -/
def measureBlock (n : Nat) (d : List Byte) : List Byte :=
  leBytes 1 n ++ leBytes 1 1 ++ leBytes 2 35 ++ leBytes 1 (if n = 1 then 0 else if n = 3 then 3 else 1) ++ leBytes 2 32 ++ d

/-- GET_VERSION: one version, SPDM 1.3; the answer itself is of version 1.0. -/
def execGetVersion (s : State) : Out := .next (s.respondAs 0x10 0x04 0 0 [0, 1, 0, 0x13])

/-- GET_CAPABILITIES: certificates, challenges and signed measurements; no secured sessions. Its timeout exponent and message sizes are free. -/
def execGetCapabilities (s : State) : Out :=
  let x := (Config.freeSpdm (2 ^ 33 + 2)).toNat
  .next (s.respond 0x61 0 0 (leBytes 1 0 ++ leBytes 1 x ++ leBytes 2 0 ++ leBytes 4 0x16 ++ leBytes 4 (x / 2 ^ 32) ++ leBytes 4 (x / 2 ^ 64)))

/-- NEGOTIATE_ALGORITHMS (n: signature algorithms offered, m: hash algorithms): SM2 on the SM2 curve and SM3, where they are offered. -/
def execNegotiateAlgorithms (s : State) : Out :=
  .next (s.respond 0x63 0 0 (leBytes 2 36 ++ leBytes 1 1 ++ leBytes 1 0 ++ leBytes 4 (2 ^ 7) ++ leBytes 4 (if s.ev.n.testBit 9 then 2 ^ 9 else 0)
    ++ leBytes 4 (if s.ev.m.testBit 6 then 2 ^ 6 else 0) ++ zeros 16))

/-- GET_DIGESTS: slot 0 holds the chain. -/
def execGetDigests (s : State) : Out := .next (s.respond 0x01 1 1 certDigest)

/-- GET_CERTIFICATE (n: slot, m: offset, k: length): a portion of the chain, and how much of it remains. -/
def execGetCertificate (s : State) : Out :=
  .next (if s.ev.n = 0 ∧ s.ev.m < certLength then
      let k := min s.ev.k (certLength - s.ev.m)
      s.respond 0x02 0 0 (leBytes 2 k ++ leBytes 2 (certLength - s.ev.m - k) ++ certBytes s.ev.m k)
    else s.spdmError 1)

/-- CHALLENGE (n: slot, bytes: the requester's context): the chain's digest and a signature under the device identity key. -/
def execChallenge (s : State) : Out :=
  .next (if s.ev.n = 0 then
      let (s, nonce) := s.freshBytes
      let (s, sig) := s.freshBytes
      s.respond 0x03 0 1 (certDigest ++ nonce.take 32 ++ signedEnd s.ev.bytes sig)
    else s.spdmError 1)

/-- GET_MEASUREMENTS (n: index, 0 for their number and 0xFF for all; bytes: the requester's context): the blocks and a signature. -/
def execGetMeasurements (s : State) : Out :=
  let all := (List.range 13).filterMap fun n => (s.measurement n).map (measureBlock n)
  let one := (s.measurement s.ev.n).toList.map (measureBlock s.ev.n)
  let l := if s.ev.n = 0 then [] else if s.ev.n = 0xFF then all else one
  let (t, nonce) := s.freshBytes
  let (t, sig) := t.freshBytes
  let rec_ := l.flatten
  .next (if s.ev.n ≠ 0 ∧ l.isEmpty then s.spdmError 1
    else t.respond 0x60 (if s.ev.n = 0 then all.length else 0) 0
      (leBytes 1 l.length ++ leBytes 3 rec_.length ++ rec_ ++ nonce.take 32 ++ signedEnd s.ev.bytes sig))

/-- SPDM_UNSUPPORTED_REQUEST: ERROR with UnsupportedRequest. -/
def execSpdmUnsupportedRequest (s : State) : Out := .next (s.respond 0x7F 7 s.ev.n [])

/-! ## Reset (R405, R409) -/

/-- The package after reset; free values go on where they stood. -/
def State.resetPackage (s : State) : State := { State.reset with freeCtr := s.freeCtr }

/-- PACKAGE_RESET (R409). -/
def execPackageReset (s : State) : Out := .next s.resetPackage

/-- The boot ROM (R409): it maps spare clusters onto logical ones (R310); it loads and checks M-level and key-unit firmware, and with both good it starts them,
the former at M on this thread; a failed check halts the thread. Training changes no state here; the images, what the checks give, where firmware is loaded
and starts, and which spares are used are free, and the whole is one step (log 5). -/
def State.bootRom (s : State) (wave : Nat) : State :=
  let s := (List.range 8).foldl (fun s m =>
    match Config.bootSpare m with
    | some cl => if s.spareFree cl m then s.mapCluster cl fun c => { c with spares := m :: c.spares } else s
    | none => s) s
  if Config.firmwareGood 2 && Config.firmwareGood 4 then
    let s := s.putBytes 0 (Config.firmwareAt % 2 ^ 35) ((Config.firmware 2).take (2 ^ 35))
    State.mapWave { s with mgmt := { s.mgmt with keyrdy := true } } wave fun w =>
      { w with threads := w.threads.map fun th => { th with pc := pcOf Config.firmwareEntry, since := s.cycle } }
  else State.mapWave { s with mgmt := { s.mgmt with keyrdy := false } } wave fun w => { w with halted := true }

/-- SIDEBAND_PACKAGE_RESET (R405). -/
def execSidebandPackageReset (s : State) : Out := .next s.resetPackage

/-- SIDEBAND_PARTITION_RESET (R405; n: partition): as PARTCTL with M = 1, with nothing to answer. -/
def execSidebandPartitionReset (s : State) : Out :=
  let s := s.stir .sideband
  if 8 ≤ s.ev.n ∨ (s.part s.ev.n).desc.isNone then .next s
  else
    let id := s.nextId
    let c : Cmd :=
      { id := id, no := 0, eng := .oe, wave := 2 ^ 32, tid := 0, mask := 0, vd := s.sysvd s.ev.n, ctx := 0, block := 0, core := 1024, flags := [],
        op := .partctl 1, a := BitVec.ofNat 64 s.ev.n, b := 0, bytes := [], dst := 64, prog := 0, status := 0, deadline := 0, stage := .queued,
        buf := none, wtag := 0 }
    .next ((State.wakeCmd { s with cmds := s.cmds ++ [c], nextId := id + 1 } id).beginStop s.ev.n)

/-- SIDEBAND_OTHER_MESSAGE (R405): discarded. Whether a message that is discarded is a sideband request of R408 the spec does not say: here it is one, and
starts an exit from a power state (DESIGN CHOICE, log 75). -/
def execSidebandOtherMessage (s : State) : Out := .next (s.stir .sideband)

/-! ## Power states (R394, R406 to R408) -/

/-- A launch whose blocks can be dispatched or placed. -/
def State.dispatchable (s : State) : Bool :=
  (List.range 64).any fun v => (!(s.items v).isEmpty) || (s.heads v).any fun l => (s.predsOk l).isSome

/-- The condition of PS1 and PS2. -/
def State.quietPackage (s : State) : Bool :=
  !(s.waves.any fun w => match w.loc with | .lane .. => true | _ => false) &&
  !(s.blocks.any fun b => b.onCore && (match b.seq with | some q => !q.ended | none => false)) &&
  s.cmds.isEmpty && !(s.accs.any fun a => match a.stage with | .remote _ => true | _ => false) && s.faults.isEmpty && !s.dispatchable

/-- A Vent thread in WFI or HALT. -/
def Wave.ventIdle (w : Wave) : Bool := w.halted || (match (w.th 0).cond with | .blocked .wfi => true | _ => false)

/-- The condition of PS3. -/
def State.idlePackage (s : State) : Bool :=
  s.quietPackage && s.waves.all (fun w => !w.isVent || w.ventIdle) && s.queues.toList.all fun q => q.pend == 0

/-- The deepest state of R407. -/
def State.deepest (s : State) : Nat :=
  let ok (n : Nat) : Bool :=
    decide (n ≤ s.mgmt.maxps) && decide (psLatency n ≤ s.tolerance) && (if n = 3 then s.idlePackage else s.quietPackage)
  if ok 3 then 3 else if ok 2 then 2 else if ok 1 then 1 else 0

/-- L1 and TLB contents of the compute dies are lost (R406). -/
def State.loseCompute (s : State) : State :=
  { s with
    caches := s.caches.filter (fun c => decide (512 ≤ c.core)), wcache := s.wcache.filter (fun e => decide (128 ≤ e.cl)),
    tlb := s.tlb.filter fun e => match e.place with | .last _ => false | .core c => decide (512 ≤ c ∧ c < 8192 ∨ 8192 + 128 ≤ c) | .cluster cl => decide (128 ≤ cl) }

/-- Entry to PS3 with live worlds wraps the key slots under a fresh sleep key and zeroes them (R394). -/
def State.wrapKeys (s : State) : State :=
  if s.keys.worlds.isEmpty then s
  else
    let k := Config.freeKey s.freeCtr
    { s with
      freeCtr := s.freeCtr + 1,
      keys := { s.keys with
        sleepKey := some k,
        wrapped := s.keys.worlds.map (fun w => (w.keyid, w.vd, keyWrap k (ofBlock w.dkey ++ ofBlock w.tkey))),
        worlds := s.keys.worlds.map fun w => { w with dkey := 0, tkey := 0 } } }

/-- What PS3 does not keep besides: the contents of the system cache and of the Vent processors' L1s and TLBs; dirty L2 lines are written back before
(R394, R406). -/
def State.loseVent (s : State) : State :=
  let s := s.writeBack s.l2
  { s with caches := [], wcache := [], tlb := [], sysCache := [], l2 := s.l2.map fun x => { x with dirty := false } }

/-- POWER_STATE_ENTRY (R407). In PS3 the optics are off: no slot mark comes, and the lock is lost (R410). -/
def execPowerStateEntry (s : State) : Out :=
  let n := s.deepest
  if s.plat.pscur ≠ 0 ∨ n = 0 then .next s
  else
    let s := { s with plat := { s.plat with pscur := n, exitAt := none } }
    let s := if 2 ≤ n then s.loseCompute else s
    .next (if n = 3 then s.loseVent.wrapKeys.due (if s.fab.locked then [evn .calendarLockLoss 0] else []) else s)

/-- POWER_STATE_EXIT (R408; wake): an exit starts, of the latency of R406, counted from its event. -/
def execPowerStateExit (s : State) : Out :=
  .next (if s.plat.pscur = 0 ∨ s.plat.exitAt.isSome then s
    else { s with plat := { s.plat with exitAt := some (s.cycle + usCycles (psLatency s.plat.pscur)) } })

/-- The keys of the wrapped slots, none where the retained copy fails its check. -/
def State.unwrapKeys (s : State) (damaged : Bool) : Option (List World) :=
  match s.keys.sleepKey with
  | none => some s.keys.worlds
  | some k =>
    if damaged then none
    else s.keys.worlds.mapM fun w =>
      match s.keys.wrapped.find? fun x => x.1 == w.keyid with
      | none => none
      | some x => (keyUnwrap k x.2.2).map fun bs => { w with dkey := blockOf bs, tkey := blockOf (bs.drop 16) }

/-- POWER_EXIT_COMPLETE (R394, R406; ok: the retained key slots are damaged): back in PS0. If the unwrap fails, every live world is killed,
and each of their VDs has an ECC entry. -/
def execPowerExitComplete (s : State) : Out :=
  if s.plat.exitAt.isNone then .next s
  else
    let ws := s.unwrapKeys s.ev.ok
    let s := { s with plat := { s.plat with pscur := 0, exitAt := none } }
    match ws with
    | some ws => .next { s with keys := { s.keys with worlds := ws, sleepKey := none, wrapped := [] } }
    | none =>
      let dead := s.keys.worlds
      let s := { s with keys := { s.keys with sleepKey := none, wrapped := [] } }
      let s := (dead.map (·.vd)).eraseDups.foldl (fun s v => s.logErr v .ecc 0 0 0 0 false 0) s
      .next (dead.foldl (fun s w => ((s.worldLaunches w.keyid).foldl (fun s l => s.killLaunch l.uid) s).due [evn .worldRetire w.keyid]) s)

/-- WAKEAT_EXPIRY (R408). -/
def execWakeatExpiry (s : State) : Out := .next (s.stir .wakeAt)

/-- POWER_REMOVED (R394, R406): nothing is kept. -/
def execPowerRemoved (s : State) : Out :=
  let t := s.resetPackage
  .next { t with plat := { t.plat with off := true } }

/-! ## Errors of memories (R309, R396, R398, R414) -/

/-- The report of an error that no reader found, of a line of memory: to the SYSVD of its frame's partition (R396), or to the management log; one that
was corrected has its correctable event. -/
def State.frameReport (s : State) (l : Nat) (corrected : Bool) : State :=
  let a := BitVec.ofNat 64 (s.podAddr l)
  match s.ownerOf l with
  | some p => if corrected then s.logCorr (s.sysvd p) 0 a else s.logErr (s.sysvd p) .ecc 0 0 (lowWord a) a true 0
  | none => if corrected then State.mlog { s with freeCtr := s.freeCtr + 1 } (correctableClass s.freeCtr) 0 0 0 a true
    else s.mlog .ecc 1 0 (lowWord a) a true

/-- The 16 words of a line marked (R414). -/
def State.markLine (s : State) (line : Nat) : State :=
  { s with mem := { s.mem with marks := (List.range 16).foldl (fun m i => insertRising (16 * line + i) m) s.mem.marks } }

/-- A line of an L2 slice is struck: a dirty one is marked and reported, a clean one is fetched again (R309, R414). -/
def State.strikeL2 (s : State) (line : Nat) : State :=
  match s.l2.find? fun x => x.line == line with
  | some x => if x.dirty then (s.markLine line).frameReport (64 * line) false else (s.arriveBad line).chargeMemory x.vd (64 * line)
  | none => s

/-- A struck word of a register, whose bits the spec does not state: free (log 76). -/
def struckReg (n : Nat) : Reg := ⟨(Config.freeDevice n).truncate 32, true⟩

/-- MEMORY_SCRUB (R309, R414; kind): an error is found, or strikes. Kind 0: in HBM4E or LPDDR-6 (val: address, ok: corrected); the line's home slice marks
its words when it next brings it in. Kind 1: in an L2 slice; 2: in the system cache; 3: in a core's L1 or remote-read path (n: core; val: address). Kind 4: a
register (n: wave, m: thread, k: its number); 5: a word of scratch, and 6: an element of an accumulator (n: block, val: offset or place). -/
def execMemoryScrub (s : State) : Out :=
  let line := s.ev.val / 64
  match s.ev.kind with
  | 0 =>
    .next (if !isMemory s.ev.val then s
      else (if s.ev.ok ∨ s.badLines.contains line then s else { s with badLines := line :: s.badLines }).frameReport (64 * line) s.ev.ok)
  | 1 => .next (s.strikeL2 line)
  | 2 => .next (s.sysDrop line)
  | 3 => .next { s with caches := s.caches.filter fun c => !(c.core == s.ev.n && c.line == line) }
  | 4 =>
    .next (State.mapWave { s with freeCtr := s.freeCtr + 1 } s.ev.n fun w =>
      match w.loc with
      | .lane .. | .vent .. => w.deliver s.ev.m s.ev.k (struckReg s.freeCtr)
      | _ => w)
  | 5 => .next (s.mapBlock s.ev.n fun b => if b.onCore && decide (s.ev.val < b.ssize) then { b with smarks := insertRising (s.ev.val / 4) b.smarks } else b)
  | _ =>
    .next (State.mapBlock { s with freeCtr := s.freeCtr + 1 } s.ev.n fun b =>
      if b.onCore && decide (s.ev.val < 1024 * b.arows) && decide (s.ev.val % 1024 < b.acols) then
        { b with acc := sput Reg.zero b.acc s.ev.val (struckReg s.freeCtr) }
      else b)

end Sys2Proof.Machine
end

