-- ==== Sys2Proof/Machine/Dispatch.lean ====
section
/-!
DEFINITION. One arm for each operation of the opcode table.
-/

namespace Sys2Proof.Machine

def exec (i : Instr) (s : State) : Host.Outcome State Fault Refusal :=
  match i with
  | .iadd d a b => Sys2Proof.Machine.execIadd d a b s
  | .iaddi d a imm => Sys2Proof.Machine.execIaddi d a imm s
  | .isub d a b => Sys2Proof.Machine.execIsub d a b s
  | .iadds d a b t => Sys2Proof.Machine.execIadds d a b t s
  | .imul d a b => Sys2Proof.Machine.execImul d a b s
  | .imulh d a b t => Sys2Proof.Machine.execImulh d a b t s
  | .imad d a b => Sys2Proof.Machine.execImad d a b s
  | .imadw d a b t => Sys2Proof.Machine.execImadw d a b t s
  | .idiv d a b t => Sys2Proof.Machine.execIdiv d a b t s
  | .irem d a b t => Sys2Proof.Machine.execIrem d a b t s
  | .imin d a b t => Sys2Proof.Machine.execImin d a b t s
  | .imax d a b t => Sys2Proof.Machine.execImax d a b t s
  | .iabs d a => Sys2Proof.Machine.execIabs d a s
  | .ineg d a => Sys2Proof.Machine.execIneg d a s
  | .lea d a b x => Sys2Proof.Machine.execLea d a b x s
  | .and d a b => Sys2Proof.Machine.execAnd d a b s
  | .or d a b => Sys2Proof.Machine.execOr d a b s
  | .xor d a b => Sys2Proof.Machine.execXor d a b s
  | .andn d a b => Sys2Proof.Machine.execAndn d a b s
  | .not d a => Sys2Proof.Machine.execNot d a s
  | .andi d a imm => Sys2Proof.Machine.execAndi d a imm s
  | .ori d a imm => Sys2Proof.Machine.execOri d a imm s
  | .xori d a imm => Sys2Proof.Machine.execXori d a imm s
  | .shl d a b => Sys2Proof.Machine.execShl d a b s
  | .shrl d a b => Sys2Proof.Machine.execShrl d a b s
  | .shra d a b => Sys2Proof.Machine.execShra d a b s
  | .shli d a n => Sys2Proof.Machine.execShli d a n s
  | .shrli d a n => Sys2Proof.Machine.execShrli d a n s
  | .shrai d a n => Sys2Proof.Machine.execShrai d a n s
  | .rotl d a b => Sys2Proof.Machine.execRotl d a b s
  | .bfx d a b t => Sys2Proof.Machine.execBfx d a b t s
  | .bfi d a b => Sys2Proof.Machine.execBfi d a b s
  | .popc d a => Sys2Proof.Machine.execPopc d a s
  | .clz d a => Sys2Proof.Machine.execClz d a s
  | .brev d a => Sys2Proof.Machine.execBrev d a s
  | .pdot4 d a b t => Sys2Proof.Machine.execPdot4 d a b t s
  | .padd4 d a b => Sys2Proof.Machine.execPadd4 d a b s
  | .padd4Ss d a b => Sys2Proof.Machine.execPadd4Ss d a b s
  | .padd4Us d a b => Sys2Proof.Machine.execPadd4Us d a b s
  | .ldi d imm => Sys2Proof.Machine.execLdi d imm s
  | .mov d a => Sys2Proof.Machine.execMov d a s
  | .sel d a b p => Sys2Proof.Machine.execSel d a b p s
  | .icmp p c a b => Sys2Proof.Machine.execIcmp p c a b s
  | .icmpi p c a imm => Sys2Proof.Machine.execIcmpi p c a imm s
  | .plog p x y z t => Sys2Proof.Machine.execPlog p x y z t s
  | .wredAdd d a => Sys2Proof.Machine.execWredAdd d a s
  | .wredMin d a => Sys2Proof.Machine.execWredMin d a s
  | .wredMax d a => Sys2Proof.Machine.execWredMax d a s
  | .wredOr d a => Sys2Proof.Machine.execWredOr d a s
  | .pmovToReg d => Sys2Proof.Machine.execPmovToReg d s
  | .pmovToPreds a => Sys2Proof.Machine.execPmovToPreds a s
  | .movs d imm => Sys2Proof.Machine.execMovs d imm s
  | .movcRead d imm => Sys2Proof.Machine.execMovcRead d imm s
  | .movcWrite a imm => Sys2Proof.Machine.execMovcWrite a imm s
  | .bra o => Sys2Proof.Machine.execBra o s
  | .brp p n o => Sys2Proof.Machine.execBrp p n o s
  | .jmpi a => Sys2Proof.Machine.execJmpi a s
  | .call o => Sys2Proof.Machine.execCall o s
  | .calli a => Sys2Proof.Machine.execCalli a s
  | .ret => Sys2Proof.Machine.execRet s
  | .exit => Sys2Proof.Machine.execExit s
  | .jset j => Sys2Proof.Machine.execJset j s
  | .join j => Sys2Proof.Machine.execJoin j s
  | .jdrop j => Sys2Proof.Machine.execJdrop j s
  | .yield => Sys2Proof.Machine.execYield s
  | .rgn => Sys2Proof.Machine.execRgn s
  | .vgrow n => Sys2Proof.Machine.execVgrow n s
  | .vshrink n => Sys2Proof.Machine.execVshrink n s
  | .voteAny d a => Sys2Proof.Machine.execVoteAny d a s
  | .voteAll d a => Sys2Proof.Machine.execVoteAll d a s
  | .voteBallot d a => Sys2Proof.Machine.execVoteBallot d a s
  | .shflIdx d a b => Sys2Proof.Machine.execShflIdx d a b s
  | .shflUp d a b => Sys2Proof.Machine.execShflUp d a b s
  | .shflDown d a b => Sys2Proof.Machine.execShflDown d a b s
  | .shflXor d a b => Sys2Proof.Machine.execShflXor d a b s
  | .fadd d a b => Sys2Proof.Machine.execFadd d a b s
  | .fsub d a b => Sys2Proof.Machine.execFsub d a b s
  | .fmul d a b => Sys2Proof.Machine.execFmul d a b s
  | .ffma d a b => Sys2Proof.Machine.execFfma d a b s
  | .fmin d a b => Sys2Proof.Machine.execFmin d a b s
  | .fmax d a b => Sys2Proof.Machine.execFmax d a b s
  | .fabs d a => Sys2Proof.Machine.execFabs d a s
  | .fneg d a => Sys2Proof.Machine.execFneg d a s
  | .fcmp p c a b => Sys2Proof.Machine.execFcmp p c a b s
  | .fclass d a => Sys2Proof.Machine.execFclass d a s
  | .fdiv d a b => Sys2Proof.Machine.execFdiv d a b s
  | .fsqrt d a => Sys2Proof.Machine.execFsqrt d a s
  | .frcp d a => Sys2Proof.Machine.execFrcp d a s
  | .frsq d a => Sys2Proof.Machine.execFrsq d a s
  | .fex2 d a => Sys2Proof.Machine.execFex2 d a s
  | .flg2 d a => Sys2Proof.Machine.execFlg2 d a s
  | .fsinp d a => Sys2Proof.Machine.execFsinp d a s
  | .fcosp d a => Sys2Proof.Machine.execFcosp d a s
  | .ftanh d a => Sys2Proof.Machine.execFtanh d a s
  | .fscale d a b => Sys2Proof.Machine.execFscale d a b s
  | .frnd d a => Sys2Proof.Machine.execFrnd d a s
  | .f2i d a t => Sys2Proof.Machine.execF2i d a t s
  | .i2f d a t => Sys2Proof.Machine.execI2f d a t s
  | .fcvto d a f => Sys2Proof.Machine.execFcvto d a f s
  | .fcvti d a f => Sys2Proof.Machine.execFcvti d a f s
  | .hadd2 d a b => Sys2Proof.Machine.execHadd2 d a b s
  | .hmul2 d a b => Sys2Proof.Machine.execHmul2 d a b s
  | .hfma2 d a b => Sys2Proof.Machine.execHfma2 d a b s
  | .badd2 d a b => Sys2Proof.Machine.execBadd2 d a b s
  | .bmul2 d a b => Sys2Proof.Machine.execBmul2 d a b s
  | .bfma2 d a b => Sys2Proof.Machine.execBfma2 d a b s
  | .hdot2F16 d a b => Sys2Proof.Machine.execHdot2F16 d a b s
  | .hdot2Bf16 d a b => Sys2Proof.Machine.execHdot2Bf16 d a b s
  | .tld d a o => Sys2Proof.Machine.execTld d a o s
  | .tldh d a o => Sys2Proof.Machine.execTldh d a o s
  | .tstw d a f m => Sys2Proof.Machine.execTstw d a f m s
  | .tscl d a f => Sys2Proof.Machine.execTscl d a f s
  | .tste d a b => Sys2Proof.Machine.execTste d a b s
  | .psnq d a => Sys2Proof.Machine.execPsnq d a s
  | .psns d a => Sys2Proof.Machine.execPsns d a s
  | .psnc d a => Sys2Proof.Machine.execPsnc d a s
  | .ldb d a o => Sys2Proof.Machine.execLdb d a o s
  | .ldh d a o => Sys2Proof.Machine.execLdh d a o s
  | .ldw d a o => Sys2Proof.Machine.execLdw d a o s
  | .ldd d a o => Sys2Proof.Machine.execLdd d a o s
  | .ldq d a o => Sys2Proof.Machine.execLdq d a o s
  | .stb d a o => Sys2Proof.Machine.execStb d a o s
  | .sth d a o => Sys2Proof.Machine.execSth d a o s
  | .stw d a o => Sys2Proof.Machine.execStw d a o s
  | .std d a o => Sys2Proof.Machine.execStd d a o s
  | .stq d a o => Sys2Proof.Machine.execStq d a o s
  | .lda d a w c => Sys2Proof.Machine.execLda d a w c s
  | .stl d a w c => Sys2Proof.Machine.execStl d a w c s
  | .fenceFull c => Sys2Proof.Machine.execFenceFull c s
  | .fenceAcq c => Sys2Proof.Machine.execFenceAcq c s
  | .fenceRel c => Sys2Proof.Machine.execFenceRel c s
  | .lds d a w o => Sys2Proof.Machine.execLds d a w o s
  | .sts d a w o => Sys2Proof.Machine.execSts d a w o s
  | .atadd d a r x c => Sys2Proof.Machine.execAtadd d a r x c s
  | .atsub d a r x c => Sys2Proof.Machine.execAtsub d a r x c s
  | .atmins d a r x c => Sys2Proof.Machine.execAtmins d a r x c s
  | .atminz d a r x c => Sys2Proof.Machine.execAtminz d a r x c s
  | .atmaxs d a r x c => Sys2Proof.Machine.execAtmaxs d a r x c s
  | .atmaxz d a r x c => Sys2Proof.Machine.execAtmaxz d a r x c s
  | .atand d a r x c => Sys2Proof.Machine.execAtand d a r x c s
  | .ator d a r x c => Sys2Proof.Machine.execAtor d a r x c s
  | .atxor d a r x c => Sys2Proof.Machine.execAtxor d a r x c s
  | .atxch d a r x c => Sys2Proof.Machine.execAtxch d a r x c s
  | .atinc d a r x c => Sys2Proof.Machine.execAtinc d a r x c s
  | .atfadd d a r c => Sys2Proof.Machine.execAtfadd d a r c s
  | .atfmin d a r c => Sys2Proof.Machine.execAtfmin d a r c s
  | .atfmax d a r c => Sys2Proof.Machine.execAtfmax d a r c s
  | .atcas d a r c => Sys2Proof.Machine.execAtcas d a r c s
  | .atcas64 d a r c => Sys2Proof.Machine.execAtcas64 d a r c s
  | .bar a n => Sys2Proof.Machine.execBar a n s
  | .bara a n => Sys2Proof.Machine.execBara a n s
  | .barw n => Sys2Proof.Machine.execBarw n s
  | .waitm d a b c => Sys2Proof.Machine.execWaitm d a b c s
  | .pref a o => Sys2Proof.Machine.execPref a o s
  | .rget d r => Sys2Proof.Machine.execRget d r s
  | .rput r => Sys2Proof.Machine.execRput r s
  | .rfree r => Sys2Proof.Machine.execRfree r s
  | .rtake d r => Sys2Proof.Machine.execRtake d r s
  | .invl1 => Sys2Proof.Machine.execInvl1 s
  | .waitf a => Sys2Proof.Machine.execWaitf a s
  | .ackq d => Sys2Proof.Machine.execAckq d s
  | .opinst d a o => Sys2Proof.Machine.execOpinst d a o s
  | .opfree a => Sys2Proof.Machine.execOpfree a s
  | .opswap a => Sys2Proof.Machine.execOpswap a s
  | .opqry d a b => Sys2Proof.Machine.execOpqry d a b s
  | .opfire a b => Sys2Proof.Machine.execOpfire a b s
  | .opdrop a b => Sys2Proof.Machine.execOpdrop a b s
  | .opfence => Sys2Proof.Machine.execOpfence s
  | .opgrant d a b => Sys2Proof.Machine.execOpgrant d a b s
  | .opwait d a b => Sys2Proof.Machine.execOpwait d a b s
  | .opseq a => Sys2Proof.Machine.execOpseq a s
  | .tmul p q x y => Sys2Proof.Machine.execTmul p q x y s
  | .tmac p q x y => Sys2Proof.Machine.execTmac p q x y s
  | .tzero p q x y => Sys2Proof.Machine.execTzero p q x y s
  | .tacopy p q x y => Sys2Proof.Machine.execTacopy p q x y s
  | .taload p q x y => Sys2Proof.Machine.execTaload p q x y s
  | .tring p q x y => Sys2Proof.Machine.execTring p q x y s
  | .tsig p q x y => Sys2Proof.Machine.execTsig p q x y s
  | .tset p q x y => Sys2Proof.Machine.execTset p q x y s
  | .taddq p q x y => Sys2Proof.Machine.execTaddq p q x y s
  | .tloop p q x y => Sys2Proof.Machine.execTloop p q x y s
  | .tjmp p q x y => Sys2Proof.Machine.execTjmp p q x y s
  | .twaitc p q x y => Sys2Proof.Machine.execTwaitc p q x y s
  | .tend p q x y => Sys2Proof.Machine.execTend p q x y s
  | .tswap p q x y => Sys2Proof.Machine.execTswap p q x y s
  | .cpy d a k l => Sys2Proof.Machine.execCpy d a k l s
  | .gath a => Sys2Proof.Machine.execGath a s
  | .scat a => Sys2Proof.Machine.execScat a s
  | .cpyw a => Sys2Proof.Machine.execCpyw a s
  | .shdwBind d a => Sys2Proof.Machine.execShdwBind d a s
  | .shdwFree a => Sys2Proof.Machine.execShdwFree a s
  | .shdwGen d a => Sys2Proof.Machine.execShdwGen d a s
  | .publish a c => Sys2Proof.Machine.execPublish a c s
  | .shadowFlip => Sys2Proof.Machine.execShadowFlip s
  | .coll d a => Sys2Proof.Machine.execColl d a s
  | .collw d a => Sys2Proof.Machine.execCollw d a s
  | .mcast a => Sys2Proof.Machine.execMcast a s
  | .launch d a b => Sys2Proof.Machine.execLaunch d a b s
  | .lwait d a => Sys2Proof.Machine.execLwait d a s
  | .svc d a imm => Sys2Proof.Machine.execSvc d a imm s
  | .trap a imm => Sys2Proof.Machine.execTrap a imm s
  | .notify a b => Sys2Proof.Machine.execNotify a b s
  | .errpop d a => Sys2Proof.Machine.execErrpop d a s
  | .slotqDirect d a b => Sys2Proof.Machine.execSlotqDirect d a b s
  | .slotqRoute d a b => Sys2Proof.Machine.execSlotqRoute d a b s
  | .svcreply d a b => Sys2Proof.Machine.execSvcreply d a b s
  | .rtt => Sys2Proof.Machine.execRtt s
  | .tlbinvPage a b => Sys2Proof.Machine.execTlbinvPage a b s
  | .tlbinvContext a b => Sys2Proof.Machine.execTlbinvContext a b s
  | .tlbinvVd a b => Sys2Proof.Machine.execTlbinvVd a b s
  | .tfence c => Sys2Proof.Machine.execTfence c s
  | .keyload d a b => Sys2Proof.Machine.execKeyload d a b s
  | .keyrevoke d a => Sys2Proof.Machine.execKeyrevoke d a s
  | .qosset d a b => Sys2Proof.Machine.execQosset d a b s
  | .ctxsave d a b => Sys2Proof.Machine.execCtxsave d a b s
  | .ctxrest d a b => Sys2Proof.Machine.execCtxrest d a b s
  | .ctxkill d a b => Sys2Proof.Machine.execCtxkill d a b s
  | .pgsplit d a b => Sys2Proof.Machine.execPgsplit d a b s
  | .wfi => Sys2Proof.Machine.execWfi s
  | .partctlAssign d a b => Sys2Proof.Machine.execPartctlAssign d a b s
  | .partctlReset d a b => Sys2Proof.Machine.execPartctlReset d a b s
  | .partctlStop d a b => Sys2Proof.Machine.execPartctlStop d a b s
  | .quadsRetired => Sys2Proof.Machine.execQuadsRetired s
  | .sleep a => Sys2Proof.Machine.execSleep a s
  | .halt => Sys2Proof.Machine.execHalt s
  | .himm p => Sys2Proof.Machine.execHimm p s
  | .hcls m a b => Sys2Proof.Machine.execHcls m a b s
  | .hmod r t c => Sys2Proof.Machine.execHmod r t c s
  | .hintReservedF6 h x => Sys2Proof.Machine.execHintReservedF6 h x s
  | .hintReservedF8 h x => Sys2Proof.Machine.execHintReservedF8 h x s
  | .loadDataArrival => Sys2Proof.Machine.execLoadDataArrival s
  | .storeAck => Sys2Proof.Machine.execStoreAck s
  | .atomicReply => Sys2Proof.Machine.execAtomicReply s
  | .waitmReply => Sys2Proof.Machine.execWaitmReply s
  | .watchReevaluate => Sys2Proof.Machine.execWatchReevaluate s
  | .homeAccess => Sys2Proof.Machine.execHomeAccess s
  | .engineCommandComplete => Sys2Proof.Machine.execEngineCommandComplete s
  | .opinstComplete => Sys2Proof.Machine.execOpinstComplete s
  | .iwStoreArrival => Sys2Proof.Machine.execIwStoreArrival s
  | .owLoadArrival => Sys2Proof.Machine.execOwLoadArrival s
  | .fireStart => Sys2Proof.Machine.execFireStart s
  | .fireComplete => Sys2Proof.Machine.execFireComplete s
  | .claimLimitExpiry => Sys2Proof.Machine.execClaimLimitExpiry s
  | .unreadyLimitExpiry => Sys2Proof.Machine.execUnreadyLimitExpiry s
  | .opwaitLimitExpiry => Sys2Proof.Machine.execOpwaitLimitExpiry s
  | .joinRelease => Sys2Proof.Machine.execJoinRelease s
  | .jointoExpiry => Sys2Proof.Machine.execJointoExpiry s
  | .bartoExpiry => Sys2Proof.Machine.execBartoExpiry s
  | .vgrowGrant => Sys2Proof.Machine.execVgrowGrant s
  | .vshrinkFree => Sys2Proof.Machine.execVshrinkFree s
  | .pageWalkComplete => Sys2Proof.Machine.execPageWalkComplete s
  | .faultRequestPost => Sys2Proof.Machine.execFaultRequestPost s
  | .faultDone => Sys2Proof.Machine.execFaultDone s
  | .logfullWake => Sys2Proof.Machine.execLogfullWake s
  | .takeTraps => Sys2Proof.Machine.execTakeTraps s
  | .trapRecordAppend => Sys2Proof.Machine.execTrapRecordAppend s
  | .tqtailWrite => Sys2Proof.Machine.execTqtailWrite s
  | .waveSave => Sys2Proof.Machine.execWaveSave s
  | .waittoExpiry => Sys2Proof.Machine.execWaittoExpiry s
  | .preempttoExpiry => Sys2Proof.Machine.execPreempttoExpiry s
  | .waveRestore => Sys2Proof.Machine.execWaveRestore s
  | .fumaroleEntry => Sys2Proof.Machine.execFumaroleEntry s
  | .fumaroleExit => Sys2Proof.Machine.execFumaroleExit s
  | .waveEnd => Sys2Proof.Machine.execWaveEnd s
  | .blockComplete => Sys2Proof.Machine.execBlockComplete s
  | .launchDispatch => Sys2Proof.Machine.execLaunchDispatch s
  | .blockPlace => Sys2Proof.Machine.execBlockPlace s
  | .priorityPreempt => Sys2Proof.Machine.execPriorityPreempt s
  | .launchComplete => Sys2Proof.Machine.execLaunchComplete s
  | .reclaimNotice => Sys2Proof.Machine.execReclaimNotice s
  | .reclaimtoExpiry => Sys2Proof.Machine.execReclaimtoExpiry s
  | .coopPark => Sys2Proof.Machine.execCoopPark s
  | .thermalSample => Sys2Proof.Machine.execThermalSample s
  | .voltageDroop => Sys2Proof.Machine.execVoltageDroop s
  | .clusterSpareTakeover => Sys2Proof.Machine.execClusterSpareTakeover s
  | .ventFailure => Sys2Proof.Machine.execVentFailure s
  | .collMatch => Sys2Proof.Machine.execCollMatch s
  | .collCombine => Sys2Proof.Machine.execCollCombine s
  | .worldRetire => Sys2Proof.Machine.execWorldRetire s
  | .slotStart => Sys2Proof.Machine.execSlotStart s
  | .slotMark => Sys2Proof.Machine.execSlotMark s
  | .calendarLockLoss => Sys2Proof.Machine.execCalendarLockLoss s
  | .peerAbsent => Sys2Proof.Machine.execPeerAbsent s
  | .peerPresent => Sys2Proof.Machine.execPeerPresent s
  | .read => Sys2Proof.Machine.execRead s
  | .data => Sys2Proof.Machine.execData s
  | .write => Sys2Proof.Machine.execWrite s
  | .wack => Sys2Proof.Machine.execWack s
  | .atom => Sys2Proof.Machine.execAtom s
  | .areply => Sys2Proof.Machine.execAreply s
  | .watch => Sys2Proof.Machine.execWatch s
  | .wreply => Sys2Proof.Machine.execWreply s
  | .bulk => Sys2Proof.Machine.execBulk s
  | .back => Sys2Proof.Machine.execBack s
  | .abort => Sys2Proof.Machine.execAbort s
  | .dack => Sys2Proof.Machine.execDack s
  | .retry => Sys2Proof.Machine.execRetry s
  | .credit => Sys2Proof.Machine.execCredit s
  | .idle => Sys2Proof.Machine.execIdle s
  | .relayForward => Sys2Proof.Machine.execRelayForward s
  | .wavelengthRetrain => Sys2Proof.Machine.execWavelengthRetrain s
  | .wavelengthSpare => Sys2Proof.Machine.execWavelengthSpare s
  | .pcieInboundRead => Sys2Proof.Machine.execPcieInboundRead s
  | .pcieInboundWrite => Sys2Proof.Machine.execPcieInboundWrite s
  | .pcieLinkDown => Sys2Proof.Machine.execPcieLinkDown s
  | .pcieAerEvent => Sys2Proof.Machine.execPcieAerEvent s
  | .getVersion => Sys2Proof.Machine.execGetVersion s
  | .getCapabilities => Sys2Proof.Machine.execGetCapabilities s
  | .negotiateAlgorithms => Sys2Proof.Machine.execNegotiateAlgorithms s
  | .getDigests => Sys2Proof.Machine.execGetDigests s
  | .getCertificate => Sys2Proof.Machine.execGetCertificate s
  | .challenge => Sys2Proof.Machine.execChallenge s
  | .getMeasurements => Sys2Proof.Machine.execGetMeasurements s
  | .spdmUnsupportedRequest => Sys2Proof.Machine.execSpdmUnsupportedRequest s
  | .sidebandPackageReset => Sys2Proof.Machine.execSidebandPackageReset s
  | .sidebandPartitionReset => Sys2Proof.Machine.execSidebandPartitionReset s
  | .sidebandOtherMessage => Sys2Proof.Machine.execSidebandOtherMessage s
  | .packageReset => Sys2Proof.Machine.execPackageReset s
  | .powerStateEntry => Sys2Proof.Machine.execPowerStateEntry s
  | .powerStateExit => Sys2Proof.Machine.execPowerStateExit s
  | .powerExitComplete => Sys2Proof.Machine.execPowerExitComplete s
  | .wakeatExpiry => Sys2Proof.Machine.execWakeatExpiry s
  | .lattolWrite => Sys2Proof.Machine.execLattolWrite s
  | .vtrefWrite => Sys2Proof.Machine.execVtrefWrite s
  | .qpendWrite => Sys2Proof.Machine.execQpendWrite s
  | .qnextRead => Sys2Proof.Machine.execQnextRead s
  | .qdoneWrite => Sys2Proof.Machine.execQdoneWrite s
  | .uestaWrite => Sys2Proof.Machine.execUestaWrite s
  | .gCounterRead => Sys2Proof.Machine.execGCounterRead s
  | .clguarWrite => Sys2Proof.Machine.execClguarWrite s
  | .rfmlockWrite => Sys2Proof.Machine.execRfmlockWrite s
  | .kcmdGo => Sys2Proof.Machine.execKcmdGo s
  | .registerWrite => Sys2Proof.Machine.execRegisterWrite s
  | .bucketRefill => Sys2Proof.Machine.execBucketRefill s
  | .discardedFlit => Sys2Proof.Machine.execDiscardedFlit s
  | .planeRestored => Sys2Proof.Machine.execPlaneRestored s
  | .memoryScrub => Sys2Proof.Machine.execMemoryScrub s
  | .powerRemoved => Sys2Proof.Machine.execPowerRemoved s
  | .pcieLinkUp => Sys2Proof.Machine.execPcieLinkUp s
  | .keyUnitDone => Sys2Proof.Machine.execKeyUnitDone s
  | .operatorCommandArrival => Sys2Proof.Machine.execOperatorCommandArrival s
  | .tileCommandRetire => Sys2Proof.Machine.execTileCommandRetire s
  | .privilegedCompletion => Sys2Proof.Machine.execPrivilegedCompletion s

end Sys2Proof.Machine
end

