-- ==== Sys2Proof/Machine/Duty.lean ====
section
/-!
DEFINITION. What falls due by itself: after each step that issues, the events whose condition the machine now meets (R42, R128, R133, R135 to R138,
R181, R204, R211, R217, R269 to R277, R283 to R286, R330, R333 to R350, R354, R388, R393, R407, R408). An event whose condition has gone by the
time its turn comes changes nothing.
-/

namespace Sys2Proof.Machine

/-- An event where a condition holds. -/
def dueIf (b : Bool) (e : Event) : List Event := if b then [e] else []

/-- A deadline that has been set and reached. -/
def State.reached (s : State) (limit : Nat) : Bool := limit != 0 && decide (limit ≤ s.cycle)

/-! ## Waves and lanes -/

/-- The lane a saved wave returns to (R277, R334). -/
def State.returnLane (s : State) (w : Wave) : Option Nat :=
  match w.loc, s.block? w.block with
  | .saved _, some b =>
    if (match b.st with | .resident => true | _ => false) && !w.trapsTaken then
      (bestLane 0 (s.coreRoom b.cl b.core)).bind fun x =>
        let l := 64 * b.cl + 16 * b.core + x.1
        if w.needs ≤ x.2 && s.logRoom w l then some l else none
    else none
  | _, _ => none

/-- A save request can go on: its point is reached, or its stores have been acknowledged and there is room for the image. -/
def State.saveDue (s : State) (w : Wave) : Bool :=
  match w.saveReq, w.lane? with
  | some r, some _ =>
    (match r.kind with
     | some _ => w.drained && (!r.told || (s.saveRoom w.vd 1).isSome)
     | none => (s.savePoint w r).isSome)
  | _, _ => false

/-- The deadline of a save request that follows no reclaim notice has passed. -/
def State.preemptOver (s : State) (w : Wave) : Bool :=
  match w.saveReq with
  | some r => !r.reclaim && decide (r.deadline ≤ s.cycle) && r.kind.isNone && w.pfx.isNone && w.lane?.isSome
  | none => false

/-- Events due for a wave. -/
def State.waveDuties (s : State) (w : Wave) : List Event :=
  let n := w.id
  ((List.range 8).flatMap fun j => dueIf (w.arrived j && (tids (w.mask j)).all (s.released w)) { row := .joinRelease, n := n, m := j }) ++
  ((List.range w.threads.length).flatMap fun t =>
    dueIf (w.resident && match (w.arch t).cond with | .blocked (.join _) => s.reached (w.arch t).limit | _ => false) { row := .jointoExpiry, n := n, m := t }) ++
  dueIf (w.vshr != 0 && w.episode.isNone && !s.loadsAbove n w.vshr) (evn .vshrinkFree n) ++
  dueIf (!w.isVent && !w.trapsTaken && w.pfx.isNone && w.lane?.isSome && (match w.saveReq with | some r => !r.traps | none => true) && s.allStand w .trapped)
    (evn .takeTraps n) ++
  dueIf (s.saveDue w) (evn .waveSave n) ++
  dueIf (s.preemptOver w) (evn .preempttoExpiry n) ++
  dueIf (s.reclaimOver w) (evn .reclaimtoExpiry w.block) ++
  ((List.range w.vbars.length).flatMap fun b => dueIf (s.reached (s.barAt w b).limit) { row := .bartoExpiry, n := n, m := b, ok := true }) ++
  dueIf (s.reached w.waitLimit && w.saveReq.isNone && s.workWaiting w) (evn .waittoExpiry n) ++
  (match s.returnLane w with | some l => [{ row := .waveRestore, n := n, m := l }] | none => []) ++
  dueIf (s.episodeOver w) (evn .fumaroleExit n) ++
  dueIf (s.waveOver w) (evn .waveEnd n) ++
  dueIf (s.episodeLoad w).isSome (evn .fumaroleEntry n) ++
  (match w.lane? with
   | some l =>
     dueIf (w.vgt != 0) (evn .vgrowGrant l) ++
     dueIf ((List.range w.threads.length).any (fun t => match (w.arch t).cond with | .blocked .logfull => true | _ => false) && (s.freeEntry l).isSome)
       (evn .logfullWake l)
   | none => [])

/-! ## Blocks, launches and partitions -/

/-- The watchdog of a barrier of a block has run out, for its phase or for a thread that was saved meanwhile (R181, R280). -/
def State.barDue (s : State) (b : Block) (n : Nat) : Bool :=
  b.onCore && (s.reached (b.bar n).limit || (s.wavesOf b.id).any fun w => w.lane?.isSome &&
    (List.range w.threads.length).any fun t => barOver (b.bar n) n s.cycle (w.arch t))

/-- Events due for a block. -/
def State.blockDuties (s : State) (b : Block) : List Event :=
  ((List.range b.bars.length).flatMap fun n => dueIf (s.barDue b n) { row := .bartoExpiry, n := b.id, m := n }) ++
  dueIf (s.blockSaved b && (s.saveRoom b.vd b.units).isSome) { row := .waveSave, n := 2 ^ 32, m := b.id } ++
  dueIf (s.blockOver b) (evn .blockComplete b.id)

/-- A launch that heads its VD's work and finds no core, but would without blocks of lower priority (R336). -/
def State.preemptDue (s : State) (l : Launch) : Bool :=
  match s.headItem l.vd with
  | some i => ((s.itemLaunch i).map (·.uid) == some l.uid) && (s.placeItem i).isNone && !(s.preempt i).isEmpty
  | none => false

/-- Events due for a launch. -/
def State.launchDuties (s : State) (l : Launch) : List Event :=
  dueIf ((s.heads l.vd).any fun x => x.uid == l.uid) (evn .launchDispatch l.vd) ++
  dueIf (s.launchOver l && !s.cmds.any fun c => match c.op with | .evinc u => u == l.uid | _ => false) (evn .launchComplete l.uid) ++
  dueIf (s.mustPark l) (evn .coopPark l.uid) ++
  dueIf (s.preemptDue l) (evn .priorityPreempt l.uid)

/-- Events due for an assigned partition. -/
def State.partDuties (s : State) (p : Nat) : List Event :=
  if (s.part p).desc.isNone then []
  else
    dueIf (!s.launches.isEmpty && (s.nextPlacement p).isSome) (evn .blockPlace p) ++
    dueIf ((s.part p).leaving != 0 && s.quadsFree p) (evn .quadsRetired p) ++
    (if s.launches.isEmpty then [] else (s.vdsOf p).flatMap fun v => dueIf ((s.vd v).clguar != 0 && (s.noticeOn v).isSome) (evn .reclaimNotice v)) ++
    (s.vdsOf p).flatMap fun v => dueIf (!(s.vd v).heldTraps.isEmpty && s.trapFits v) (evn .trapRecordAppend v)

/-! ## Commands, operators, the rest -/

/-- Events due for a command. -/
def State.cmdDuties (s : State) (c : Cmd) : List Event :=
  match c.op with
  | .opwait => dueIf (s.reached c.deadline) (evn .opwaitLimitExpiry c.id)
  | .publish _ | .free => dueIf (s.shadowDue c) (evn c.op.event c.id)
  | .opinst => dueIf (decide (c.prog = 0) && decide (c.stage = .queued) && decide (128 ≤ c.bytes.length)) (evn .opinstComplete c.id)
  | _ => dueIf (s.privReady c) (evn .privilegedCompletion c.id)

/-- Limits that have run out at operators (R204, R211). -/
def State.limitDuties (s : State) : List Event :=
  (s.accs.flatMap fun a => match a.stage with | .unready d => dueIf (s.reached d) (evn .unreadyLimitExpiry a.id) | _ => []) ++
  ((s.fab.unready.findIdx? fun x => s.reached x.deadline).toList.map fun n => { row := .unreadyLimitExpiry, n := n, ok := true }) ++
  (s.ops.flatMap fun o => (o.ins.filter fun x => x.late s.cycle).map fun x => { row := .claimLimitExpiry, n := o.uid, m := x.slot })

/-- Watches without a place (R179): one that is satisfied, or for which a place is free. -/
def State.watchDuties (s : State) : List Event :=
  ((s.accs.filter fun a => (match a.stage with | .polled => true | _ => false) && ((s.watchSeen a).isSome || s.watchRoom (localOf a.pa))).map fun a =>
    evn .watchReevaluate a.id) ++
  ((s.fab.watches.filter fun x => !x.placed && ((s.remoteSeen x).isSome || s.watchRoom x.addr)).map fun x =>
    { row := .watchReevaluate, n := x.hdr.src.toNat, m := x.entry, ok := true })

/-- Operator engines with a fire to start and none at work. -/
def State.fireDuties (s : State) : List Event :=
  ((s.fires.filter fun f => s.mayStart f && !s.fires.any (fun x => x.oe == f.oe && x.running)).map (·.oe)).eraseDups.map (evn .fireStart)

/-- The calendar, failed Vent processors and power. -/
def State.timeDuties (s : State) : List Event :=
  dueIf (s.fab.locked && decide (s.fab.slotAt + 8000 ≤ s.cycle)) (evn .slotStart 0) ++
  ((List.range 16).flatMap fun n =>
    dueIf (s.mgmt.failed.getLsbD n && (s.freeVent n).isSome && s.waves.any fun w => match w.loc with | .vent p _ => p == n | _ => false) (evn .ventFailure n)) ++
  dueIf (match s.plat.exitAt with | some t => decide (t ≤ s.cycle) | none => false) (evn .powerExitComplete 0) ++
  dueIf (s.mgmt.maxps != 0 && s.plat.pscur == 0 && s.deepest != 0) (evn .powerStateEntry 0)

/-- Everything due. -/
def State.duties (s : State) : List Event :=
  s.waves.flatMap s.waveDuties ++ s.blocks.flatMap s.blockDuties ++ s.launches.flatMap s.launchDuties ++ (List.range 8).flatMap s.partDuties ++
  s.cmds.flatMap s.cmdDuties ++ s.limitDuties ++ s.watchDuties ++ s.fireDuties ++
  ((s.keys.worlds.filter fun w => (s.worldLaunches w.keyid).isEmpty).map fun w => evn .worldRetire w.keyid) ++ s.timeDuties

end Sys2Proof.Machine
end

