-- ==== Sys2Proof/Machine/Step.lean ====
section
/-!
DEFINITION. One step of the machine: the first event due happens, or, when none is due, the next agent issues one instruction. Then
time passes and what has fallen due joins the agenda (logs 3 and 4).
-/

namespace Sys2Proof.Machine

/-- The buckets refilled up to now (R340); those of class 4 are as a slot begins. -/
def State.refillAll (s : State) : State := [0, 2, 3, 5].foldl State.refillNow s

/-- The end of a step: the waves' waits are settled, time passes, buckets are refilled, and the memory controllers and the planes serve what waits at them.
After an issue, what falls due by itself is added. -/
def State.close (issue : Bool) (s : State) : State :=
  let s := s.settle.tick.refillAll.serveMemory.serveFabric
  if issue then s.due s.duties else s

/-- An outcome with its next state changed. -/
def onNext (f : State → State) : Host.Outcome State Fault Refusal → Host.Outcome State Fault Refusal
  | .next s => .next (f s)
  | .fault x => .fault x
  | .refused x => .refused x

/-- One step. While power is removed only a package reset happens (R406). -/
def step (s : State) : Host.Outcome State Fault Refusal :=
  match s.agenda with
  | e :: rest =>
    if s.plat.off ∧ e.row ≠ .packageReset then .next { s with agenda := rest }
    else onNext (State.close false) (exec e.row { s with agenda := rest, ev := e })
  | [] =>
    if s.plat.off then .fault .powerOff
    else
      match s.issueNext with
      | .done s' => .next (s'.close true)
      | .boot w s' => .next ((s'.bootRom w).close true)
      | .run i s' p => onNext (fun t => (t.afterIssue i p).close true) (exec i s')

/-! ## A word placed for the next step (host) -/

/-- The local and virtual address at which withFetchWord places its word. -/
def placeAt : Nat := 0x1000

/-- A compute wave of one thread on lane 0 of core 0 of cluster 0, at the placed word. -/
def placedWave (block : Nat) : Wave :=
  { Wave.vent 0 0 0 .u (BitVec.ofNat 64 placeAt) 0 with loc := .lane 0 0 0, role := .vector, block := block, vbars := [] }

/-- Its block; with a tile sequencer at the placed word where `seq`. -/
def placedBlock (id : Nat) (seq : Bool) : Block :=
  { id := id, launch := 0, blkid := 0, vd := 0, ctx := 0, keyid := 0, cl := 0, core := 0, ssize := 0, scratch := [],
    bars := List.replicate 16 ⟨0, 0, 0, false, 0⟩, rings := [],
    seq := if seq then some ⟨BitVec.ofNat 64 placeAt, Vector.replicate 32 0, 0, [], 0, false, false⟩ else none,
    arows := 0, acols := 0, acc := [], st := .resident, holder := false, savedNo := 0, image := 0 }

/-- A page that maps the placed word at its own address for VD 0, context 0, readable, writable and executable, in the TLB of cluster 0, which serves its
cores and its sequencer. -/
def placedPage (pkg : Nat) : TlbEntry :=
  { place := .cluster 0, vd := 0, ctx := 0, base := placeAt, size := 4096, leaf := BitVec.ofNat 64 (0xFB + (pkg * 2 ^ 45 + placeAt) / 4096 * 2 ^ 11),
    spec := false }

/-- The machine with a word at the place that the next step fetches: a privileged word for the boot thread at M, a tile command for a
tile sequencer, every other word for a compute wave of one thread (log 5 says how a program comes to run from reset). -/
def State.withFetchWord (s : State) (nbits w : Nat) : State :=
  let x : Word := BitVec.ofNat 32 (w % 2 ^ nbits)
  let op := (opOf x).toNat
  let s := { s with mem := s.mem.store placeAt (leBytes 4 x.toNat), agenda := [], plat := { s.plat with off := false, pscur := 0 } }
  if 0xE0 ≤ op ∧ op ≤ 0xEF then
    { s with waves := Wave.vent (ventId 0 0) 0 0 .m (BitVec.ofNat 64 placeAt) 0 :: s.waves.filter (fun y => y.id != ventId 0 0),
             sel := .wave (ventId 0 0) }
  else
    let b := s.nextId
    let seq := decide (0xC0 ≤ op) && decide (op ≤ 0xCF)
    let s := { s with tlb := placedPage s.fab.pkg :: s.tlb, blocks := placedBlock b seq :: s.blocks, nextId := b + 1 }
    if seq then { s with sel := .seq 0 }
    else { s with waves := placedWave b :: s.waves.filter (fun y => y.id != 0), sel := .wave 0 }

end Sys2Proof.Machine
end

