-- ==== Sys2Proof/Safety.lean ====
section
/-!
DEFINITION. The terms claims are stated in: a bundle in progress, its operands, what a register instruction leaves, and the invariants
of a sound state.
-/

namespace Sys2Proof.Machine

/-! ## A bundle in progress (R24, R32) -/

/-- Wave w runs the instruction in progress outside an episode; at least one thread is active, and the active threads exist. -/
structure State.Running (s : State) (w : Wave) : Prop where
  wave   : s.wave? s.issue.wave = some w
  calm   : w.episode = none
  active : s.issue.mask ≠ 0
  inside : ∀ t, s.issue.mask.getLsbD t = true → t < w.threads.length

/-- Operand f as thread t reads it. -/
def Wave.opnd (w : Wave) (t : Nat) (f : BitVec 6) : Reg := readReg w (w.th t) f.toNat

/-- Registers f and f + 1 as thread t reads them: the doubleword, and whether either is poisoned. -/
def Wave.opnd2 (w : Wave) (t : Nat) (f : BitVec 6) : DWord × Bool :=
  (pairValue (w.opnd t f).val (readReg w (w.th t) (f.toNat + 1)).val, (w.opnd t f).psn || (readReg w (w.th t) (f.toNat + 1)).psn)

/-- The thread whose operands the effect in thread t is computed from: under a uniform instruction the lowest active one (R62); a jump to
one target is tried in each active thread (R126). -/
def State.source (s : State) (i : Instr) (t : Nat) : Nat := if i.uniform && !Instr.jumpsAll i then lowest s.issue.mask else t

/-! ## What a register instruction leaves (R21, R62) -/

/-- A thread that has gone on to the next word with register d written; a write to a scalar register leaves its vector registers, and
register 63 discards it. -/
def Thread.got (th : Thread) (is : Issue) (d : Nat) (r : Reg) : Thread :=
  { th with pc := is.pc + 4, v := if d < 48 then th.v.setIfInBounds d r else th.v }

/-- The scalar registers after a write to register d. -/
def scalarGot (k : Vector Reg 15) (d : Nat) (r : Reg) : Vector Reg 15 := if 48 ≤ d ∧ d < 63 then k.setIfInBounds (d - 48) r else k

/-- exec answers the next state in which the active threads of w and its scalar registers are those given, and nothing else differs: no
other thread, no other wave, no byte of memory, no other register of the machine. -/
def Gives (i : Instr) (s : State) (w : Wave) (th : Nat → Thread) (k : Vector Reg 15) : Prop :=
  exec i s = .next (s.mapWave w.id fun _ =>
    { w with threads := mapFrom (fun t x => if s.issue.mask.getLsbD t then th t else x) 0 w.threads, k := k })

/-- Register d is written in every active thread, a scalar register with the lowest active thread's value, with the FPSTAT bits and
the ERRSTAT.IZ that the effect of each thread sets. -/
def GivesReg (i : Instr) (s : State) (w : Wave) (d : BitVec 6) (val : Nat → Reg) (fp : Nat → BitVec 5 := fun _ => 0)
    (iz : Nat → Bool := fun _ => false) : Prop :=
  Gives i s w (fun t => ((w.th t).got s.issue d.toNat (val t)).sticky (fp (s.source i t)) (iz (s.source i t)))
    (scalarGot w.k d.toNat (val (lowest s.issue.mask)))

/-- Registers d and d + 1 are written with the halves of a doubleword. -/
def GivesPair (i : Instr) (s : State) (w : Wave) (d : BitVec 6) (lo hi : Nat → Reg) : Prop :=
  Gives i s w (fun t => ((w.th t).got s.issue d.toNat (lo t)).got s.issue (d.toNat + 1) (hi t))
    (scalarGot (scalarGot w.k d.toNat (lo (lowest s.issue.mask))) (d.toNat + 1) (hi (lowest s.issue.mask)))

/-- The result of R109 and R114 of one, two or three operands: poisoned, with the given value, when any operand is. -/
def res1 (bad : Word) (x : Reg) (f : Word → Word) : Reg := if x.psn then ⟨bad, true⟩ else ⟨f x.val, false⟩
def res2 (bad : Word) (x y : Reg) (f : Word → Word → Word) : Reg := if x.psn || y.psn then ⟨bad, true⟩ else ⟨f x.val y.val, false⟩
def res3 (bad : Word) (x y z : Reg) (f : Word → Word → Word → Word) : Reg :=
  if x.psn || y.psn || z.psn then ⟨bad, true⟩ else ⟨f x.val y.val z.val, false⟩

/-- A float result: poisoned when an operand is, with no flag set; else the value and the flags of a function of the rounding mode in
force and the operand words (R109, R141). -/
def GivesFloat (i : Instr) (s : State) (w : Wave) (d : BitVec 6) (ops : List (BitVec 6)) (f : Mode → List Word → Word × BitVec 5) : Prop :=
  let regs := fun t => ops.map (w.opnd t)
  let r := fun t => f (modeOf s.issue.rnd (w.th t).fpstat) ((regs t).map (·.val))
  GivesReg i s w d (fun t => if (regs t).any (·.psn) then ⟨poisonFloat, true⟩ else ⟨(r t).1, false⟩)
    (fun t => if (regs t).any (·.psn) then 0 else (r t).2)

/-- The active threads become those given; scalar registers are left. -/
def GivesThreads (i : Instr) (s : State) (w : Wave) (th : Nat → Thread) : Prop := Gives i s w th w.k

/-- A thread that has gone on to the next word. -/
def Thread.on (th : Thread) (is : Issue) : Thread := { th with pc := is.pc + 4 }

/-- An immediate: the field, or the payload of HIMM and the field (R69). -/
def immSigned {n : Nat} (h : Option (BitVec 22)) (i : BitVec n) (k : Nat) : BitVec k := h.elim (i.signExtend k) fun p => (p ++ i).signExtend k
def immUnsigned {n : Nat} (h : Option (BitVec 22)) (i : BitVec n) (k : Nat) : BitVec k := h.elim (i.zeroExtend k) fun p => (p ++ i).zeroExtend k

/-- The threads whose values a wave operation combines: the bundle, or the one thread that runs a uniform form (R62, R125). -/
def State.group (s : State) (i : Instr) : List Nat := if i.uniform then [lowest s.issue.mask] else tids s.issue.mask

/-! ## What other instructions leave -/

/-- exec answers a next state with the given property. -/
def Answers (i : Instr) (s : State) (P : State → Prop) : Prop := ∃ t, exec i s = .next t ∧ P t

/-- Wave w has become w', and the other waves are as they were. -/
def WaveLeft (s t : State) (w w' : Wave) : Prop := t.wave? w.id = some w' ∧ ∀ n, n ≠ w.id → t.wave? n = s.wave? n

/-- exec answers the next state in which wave w has become w', and nothing else differs. -/
def Becomes (i : Instr) (s : State) (w w' : Wave) : Prop := Answers i s fun t => t = { s with waves := t.waves } ∧ WaveLeft s t w w'

/-- exec answers the next state in which wave w has become w', and nothing else differs from a given state. -/
def BecomesFrom (i : Instr) (s b : State) (w w' : Wave) : Prop := Answers i s fun t => t = { b with waves := t.waves } ∧ WaveLeft b t w w'

/-- The active threads of a wave changed. -/
def Wave.bundle (w : Wave) (m : BitVec 32) (f : Nat → Thread → Thread) : Wave :=
  { w with threads := mapFrom (fun n th => if m.getLsbD n then f n th else th) 0 w.threads }

/-- exec gives register d a word in each active thread, which goes on; nothing else differs from a given state. -/
def Returns (i : Instr) (s b : State) (w : Wave) (d : BitVec 6) (x : Word) : Prop :=
  BecomesFrom i s b w { w.bundle s.issue.mask (fun _ th => th.got s.issue d.toNat ⟨x, false⟩) with k := scalarGot w.k d.toNat ⟨x, false⟩ }

/-! ## Memory accesses (R54, R163, R166) -/

/-- The names of outstanding operations are below the next one, and no two of a kind have one. -/
structure State.Fresh (s : State) : Prop where
  accs : ∀ a ∈ s.accs, a.id < s.nextId
  cmds : ∀ c ∈ s.cmds, c.id < s.nextId
  oneAcc : s.accs.Pairwise fun a b => a.id ≠ b.id
  oneCmd : s.cmds.Pairwise fun c d => c.id ≠ d.id

/-- An error of a virtual device goes to the error ring of its partition: it is in one, or the management log holds no entry (R396, R413). -/
def State.Owned (s : State) (vd : Nat) : Prop := (s.partOf vd).isSome = true ∨ s.mgmt.mlogsize = 0

/-- A read for a virtual device writes no log entry to memory: an error of it goes to its partition's ring, or no word of memory is in error. -/
def State.Calm (s : State) (vd : Nat) : Prop := s.Owned vd ∨ (s.badLines = [] ∧ s.mem.marks = [])

/-- No wave of a block is saved. -/
def State.Unsaved (s : State) (b : Nat) : Prop := ∀ v ∈ s.waves, v.block = b → ∀ i, v.loc ≠ .saved i

/-- An aligned access of n bytes at va by wave w finds a place among the requests of its core and a walker that is free (R166, R322), and resolves
to memory of this package outside every operator window; s1 is the state its translation leaves. -/
structure State.Resolves (s : State) (w : Wave) (k : Kind) (va : DWord) (n : Nat) (s1 : State) (pa key : Nat) : Prop where
  aligned : va.toNat % n = 0
  room    : s.accRoom w.coreNo = true
  walker  : s.walkerBusy (s.bundleWho w va) va = false
  found   : s.resolve (s.bundleWho w va) k va false = (s1, .ok pa key)
  here    : pkgOf pa = s.fab.pkg
  memory  : isMemory (localOf pa) = true
  outside : s.windowAt pa = none

/-- exec starts an access that P describes: the bundle goes on, its store counters rise by k, the flag its clause selects counts one more
operation, and one of the given events is due for the access. No byte of memory changes beyond what translation left. -/
def Starts (i : Instr) (s s1 : State) (w : Wave) (k : Nat) (P : Access → Prop) (rows : List Instr) : Prop :=
  Answers i s fun u => u.mem = s1.mem ∧
    WaveLeft s u w (w.bundle s.issue.mask fun _ th => { th.on s.issue with stores := th.stores + k }.attach (th.flagOf s.issue.s)) ∧
    ∃ a ∈ u.accs, a.id = s.nextId ∧ a.wave = w.id ∧ (a.stage = .issued ∨ a.stage = .performed) ∧ P a ∧ ∃ r ∈ rows, u.agenda = s1.agenda ++ [evn r a.id]

/-- Register d + j of thread t. -/
def Wave.nth (w : Wave) (t : Nat) (d : BitVec 6) (j : Nat) : Reg := readReg w (w.th t) (d.toNat + j)

/-- The doubleword and the quadword at d. -/
def Wave.dword (w : Wave) (t : Nat) (d : BitVec 6) : DWord := (w.nth t d 1).val ++ (w.nth t d 0).val
def Wave.qword (w : Wave) (t : Nat) (d : BitVec 6) : BitVec 128 := (w.nth t d 3).val ++ (w.nth t d 2).val ++ (w.nth t d 1).val ++ (w.nth t d 0).val

/-- No register of d to d + n − 1 is poisoned in thread t. -/
def Wave.sound (w : Wave) (t : Nat) (d : BitVec 6) (n : Nat) : Prop := ∀ j, j < n → (w.nth t d j).psn = false

/-- The access that the event in progress names has come back, in the given stage, to a wave that is not saved and runs no episode; it has no
entry in the operand log. -/
structure State.Replied (s : State) (a : Access) (w : Wave) (st : AccStage) : Prop where
  access : s.acc? s.ev.n = some a
  stage  : a.stage = st
  wave   : s.wave? a.wave = some w
  here   : ∀ i, w.loc ≠ .saved i
  calm   : w.episode = none
  tid    : a.tid < w.threads.length
  mask   : ∀ n, a.mask.getLsbD n = true → n < w.threads.length
  entry  : a.entry = none

/-- exec completes an access (R30, R75, R166): it is outstanding no more, the registers from its destination take rs, and its threads the sticky
bits; store counters and flags count one operation less. No byte of memory and no other wave changes. -/
def Completes (i : Instr) (s : State) (a : Access) (w : Wave) (rs : List Reg) (fp : BitVec 5) (err : Word)
    (P : Thread → Thread → Prop := fun _ _ => True) : Prop :=
  Answers i s fun u => u.mem = s.mem ∧ u.acc? a.id = none ∧ ∃ w', WaveLeft s u w w' ∧
    (∀ f, f < 63 → readReg w' (w'.th a.tid) f =
      if a.dst ≤ f ∧ f < a.dst + rs.length then rs.getD (f - a.dst) Reg.zero else readReg w (w.th a.tid) f) ∧
    ∀ n, a.mask.getLsbD n = true →
      (w'.th n).errstat = (w.th n).errstat ||| err ∧ (w'.th n).fpstat = (w.th n).fpstat ||| fp.zeroExtend 32 ∧
      (w'.th n).stores = (w.th n).stores - (if a.counts then 1 else 0) ∧
      (∀ f, f < 12 → a.flags = [(n, f)] → (w'.th n).flags[f]?.getD 0 = (w.th n).flags[f]?.getD 0 - 1) ∧ P (w.th n) (w'.th n)

/-- Bytes of an access's address on, of the line it holds. -/
def Access.at (a : Access) (j : Nat) : Word := (a.data >>> (8 * (a.pa % 64) + 32 * j)).truncate 32

/-- A poisoned word of the line it holds, counted from its address. -/
def Access.bad (a : Access) (j : Nat) : Bool := a.psn.getLsbD (a.pa % 64 / 4 + j)

/-- Memory after a write of n bytes at an address. -/
def Memory.Wrote (m m' : Memory) (a n : Nat) (byte : Nat → Byte) : Prop := ∀ c, m'.byte c = if a ≤ c ∧ c < a + n then byte (c - a) else m.byte c

/-! ## Commands (R233, R235) -/

/-- A wave whose bundle has posted a command: its threads go on, their flag counting one more operation and their store counters risen by k, or
wait as `held` says. -/
def Wave.posted (s : State) (w : Wave) (held : Option Wake) (k : Nat) : Wave :=
  w.bundle s.issue.mask fun _ th => match held with
    | some x => { th with cond := .blocked x, since := s.cycle, pc := s.issue.pc, rep := s.issue.repPc }
    | none => { th.on s.issue with stores := th.stores + k }.attach (th.flagOf s.issue.s)

/-- A command that P describes has been posted since s by wave w, and the event by which its work begins is due. -/
def State.Posted (s u : State) (w : Wave) (row : Instr) (held : Option Wake) (k : Nat) (c : Cmd) : Prop :=
  WaveLeft s u w (w.posted s held k) ∧ u.cmds = s.cmds ++ [c] ∧ c.id = s.nextId ∧ c.wave = w.id ∧ c.stage = .queued ∧
    u.agenda = s.agenda ++ [evn row c.id]

/-- A place is free for the command of thread t, and exec posts it as P describes; no byte of memory changes. -/
def Posts (i : Instr) (s : State) (w : Wave) (t : Nat) (row : Instr) (held : Option Wake) (k : Nat) (P : Cmd → Prop) : Prop :=
  s.room w t i = true → Answers i s fun u => u.mem = s.mem ∧ ∃ c, s.Posted u w row held k c ∧ P c

/-- The read of a descriptor of n bytes at va by wave w is aligned and permitted, line by line; s1 is the state its translation leaves. -/
def State.Permits (s : State) (w : Wave) (va : DWord) (n : Nat) (s1 : State) : Prop :=
  va.toNat % min n 64 = 0 ∧ s.walkerBusy (s.who w) va = false ∧ s.descScan (s.who w) va ((n + 63) / 64) = (s1, [])

/-- A place is free for the command of thread t, whose descriptor of n bytes wave w may read, and exec posts it as P describes: in a state s2 with
the memory of s1 it stands as posted, and then its engine reads the descriptor as far as it lies here (R163, R238). Q says what becomes of the state that the read
leaves. A descriptor in one line of plain memory is then with the command. -/
def PostsDesc (i : Instr) (s s1 : State) (w : Wave) (t n : Nat) (va : DWord) (row : Instr) (held : Option Wake) (P : Cmd → Prop)
    (Q : State → State → Prop := fun r u => u = r) : Prop :=
  s.room w t i = true → s.Permits w va n s1 → Answers i s fun u => ∃ s2 c, s2.mem = s1.mem ∧ s1.Posted s2 w row held 0 c ∧ c.a = va ∧ P c ∧
    Q (s2.readDesc c n 8).1 u ∧
    ∀ pa, n ≤ 64 → s2.resolve (s2.cmdWho c) .read va false = (s2, .ok pa 0) → pkgOf pa = s2.fab.pkg → s2.windowAt pa = none → isMemory (localOf pa) = true →
      s2.walkerBusy (s2.cmdWho c) va = false → s2.mustWait c.vd (localOf pa / 64) = none →
      ∃ c' ∈ u.cmds, c'.id = c.id ∧ c'.bytes = s1.mem.bytes (localOf pa) n

/-- A register's value as an operand of a command. -/
def Wave.arg (w : Wave) (t : Nat) (f : BitVec 6) : DWord := (w.opnd t f).val.zeroExtend 64

/-! ## Tile commands (R223) -/

/-- Entry e of the sequencer q of block b is the tile command in progress. -/
structure State.Tile (s : State) (b : Block) (q : Seq) (e : SeqEntry) : Prop where
  now   : s.seqNow = some (b, q, e)
  block : s.block? b.id = some b
  seq   : b.seq = some q
  name  : e.no = s.issue.entry

/-- A sequencer whose entry has retired. -/
def Seq.without (q : Seq) (e : SeqEntry) : Seq := { q with win := q.win.filter fun z => z.no != e.no }

/-- exec answers a state in which block b has become b'; no wave and no byte of memory changes. -/
def BlockLeft (i : Instr) (s : State) (b b' : Block) : Prop := Answers i s fun u => u.mem = s.mem ∧ u.waves = s.waves ∧ u.block? b.id = some b'

/-- The event in progress names a command of a wave that is not saved and runs no episode. -/
structure State.Works (s : State) (c : Cmd) (w : Wave) : Prop where
  command : s.cmd? s.ev.n = some c
  wave    : s.wave? c.wave = some w
  here    : ∀ i, w.loc ≠ .saved i
  calm    : w.episode = none
  tid     : c.tid < w.threads.length
  mask    : ∀ n, c.mask.getLsbD n = true → n < w.threads.length

/-- exec ends a command (R235): it is outstanding no more, its register takes x where it has one, ERRSTAT takes err in its threads, and the flag it
held counts one operation less. No other wave changes. Q describes what else holds of the new state, P how each thread goes on. -/
def Ends (i : Instr) (s : State) (c : Cmd) (w : Wave) (x : Option Word) (err : Word) (Q : State → Prop := fun _ => True)
    (P : Thread → Thread → Prop := fun _ _ => True) : Prop :=
  Answers i s fun u => u.cmd? c.id = none ∧ Q u ∧ ∃ w', WaveLeft s u w w' ∧
    (∀ f, f < 63 → readReg w' (w'.th c.tid) f = match x with
      | some v => if f = c.dst then ⟨v, false⟩ else readReg w (w.th c.tid) f
      | none => readReg w (w.th c.tid) f) ∧
    ∀ n, c.mask.getLsbD n = true → (w'.th n).errstat = (w.th n).errstat ||| err ∧
      (∀ f, f < 12 → c.flags = [(n, f)] → (w'.th n).flags[f]?.getD 0 = (w.th n).flags[f]?.getD 0 - 1) ∧ P (w.th n) (w'.th n)

/-- A fire of slot j of operator o has joined the work of the OE of every member that holds rows, and is due there (R208, R209, log 49). -/
def State.Fires (u : State) (o : Operator) (j : Nat) : Prop :=
  ∀ i, i < o.d.span → o.d.rowsOf i ≠ 0 → evn .fireStart (o.lead + i) ∈ u.agenda ∧
    ∃ f ∈ u.fires, f.oe = o.lead + i ∧ f.op = o.uid ∧ f.slot = j ∧ f.running = false ∧ f.tile = none

/-- A thread that waited for the command's effect goes on at the next word. -/
def Cmd.resumes (c : Cmd) (k : Wake) (th th' : Thread) : Prop := th.cond = .blocked k → c.flags = [] → th'.cond = .run ∧ th'.pc = th.pc + 4

/-! ## Fabric messages (R355, R362, R366) -/

/-- The message in progress, of a class, reaches lit optics, is new, of a package that is present, and its turn has come: C2 has no order. -/
structure State.Arrives (s : State) (cls : Nat) : Prop where
  here : s.ev.hdr.dst = s.me
  lit  : s.plat.pscur ≠ 3
  up   : s.peerUp s.ev.hdr.src.toNat = true
  next : cls = 2 ∨ s.fab.expected (s.ev.hdr.src, cls) = s.ev.hdr.seq.toNat
  new  : s.fab.delivered (s.ev.hdr.src, cls) s.ev.hdr.seq.toNat = false

/-- A message of this package: to a package, for a VD, as an event that arrives there reads it. -/
def Msg.says (m : Msg) (s : State) (dst : BitVec 7) (vd : Nat) (e : Event) : Prop :=
  m.src = s.me ∧ m.dst = dst ∧ m.vd = vd ∧ (m.cls, m.kind, m.pay) = e.wire

/-- One message to a package that is present has been sent since s: it is kept until it is acknowledged and waits for a window, with no flit sent, or it waits
for room, behind others of its destination and class, while 4,096 of them or 256 MiB are unacknowledged (R362, R365). -/
def State.Sends (s u : State) (dst : BitVec 7) (vd : Nat) (e : Event) : Prop :=
  ∃ m : Msg, m.says s dst vd e ∧
    if s.fab.waits m.dst m.cls = true ∨ s.fab.full m.dst m.cls m.flits = true then u.fab.waiting = s.fab.waiting ++ [m]
    else ∃ q : Outgoing, u.fab.queue = s.fab.queue ++ [q] ∧ u.fab.unacked = s.fab.unacked ++ [q.msg] ∧ q.msg.says s dst vd e ∧ q.relay = false ∧ q.sent = 0

/-- Nothing has been sent since s. -/
def State.Silent (s u : State) : Prop := u.fab.queue = s.fab.queue ∧ u.fab.unacked = s.fab.unacked ∧ u.fab.waiting = s.fab.waiting

/-- No watch of another package that has its place waits on a line of n bytes from a local address (R179). -/
def State.Unwatched (s : State) (la n : Nat) : Prop := ∀ x ∈ s.fab.watches, x.placed = true → x.addr / 64 ∉ linesOf la n

/-- A command of the collective engine can end at once: it is not ending yet, and no access of its engine is on its way. -/
def State.CanEnd (s : State) (c : Cmd) : Prop := c.status < 512 ∧ s.cmdBusy c.id = false

/-- A local address of memory that a message names: no frame kept from it, no operator window. -/
def State.Open (s : State) (pa : Nat) : Prop := s.arrivalCheck pa = none ∧ s.windowAt pa = none ∧ isMemory (localOf pa) = true

end Sys2Proof.Machine
end

