-- ==== Sys2Proof/Certificates/Slice0/Obligations.lean ====
section
/-!
DEFINITION. The statements about this machine, from the numbered rules of the spec.
-/

open Sys2Proof Sys2Proof.Machine

/-! ## Integer instructions (chapter 05) -/

/-- R117: the arithmetic instructions complete, with the result in D in every active thread and nothing else changed; a poisoned operand gives the
poisoned result of R109. R85, R118: a zero divisor gives all ones, or the dividend, and sets ERRSTAT.IZ unless it is poisoned; IADDS sets no flag; LEA
adds without a check. -/
def Obligations.IntegerArithmetic : Prop :=
  (∀ (s : State) (w : Wave), s.Running w → ∀ (d a b : BitVec 6) (m : BitVec 8) (t : BitVec 1),
    GivesReg (.iadd d a b) s w d (fun n => res2 poisonInt (w.opnd n a) (w.opnd n b) fun x y => x + y) ∧
    GivesReg (.iaddi d a m) s w d (fun n => res1 poisonInt (w.opnd n a) fun x => x + immSigned s.issue.himm m 32) ∧
    GivesReg (.isub d a b) s w d (fun n => res2 poisonInt (w.opnd n a) (w.opnd n b) fun x y => x - y) ∧
    GivesReg (.iadds d a b t) s w d (fun n => res2 poisonInt (w.opnd n a) (w.opnd n b) fun x y =>
      if t = 0 then BitVec.ofInt 32 (max (-2 ^ 31) (min (2 ^ 31 - 1) (x.toInt + y.toInt))) else BitVec.ofNat 32 (min (2 ^ 32 - 1) (x.toNat + y.toNat))) ∧
    GivesReg (.imul d a b) s w d (fun n => res2 poisonInt (w.opnd n a) (w.opnd n b) fun x y => x * y) ∧
    GivesReg (.imulh d a b t) s w d (fun n => res2 poisonInt (w.opnd n a) (w.opnd n b) fun x y =>
      (if t = 0 then x.signExtend 64 * y.signExtend 64 else x.zeroExtend 64 * y.zeroExtend 64).extractLsb' 32 32) ∧
    GivesReg (.imad d a b) s w d (fun n => res3 poisonInt (w.opnd n d) (w.opnd n a) (w.opnd n b) fun z x y => z + x * y) ∧
    GivesReg (.imin d a b t) s w d (fun n => res2 poisonInt (w.opnd n a) (w.opnd n b) fun x y =>
      if (if t = 0 then y.slt x else y.ult x) then y else x) ∧
    GivesReg (.imax d a b t) s w d (fun n => res2 poisonInt (w.opnd n a) (w.opnd n b) fun x y =>
      if (if t = 0 then x.slt y else x.ult y) then y else x) ∧
    GivesReg (.iabs d a) s w d (fun n => res1 poisonInt (w.opnd n a) fun x => if x.slt 0 then -x else x) ∧
    GivesReg (.ineg d a) s w d (fun n => res1 poisonInt (w.opnd n a) fun x => -x)) ∧
  (∀ (s : State) (w : Wave), s.Running w → ∀ (d a b : BitVec 6) (t : BitVec 1),
    let zero := fun n => !(w.opnd n b).psn && (w.opnd n b).val == 0
    GivesReg (.idiv d a b t) s w d (fun n => res2 poisonInt (w.opnd n a) (w.opnd n b) fun x y =>
      if y = 0 then BitVec.allOnes 32 else if t = 0 then x.sdiv y else x / y) (fun _ => 0) zero ∧
    GivesReg (.irem d a b t) s w d (fun n => res2 poisonInt (w.opnd n a) (w.opnd n b) fun x y =>
      if y = 0 then x else if t = 0 then x.srem y else x % y) (fun _ => 0) zero) ∧
  (∀ (s : State) (w : Wave), s.Running w → ∀ (d a b : BitVec 6) (t : BitVec 1) (k : BitVec 2),
    (let bad := fun n => (w.opnd2 n d).2 || (w.opnd n a).psn || (w.opnd n b).psn
     let sum := fun n => (w.opnd2 n d).1 + (if t = 0 then (w.opnd n a).val.signExtend 64 * (w.opnd n b).val.signExtend 64
       else (w.opnd n a).val.zeroExtend 64 * (w.opnd n b).val.zeroExtend 64)
     GivesPair (.imadw d a b t) s w d (fun n => if bad n then ⟨poisonInt, true⟩ else ⟨lowWord (sum n), false⟩)
       (fun n => if bad n then ⟨poisonInt, true⟩ else ⟨highWord (sum n), false⟩)) ∧
    (let bad := fun n => (w.opnd2 n a).2 || (w.opnd n b).psn
     let sum := fun n => (w.opnd2 n a).1 + (w.opnd n b).val.signExtend 64 <<< k.toNat
     GivesPair (.lea d a b k) s w d (fun n => if bad n then ⟨poisonInt, true⟩ else ⟨lowWord (sum n), false⟩)
       (fun n => if bad n then ⟨poisonInt, true⟩ else ⟨highWord (sum n), false⟩)))

/-- R119: the logic, shift and bit-field instructions complete. A shift by 32 or more gives 0, or 32 copies of the sign. -/
def Obligations.LogicShiftsAndFields : Prop :=
  (∀ (s : State) (w : Wave), s.Running w → ∀ (d a b : BitVec 6) (m : BitVec 8),
    GivesReg (.and d a b) s w d (fun n => res2 poisonInt (w.opnd n a) (w.opnd n b) fun x y => x &&& y) ∧
    GivesReg (.or d a b) s w d (fun n => res2 poisonInt (w.opnd n a) (w.opnd n b) fun x y => x ||| y) ∧
    GivesReg (.xor d a b) s w d (fun n => res2 poisonInt (w.opnd n a) (w.opnd n b) fun x y => x ^^^ y) ∧
    GivesReg (.andn d a b) s w d (fun n => res2 poisonInt (w.opnd n a) (w.opnd n b) fun x y => x &&& ~~~y) ∧
    GivesReg (.not d a) s w d (fun n => res1 poisonInt (w.opnd n a) fun x => ~~~x) ∧
    GivesReg (.andi d a m) s w d (fun n => res1 poisonInt (w.opnd n a) fun x => x &&& immUnsigned s.issue.himm m 32) ∧
    GivesReg (.ori d a m) s w d (fun n => res1 poisonInt (w.opnd n a) fun x => x ||| immUnsigned s.issue.himm m 32) ∧
    GivesReg (.xori d a m) s w d (fun n => res1 poisonInt (w.opnd n a) fun x => x ^^^ immUnsigned s.issue.himm m 32)) ∧
  (∀ (s : State) (w : Wave), s.Running w → ∀ (d a b : BitVec 6) (k : BitVec 5) (t : BitVec 1),
    let pos := fun (y : Word) => y.toNat % 32
    let len := fun (y : Word) => min (y.toNat / 256 % 64) (32 - pos y)
    GivesReg (.shl d a b) s w d (fun n => res2 poisonInt (w.opnd n a) (w.opnd n b) fun x y => x <<< y.toNat) ∧
    GivesReg (.shrl d a b) s w d (fun n => res2 poisonInt (w.opnd n a) (w.opnd n b) fun x y => x >>> y.toNat) ∧
    GivesReg (.shra d a b) s w d (fun n => res2 poisonInt (w.opnd n a) (w.opnd n b) fun x y => x.sshiftRight y.toNat) ∧
    GivesReg (.shli d a k) s w d (fun n => res1 poisonInt (w.opnd n a) fun x => x <<< k.toNat) ∧
    GivesReg (.shrli d a k) s w d (fun n => res1 poisonInt (w.opnd n a) fun x => x >>> k.toNat) ∧
    GivesReg (.shrai d a k) s w d (fun n => res1 poisonInt (w.opnd n a) fun x => x.sshiftRight k.toNat) ∧
    GivesReg (.rotl d a b) s w d (fun n => res2 poisonInt (w.opnd n a) (w.opnd n b) fun x y => x.rotateLeft y.toNat) ∧
    GivesReg (.bfx d a b t) s w d (fun n => res2 poisonInt (w.opnd n a) (w.opnd n b) fun x y =>
      if t = 0 then (x.extractLsb' (pos y) (len y)).signExtend 32 else (x.extractLsb' (pos y) (len y)).zeroExtend 32) ∧
    GivesReg (.bfi d a b) s w d (fun n => res3 poisonInt (w.opnd n d) (w.opnd n a) (w.opnd n b) fun z x y =>
      let m := BitVec.ofNat 32 (2 ^ len y - 1)
      (z &&& ~~~(m <<< pos y)) ||| ((x &&& m) <<< pos y)) ∧
    GivesReg (.popc d a) s w d (fun n => res1 poisonInt (w.opnd n a) fun x => BitVec.ofNat 32 ((List.range 32).countP fun j => x.getLsbD j)) ∧
    GivesReg (.clz d a) s w d (fun n => res1 poisonInt (w.opnd n a) fun x => if x = 0 then 32 else BitVec.ofNat 32 (31 - x.toNat.log2)) ∧
    GivesReg (.brev d a) s w d (fun n => res1 poisonInt (w.opnd n a) fun x => x.reverse))

/-- R120: the packed INT8 instructions complete; PADD4 with M = 3 is reserved. -/
def Obligations.PackedBytes : Prop :=
  (∀ (s : State) (w : Wave), s.Running w → ∀ (d a b : BitVec 6) (t : BitVec 1),
    let e := fun (x : Word) (j : Nat) => x.extractLsb' (8 * j) 8
    let ext := fun (x : Word) (j : Nat) => if t = 0 then (e x j).signExtend 32 else (e x j).zeroExtend 32
    let pack := fun (f : Nat → BitVec 8) => ((f 3 ++ f 2 ++ f 1 ++ f 0 : Word))
    GivesReg (.pdot4 d a b t) s w d (fun n => res3 poisonInt (w.opnd n d) (w.opnd n a) (w.opnd n b) fun z x y =>
      z + ext x 0 * ext y 0 + ext x 1 * ext y 1 + ext x 2 * ext y 2 + ext x 3 * ext y 3) ∧
    GivesReg (.padd4 d a b) s w d (fun n => res2 poisonInt (w.opnd n a) (w.opnd n b) fun x y => pack fun j => e x j + e y j) ∧
    GivesReg (.padd4Ss d a b) s w d (fun n => res2 poisonInt (w.opnd n a) (w.opnd n b) fun x y =>
      pack fun j => BitVec.ofInt 8 (max (-128) (min 127 ((e x j).toInt + (e y j).toInt)))) ∧
    GivesReg (.padd4Us d a b) s w d (fun n => res2 poisonInt (w.opnd n a) (w.opnd n b) fun x y =>
      pack fun j => BitVec.ofNat 8 (min 255 ((e x j).toNat + (e y j).toNat)))) ∧
  (∀ d a b : BitVec 6, decodeWord (0#2 ++ 0#2 ++ 0x25#8 ++ d ++ a ++ b ++ 3#2) = .error .reserved)

/-! ## Moves, selectors and control registers (chapters 02 and 05) -/

/-- R114, R121, R160: LDI, MOV, SEL and the poison instructions complete; MOV and SEL move value and poison. -/
def Obligations.MovesAndPoison : Prop :=
  ∀ (s : State) (w : Wave), s.Running w → ∀ (d a b : BitVec 6) (m : BitVec 14) (p : BitVec 2),
    GivesReg (.ldi d m) s w d (fun _ => ⟨immSigned s.issue.himm m 32, false⟩) ∧
    GivesReg (.mov d a) s w d (fun n => w.opnd n a) ∧
    GivesReg (.sel d a b p) s w d (fun n => if p = 0 ∨ (w.th n).preds.getLsbD (p.toNat - 1) then w.opnd n a else w.opnd n b) ∧
    GivesReg (.psnq d a) s w d (fun n => ⟨if (w.opnd n a).psn then 1 else 0, false⟩) ∧
    GivesReg (.psns d a) s w d (fun n => ⟨(w.opnd n a).val, true⟩) ∧
    GivesReg (.psnc d a) s w d (fun n => ⟨(w.opnd n a).val, false⟩)

/-- R44, R45: MOVS completes with the selector's value: thread, wave, threads of the wave, package and VD; for a thread on a lane its lane, core and
cluster; for a thread of a launch its block, the waves of its role, the grid and the launch id; SLOTNOW and CYCLE in a pair. A Vent thread has no
place in a launch or on a lane, and what those selectors read there is free (log 31). -/
def Obligations.Selectors : Prop :=
  ∀ (s : State) (w : Wave), s.Running w → ∀ d : BitVec 6,
    GivesReg (.movs d 0x00) s w d (fun n => ⟨BitVec.ofNat 32 n, false⟩) ∧
    GivesReg (.movs d 0x01) s w d (fun _ => ⟨BitVec.ofNat 32 w.wid, false⟩) ∧
    GivesReg (.movs d 0x03) s w d (fun _ => ⟨BitVec.ofNat 32 w.threads.length, false⟩) ∧
    GivesReg (.movs d 0x09) s w d (fun _ => ⟨BitVec.ofNat 32 s.fab.pkg, false⟩) ∧
    GivesReg (.movs d 0x0A) s w d (fun _ => ⟨BitVec.ofNat 32 w.agentVd, false⟩) ∧
    (∀ cl core lane, w.loc = .lane cl core lane → w.role ≠ .vent →
      GivesReg (.movs d 0x06) s w d (fun _ => ⟨BitVec.ofNat 32 lane, false⟩) ∧
      GivesReg (.movs d 0x07) s w d (fun _ => ⟨BitVec.ofNat 32 core, false⟩) ∧
      GivesReg (.movs d 0x08) s w d (fun _ => ⟨BitVec.ofNat 32 cl, false⟩)) ∧
    (∀ b l, w.role ≠ .vent → s.block? w.block = some b → s.launch? b.launch = some l →
      GivesReg (.movs d 0x02) s w d (fun _ => ⟨BitVec.ofNat 32 b.blkid, false⟩) ∧
      GivesReg (.movs d 0x04) s w d (fun _ => ⟨BitVec.ofNat 32 (if w.role = .copy then l.recd.cwaves else l.recd.vwaves), false⟩) ∧
      GivesReg (.movs d 0x05) s w d (fun _ => ⟨BitVec.ofNat 32 l.recd.grid, false⟩) ∧
      GivesReg (.movs d 0x0B) s w d (fun _ => ⟨l.id, false⟩)) ∧
    GivesPair (.movs d 0x0C) s w d
      (fun _ => ⟨if s.fab.locked then lowWord s.fab.slotnow else 0xFFFFFFFF, false⟩)
      (fun _ => ⟨if s.fab.locked then highWord s.fab.slotnow else 0xFFFFFFFF, false⟩) ∧
    GivesPair (.movs d 0x0D) s w d (fun _ => ⟨BitVec.ofNat 32 s.cycle, false⟩) (fun _ => ⟨BitVec.ofNat 32 (s.cycle / 2 ^ 32), false⟩)

/-- R47: a MOVC read completes with the control register's value, LNK and RGNPC in a pair. R27, R28, R34, R35, R47: a MOVC write of unpoisoned
operands completes: LNK takes the pair; FPSTAT takes bits 6 to 0; ERRSTAT clears each bit written as 1; QUANT and RAHCTL take the lowest active
thread's value, as far as they have bits. -/
def Obligations.ControlRegisters : Prop :=
  (∀ (s : State) (w : Wave), s.Running w → ∀ d : BitVec 6,
    GivesPair (.movcRead d 0x20) s w d (fun n => ⟨lowWord (w.th n).lnk, false⟩) (fun n => ⟨highWord (w.th n).lnk, false⟩) ∧
    GivesPair (.movcRead d 0x21) s w d (fun n => ⟨lowWord (w.th n).rgnpc, false⟩) (fun n => ⟨highWord (w.th n).rgnpc, false⟩) ∧
    GivesReg (.movcRead d 0x22) s w d (fun n => ⟨(w.th n).rgncnt, false⟩) ∧
    GivesReg (.movcRead d 0x23) s w d (fun n => ⟨(w.th n).fpstat, false⟩) ∧
    GivesReg (.movcRead d 0x24) s w d (fun n => ⟨(w.th n).errstat, false⟩) ∧
    GivesReg (.movcRead d 0x25) s w d (fun _ => ⟨w.quant, false⟩) ∧
    GivesReg (.movcRead d 0x26) s w d (fun _ => ⟨w.rahctl, false⟩)) ∧
  (∀ (s : State) (w : Wave), s.Running w → ∀ a : BitVec 6,
    ((∀ n, s.issue.mask.getLsbD n → (w.opnd2 n a).2 = false) →
      GivesThreads (.movcWrite a 0x20) s w fun n => { (w.th n).on s.issue with lnk := (w.opnd2 n a).1 }) ∧
    ((∀ n, s.issue.mask.getLsbD n → (w.opnd n a).psn = false) →
      GivesThreads (.movcWrite a 0x23) s w (fun n => { (w.th n).on s.issue with fpstat := (w.opnd n a).val &&& 0x7F }) ∧
      GivesThreads (.movcWrite a 0x24) s w (fun n => { (w.th n).on s.issue with errstat := (w.th n).errstat &&& ~~~(w.opnd n a).val }) ∧
      (let x := (w.opnd (lowest s.issue.mask) a).val
       let threads := mapFrom (fun n th => if s.issue.mask.getLsbD n then th.on s.issue else th) 0 w.threads
       exec (.movcWrite a 0x25) s = .next (s.mapWave w.id fun _ => { w with threads := threads, quant := x &&& 0xFF }) ∧
       exec (.movcWrite a 0x26) s = .next (s.mapWave w.id fun _ => { w with threads := threads, rahctl := x &&& 0x3FFFFFF }))))

/-! ## Predicates and wave operations (chapter 05) -/

/-- R64, R110, R122, R147: a compare completes with the predicate written, p0 staying true; a compute thread with a poisoned operand raises
POISON with the position of the first one instead, and its predicates stay. A uniform compare (p0, k operands) is executed for the lowest active thread
alone (R21): that its POISON is raised there only, and that the other threads go on, is the model's choice (log 8). Of a Vent
thread, which enters its next level at a trap, only the form without a poisoned operand is spoken of. -/
def Obligations.Compares : Prop :=
  ∀ (s : State) (w : Wave), s.Running w → ∀ (p : BitVec 2) (c : BitVec 4) (a b : BitVec 6) (m : BitVec 8),
    let cmp := fun (i : Instr) (pa pb : Nat → Bool) (r : Nat → Bool) =>
      (w.role ≠ .vent ∨ ∀ n, s.issue.mask.getLsbD n = true → pa n = false ∧ pb n = false) → GivesThreads i s w fun n =>
      if s.source i n = n ∧ pa n then (w.th n).raise .poison 0 1 s.issue.repPc 0 s.cycle
      else if s.source i n = n ∧ pb n then (w.th n).raise .poison 0 2 s.issue.repPc 0 s.cycle
      else { (w.th n).on s.issue with preds := if p = 0 then (w.th n).preds else
        ((w.th n).preds &&& ~~~(1#3 <<< (p.toNat - 1))) ||| ((BitVec.ofBool (r n)).zeroExtend 3 <<< (p.toNat - 1)) }
    let r := fun (x y : Word) => match c.toNat with
      | 0 | 8 => x == y | 1 | 9 => x != y
      | 2 => x.slt y | 3 => x.sle y | 4 => y.slt x | 5 => y.sle x
      | 10 => x.ult y | 11 => x.ule y | 12 => y.ult x | _ => y.ule x
    (Instr.fieldsOk (.icmp p c a b) →
      cmp (.icmp p c a b) (fun n => (w.opnd n a).psn) (fun n => (w.opnd n b).psn) (fun n => r (w.opnd n a).val (w.opnd n b).val) ∧
      cmp (.icmpi p c a m) (fun n => (w.opnd n a).psn) (fun _ => false) (fun n => r (w.opnd n a).val (immSigned s.issue.himm m 32))) ∧
    (Instr.fieldsOk (.fcmp p c a b) →
      cmp (.fcmp p c a b) (fun n => (w.opnd n a).psn) (fun n => (w.opnd n b).psn)
        (fun n => fcond c.toNat (decF (w.opnd n a).val) (decF (w.opnd n b).val)))

/-- R65, R123, R124: PLOG writes the entry of its truth table that three predicates select; PMOV moves the four predicates as bits 0 to 3, with p0
reading 1 and its write discarded. -/
def Obligations.PredicateMoves : Prop :=
  ∀ (s : State) (w : Wave), s.Running w → ∀ (p x y z : BitVec 2) (t : BitVec 8) (d a : BitVec 6),
    let pred := fun (n : Nat) (q : BitVec 2) => q == 0 || (w.th n).preds.getLsbD (q.toNat - 1)
    (p ≠ 0 → GivesThreads (.plog p x y z t) s w fun n => { (w.th n).on s.issue with preds :=
      (((w.th n).preds &&& ~~~(1#3 <<< (p.toNat - 1))) |||
        ((BitVec.ofBool (t.getLsbD ((if pred n x then 4 else 0) + (if pred n y then 2 else 0) + (if pred n z then 1 else 0)))).zeroExtend 3 <<<
          (p.toNat - 1))) }) ∧
    GivesThreads (.plog 0 x y z t) s w (fun n => (w.th n).on s.issue) ∧
    GivesReg (.pmovToReg d) s w d (fun n => ⟨((w.th n).preds ++ 1#1).zeroExtend 32, false⟩) ∧
    ((∀ n, s.issue.mask.getLsbD n → (w.opnd n a).psn = false) →
      GivesThreads (.pmovToPreds a) s w fun n => { (w.th n).on s.issue with preds := (w.opnd n a).val.extractLsb' 1 3 })

/-- R125: the reductions, votes and shuffles complete over the bundle; a poisoned value anywhere in it poisons a reduction or a vote, and a shuffle
from outside the bundle gives the thread's own value. -/
def Obligations.WaveOperations : Prop :=
  ∀ (s : State) (w : Wave), s.Running w → ∀ (d a b : BitVec 6),
    let all' := fun (i : Instr) (f : List (Nat × Word) → Word) => GivesReg i s w d fun _ =>
      if (s.group i).any (fun n => (w.opnd n a).psn) then ⟨poisonInt, true⟩ else ⟨f ((s.group i).map fun n => (n, (w.opnd n a).val)), false⟩
    let shfl := fun (i : Instr) (src : Nat → Nat → Option Nat) =>
      (∀ n, s.issue.mask.getLsbD n → (w.opnd n b).psn = false) → GivesReg i s w d fun n =>
        match src n (w.opnd n b).val.toNat with
        | some u => if u ∈ s.group i then w.opnd u a else w.opnd n a
        | none => w.opnd n a
    all' (.wredAdd d a) (fun l => (l.map (·.2)).foldl (fun x y => x + y) (0 : Word)) ∧
    all' (.wredMin d a) (fun l => (l.map (·.2)).foldl (fun x y => if y.slt x then y else x) (0x7FFFFFFF : Word)) ∧
    all' (.wredMax d a) (fun l => (l.map (·.2)).foldl (fun x y => if x.slt y then y else x) (0x80000000 : Word)) ∧
    all' (.wredOr d a) (fun l => (l.map (·.2)).foldl (fun x y => x ||| y) (0 : Word)) ∧
    all' (.voteAny d a) (fun l => if l.any (fun x => x.2 != 0) then 1 else 0) ∧
    all' (.voteAll d a) (fun l => if l.all (fun x => x.2 != 0) then 1 else 0) ∧
    all' (.voteBallot d a) (fun l => l.foldl (fun (r : Word) (x : Nat × Word) => if x.2 = 0#32 then r else r ||| 1#32 <<< x.1) 0#32) ∧
    shfl (.shflIdx d a b) (fun _ k => some (k % 32)) ∧
    shfl (.shflUp d a b) (fun n k => if k ≤ n then some (n - k) else none) ∧
    shfl (.shflDown d a b) (fun n k => if n + k < 32 then some (n + k) else none) ∧
    shfl (.shflXor d a b) (fun n k => some (n ^^^ (k % 32)))

/-! ## Floating point (chapters 04 and 06) -/

/-- R144 to R147: the FP32 arithmetic instructions complete: the exact result rounded once in the mode in force, the flags set, the poisoned result
from a poisoned operand; FABS and FNEG give the canonical NaN for a NaN. -/
def Obligations.FloatArithmetic : Prop :=
  ∀ (s : State) (w : Wave), s.Running w → ∀ (d a b : BitVec 6),
    let sat := s.issue.sat == 1
    let of1 := fun (f : Word → Word × BitVec 5) (_ : Mode) (l : List Word) => f (l.getD 0 0)
    let nan := fun (x : Word) => x &&& 0x7FFFFFFF > 0x7F800000
    GivesFloat (.fadd d a b) s w d [a, b] (fun m l => f32Result m sat (fvAdd m (decF (l.getD 0 0)) (decF (l.getD 1 0)))) ∧
    GivesFloat (.fsub d a b) s w d [a, b] (fun m l => f32Result m sat (fvAdd m (decF (l.getD 0 0)) (decF (l.getD 1 0)).neg)) ∧
    GivesFloat (.fmul d a b) s w d [a, b] (fun m l => f32Result m sat (fvMul (decF (l.getD 0 0)) (decF (l.getD 1 0)))) ∧
    GivesFloat (.ffma d a b) s w d [d, a, b]
      (fun m l => f32Result m sat (fvFma m (decF (l.getD 0 0)) (decF (l.getD 1 0)) (decF (l.getD 2 0)))) ∧
    GivesFloat (.fscale d a b) s w d [a, b]
      (fun m l => f32Result m sat ((decF (l.getD 0 0)).scale (max (-600) (min 600 (l.getD 1 0).toInt)), false)) ∧
    GivesFloat (.fmin d a b) s w d [a, b] (fun _ l => (fMinMax false (l.getD 0 0) (l.getD 1 0), 0)) ∧
    GivesFloat (.fmax d a b) s w d [a, b] (fun _ l => (fMinMax true (l.getD 0 0) (l.getD 1 0), 0)) ∧
    GivesFloat (.fabs d a) s w d [a] (of1 fun x => (if nan x then 0x7FC00000 else x &&& 0x7FFFFFFF, 0)) ∧
    GivesFloat (.fneg d a) s w d [a] (of1 fun x => (if nan x then 0x7FC00000 else x ^^^ 0x80000000, 0)) ∧
    GivesFloat (.fclass d a) s w d [a] (of1 fun x => (1 <<< (
      if nan x then 8
      else if x = 0xFF800000 then 0 else if x = 0x7F800000 then 7
      else if x = 0x80000000 then 3 else if x = 0 then 4
      else if x &&& 0x7F800000 = 0 then (if x.msb then 2 else 5)
      else if x.msb then 1 else 6), 0))

/-- R89, R90: RDN of a positive value and RUP of a negative one are RTZ; in every mode the result of a value that does not overflow is the one that
RTZ gives or the next code of greater magnitude; and all modes set the same flags unless one of them overflows. R88, R90, R144: an invalid operation
gives the canonical NaN and sets NV; a NaN operand of FADD or FMUL gives the canonical NaN and sets nothing; an exact zero sum of operands of
opposite sign is +0, and −0 in RDN. -/
def Obligations.RoundingAndSpecials : Prop :=
  (∀ (m : Nat) (e : Int), m ≠ 0 → ∀ (md : Mode) (s : Bool),
    (fp32.round .rdn false m e).1 = (fp32.round .rtz false m e).1 ∧
    (fp32.round .rup true m e).1 = (fp32.round .rtz true m e).1 ∧
    ((fp32.round md s m e).2 &&& fOF = 0 →
      ((fp32.round md s m e).1 = (fp32.round .rtz s m e).1 ∨ (fp32.round md s m e).1 = (fp32.round .rtz s m e).1 + 1) ∧
      (fp32.round md s m e).2 = (fp32.round .rtz s m e).2)) ∧
  (∀ (m : Mode) (sat : Bool) (x y : FVal) (n : Nat) (e : Int),
    f32Result m sat (fvAdd m (.inf true) (.inf false)) = (0x7FC00000, fNV) ∧
    f32Result m sat (fvMul (.fin true 0 e) (.inf false)) = (0x7FC00000, fNV) ∧
    (x = .nan ∨ y = .nan → f32Result m sat (fvAdd m x y) = (0x7FC00000, 0) ∧ f32Result m sat (fvMul x y) = (0x7FC00000, 0)) ∧
    f32Result m sat (fvAdd m (.fin true n e) (.fin false n e)) = (if m = .rdn then 0x80000000 else 0, 0))

/-- R98, R148: the nine functions complete whatever the rounding mode, each with the model's function of its operand, and the special operands of R148
have its results: NaN, infinite, zero and negative operands, 1.0 for FLG2, whole numbers for FSINP. That the model's functions round every other result
correctly is argued in log 25 and is no clause here. -/
def Obligations.FloatFunctions : Prop :=
  ∀ (s : State) (w : Wave), s.Running w → ∀ (d a b : BitVec 6),
    let of1 := fun (i : Instr) (f : FVal → Word × BitVec 5) => GivesFloat i s w d [a] (fun _ l => f (decF (l.getD 0 0)))
    GivesFloat (.fdiv d a b) s w d [a, b] (fun _ l => (fDivR (decF (l.getD 0 0)) (decF (l.getD 1 0))).word) ∧
    of1 (.fsqrt d a) (fun x => (fSqrtR x).word) ∧ of1 (.frcp d a) (fun x => (fRcpR x).word) ∧ of1 (.frsq d a) (fun x => (fRsqR x).word) ∧
    of1 (.fex2 d a) (fun x => (fEx2R x).word) ∧ of1 (.flg2 d a) (fun x => (fLg2R x).word) ∧ of1 (.fsinp d a) (fun x => (fSinCosR false x).word) ∧
    of1 (.fcosp d a) (fun x => (fSinCosR true x).word) ∧ of1 (.ftanh d a) (fun x => (fTanhR x).word) ∧
  ∀ (s t : Bool) (n m : Nat) (e f : Int), 0 < m →
    let inf := fun (s : Bool) => if s then 0xFF800000#32 else 0x7F800000#32
    let zero := fun (s : Bool) => if s then 0x80000000#32 else 0#32
    let nan := fun (r : FRes) => r.word = (0x7FC00000, 0)
    let invalid := fun (r : FRes) => r.word = (0x7FC00000, fNV)
    (∀ x, nan (fDivR .nan x) ∧ nan (fDivR x .nan)) ∧ nan (fSqrtR .nan) ∧ nan (fRcpR .nan) ∧ nan (fRsqR .nan) ∧ nan (fEx2R .nan) ∧ nan (fLg2R .nan) ∧
    (∀ c, nan (fSinCosR c .nan)) ∧ nan (fTanhR .nan) ∧
    (fDivR (.fin s m e) (.fin t 0 f)).word = (inf (s != t), fDZ) ∧ invalid (fDivR (.fin s 0 e) (.fin t 0 f)) ∧ invalid (fDivR (.inf s) (.inf t)) ∧
    (fDivR (.inf s) (.fin t n f)).word = (inf (s != t), 0) ∧ (fDivR (.fin s n e) (.inf t)).word = (zero (s != t), 0) ∧
    (fSqrtR (.fin s 0 e)).word = (zero s, 0) ∧ invalid (fSqrtR (.fin true m e)) ∧ invalid (fSqrtR (.inf true)) ∧ (fSqrtR (.inf false)).word = (inf false, 0) ∧
    (fRcpR (.fin s 0 e)).word = (inf s, fDZ) ∧ (fRcpR (.inf s)).word = (zero s, 0) ∧
    (fRsqR (.fin s 0 e)).word = (inf s, fDZ) ∧ invalid (fRsqR (.fin true m e)) ∧ invalid (fRsqR (.inf true)) ∧ (fRsqR (.inf false)).word = (0, 0) ∧
    (fEx2R (.inf true)).word = (0, 0) ∧ (fEx2R (.inf false)).word = (inf false, 0) ∧ (fEx2R (.fin s 0 e)).word = (0x3F800000, 0) ∧
    (fLg2R (.fin s 0 e)).word = (inf true, fDZ) ∧ invalid (fLg2R (.fin true m e)) ∧ invalid (fLg2R (.inf true)) ∧ (fLg2R (.inf false)).word = (inf false, 0) ∧
    (fLg2R (decF 0x3F800000)).word = (0, 0) ∧
    (∀ c, invalid (fSinCosR c (.inf s))) ∧ (fSinCosR false (.fin s n 0)).word = (zero s, 0) ∧
    (fTanhR (.inf s)).word = (if s then 0xBF800000 else 0x3F800000, 0) ∧ (fTanhR (.fin s 0 e)).word = (zero s, 0)

/-- R149, R150: the conversions complete. FCVTI of the F8E4 code 0x80 gives the poisoned result. R155, R156: TSCL completes with the computed scale
of the block group's elements in every active thread, or the poisoned result where one of them is poisoned. -/
def Obligations.ConversionsAndScale : Prop :=
  (∀ (s : State) (w : Wave), s.Running w → ∀ (d a f : BitVec 6) (t : BitVec 1),
    let sat := s.issue.sat == 1
    let mode := fun (n : Nat) => modeOf s.issue.rnd (w.th n).fpstat
    let int := fun (n : Nat) => if t = 0 then cvtInt (mode n) (-2 ^ 31) (2 ^ 31 - 1) (decF (w.opnd n a).val)
      else cvtInt (mode n) 0 (2 ^ 32 - 1) (decF (w.opnd n a).val)
    let fmt := BFmt.ofSel f.toNat
    GivesFloat (.frnd d a) s w d [a] (fun m l => frndWord m (decF (l.getD 0 0))) ∧
    GivesReg (.f2i d a t) s w d (fun n => if (w.opnd n a).psn then ⟨0x80000000, true⟩ else ⟨BitVec.ofInt 32 (int n).1, false⟩)
      (fun n => if (w.opnd n a).psn then 0 else (int n).2) ∧
    GivesFloat (.i2f d a t) s w d [a] (fun m l => roundF m (ofInt (if t = 0 then (l.getD 0 0).toInt else (l.getD 0 0).toNat))) ∧
    GivesFloat (.fcvto d a f) s w d [a] (fun m l => (BitVec.ofNat 32 (fmt.enc m sat (decF (l.getD 0 0))).1, (fmt.enc m sat (decF (l.getD 0 0))).2)) ∧
    GivesReg (.fcvti d a f) s w d (fun n =>
      let x := (w.opnd n a).val.toNat % 2 ^ fmt.width
      if (w.opnd n a).psn ∨ (fmt = .f8e4 ∧ x = 0x80) then ⟨0x7FC00000, true⟩ else ⟨(roundF .rne (fmt.dec x)).1, false⟩)) ∧
  (∀ (s : State) (w : Wave), s.Running w → ∀ (d a f : BitVec 6),
    let l := (s.group (.tscl d a f)).flatMap fun n => ((List.range (groupSize f)).filter fun j => n + 32 * j < (BFmt.ofSel f.toNat).count).map
      fun j => readReg w (w.th n) (a.toNat + j)
    GivesReg (.tscl d a f) s w d (fun _ =>
      if l.any (·.psn) then ⟨0x7FC00000, true⟩ else ⟨BitVec.ofInt 32 (computedScale (BFmt.ofSel f.toNat) (l.map fun x => decF x.val)), false⟩))

/-- R151, R152: the packed pairs complete: each half is rounded once, and the flags of both are set; HDOT2 rounds its two products, their sum and
the sum with D. -/
def Obligations.PackedFloats : Prop :=
  ∀ (s : State) (w : Wave), s.Running w → ∀ (d a b : BitVec 6),
    let sat := s.issue.sat == 1
    let two := fun (i : Instr) (ops : List (BitVec 6)) (f : Fmt) (g : Mode → List FVal → FVal × Bool) =>
      GivesFloat i s w d ops fun m l =>
        let lo := f.result m sat (g m (l.map fun x => f.dec (x.toNat % 65536)))
        let hi := f.result m sat (g m (l.map fun x => f.dec (x.toNat / 65536)))
        (BitVec.ofNat 32 (hi.1 * 65536 + lo.1), lo.2 ||| hi.2)
    let at' := fun (l : List FVal) (n : Nat) => l.getD n .nan
    let dot := fun (i : Instr) (f : Fmt) => GivesFloat i s w d [d, a, b] fun m l =>
      let half := fun (n k : Nat) => f.dec (if k = 0 then (l.getD n 0).toNat % 65536 else (l.getD n 0).toNat / 65536)
      let p := fun k => f32Result m false (fvMul (half 1 k) (half 2 k))
      let q := f32Result m false (fvAdd m (decF (p 0).1) (decF (p 1).1))
      let r := f32Result m sat (fvAdd m (decF (l.getD 0 0)) (decF q.1))
      (r.1, (p 0).2 ||| (p 1).2 ||| q.2 ||| r.2)
    two (.hadd2 d a b) [a, b] fp16 (fun m l => fvAdd m (at' l 0) (at' l 1)) ∧
    two (.hmul2 d a b) [a, b] fp16 (fun _ l => fvMul (at' l 0) (at' l 1)) ∧
    two (.hfma2 d a b) [d, a, b] fp16 (fun m l => fvFma m (at' l 0) (at' l 1) (at' l 2)) ∧
    two (.badd2 d a b) [a, b] bf16 (fun m l => fvAdd m (at' l 0) (at' l 1)) ∧
    two (.bmul2 d a b) [a, b] bf16 (fun _ l => fvMul (at' l 0) (at' l 1)) ∧
    two (.bfma2 d a b) [d, a, b] bf16 (fun m l => fvFma m (at' l 0) (at' l 1) (at' l 2)) ∧
    dot (.hdot2F16 d a b) fp16 ∧ dot (.hdot2Bf16 d a b) bf16

/-! ## Control flow (chapters 03 and 05) -/

/-- R26, R126: BRA, BRP and CALL complete at the target their offset in words gives from their own address; CALL writes LNK with the address after
it. JMPI, CALLI and RET complete at an aligned target of an unpoisoned pair, or of LNK. R26, R110, R265: an active thread of JMPI, CALLI or RET with a
poisoned or misaligned target raises POISON or ALIGN at the instruction, with LNK kept, while the others complete. -/
def Obligations.ControlTransfers : Prop :=
  (∀ (s : State) (w : Wave), s.Running w → ∀ (o : BitVec 20) (q : BitVec 17) (p : BitVec 2) (k : BitVec 1) (a : BitVec 6),
    let after := s.issue.pc + 4
    GivesThreads (.bra o) s w (fun n => { w.th n with pc := s.issue.pc + immSigned s.issue.himm o 64 <<< 2 }) ∧
    GivesThreads (.brp p k q) s w (fun n =>
      if (p == 0 || (w.th n).preds.getLsbD (p.toNat - 1)) != (k == 1) then { w.th n with pc := s.issue.pc + immSigned s.issue.himm q 64 <<< 2 }
      else (w.th n).on s.issue) ∧
    GivesThreads (.call o) s w (fun n => { w.th n with pc := s.issue.pc + immSigned s.issue.himm o 64 <<< 2, lnk := after }) ∧
    ((∀ n, s.issue.mask.getLsbD n → (w.opnd2 n a).2 = false ∧ (w.opnd2 n a).1.extractLsb' 0 2 = 0#2) →
      GivesThreads (.jmpi a) s w (fun n => { w.th n with pc := (w.opnd2 n a).1 }) ∧
      GivesThreads (.calli a) s w (fun n => { w.th n with pc := (w.opnd2 n a).1, lnk := after })) ∧
    ((∀ n, s.issue.mask.getLsbD n → (w.th n).lnk.extractLsb' 0 2 = 0#2) → GivesThreads .ret s w (fun n => { w.th n with pc := (w.th n).lnk }))) ∧
  (∀ (s : State) (w : Wave), s.Running w → w.role ≠ .vent → ∀ a : BitVec 6,
    let go := fun (n : Nat) (x : DWord) (th : Thread) =>
      if x.extractLsb' 0 2 = 0#2 then th else (w.th n).raise .align 0 (lowWord x) s.issue.repPc x s.cycle
    GivesThreads (.jmpi a) s w (fun n =>
      if (w.opnd2 n a).2 then (w.th n).raise .poison 0 1 s.issue.repPc 0 s.cycle
      else go n (w.opnd2 n a).1 { w.th n with pc := (w.opnd2 n a).1 }) ∧
    GivesThreads (.calli a) s w (fun n =>
      if (w.opnd2 n a).2 then (w.th n).raise .poison 0 1 s.issue.repPc 0 s.cycle
      else go n (w.opnd2 n a).1 { w.th n with pc := (w.opnd2 n a).1, lnk := s.issue.pc + 4 }) ∧
    GivesThreads .ret s w (fun n => go n (w.th n).lnk { w.th n with pc := (w.th n).lnk }))

/-- R69, R70, R72, R73, R74, R130, R136: a prefix is kept for its target with its bundle, HCLS opens a clause in each active thread, RGN marks a
region entry, YIELD and the reserved hints only go on; each completes and changes nothing else. -/
def Obligations.PrefixesAndHints : Prop :=
  ∀ (s : State) (w : Wave), s.Running w → ∀ (p : BitVec 22) (r : BitVec 3) (t c : BitVec 2) (m : BitVec 12) (a b : BitVec 4) (h : BitVec 1)
    (g : BitVec 3) (x : BitVec 20),
    let on := w.bundle s.issue.mask fun _ th => th.on s.issue
    Becomes (.himm p) s w { on with pfx := some ⟨s.issue.mask, s.issue.rnd, s.issue.sat, s.issue.cp, some p, s.issue.repPc⟩ } ∧
    Becomes (.hmod r t c) s w { on with pfx := some ⟨s.issue.mask, r, t, c, none, s.issue.repPc⟩ } ∧
    Becomes (.hcls m a b) s w (w.bundle s.issue.mask fun _ th => { th.on s.issue with clause := ⟨m, a, b⟩ }) ∧
    Becomes .rgn s w (w.bundle s.issue.mask fun _ th => { th.on s.issue with rgnpc := s.issue.pc + 4, rgncnt := th.rgncnt + 1 }) ∧
    Becomes .yield s w on ∧ Becomes (.hintReservedF6 h x) s w on ∧ Becomes (.hintReservedF8 g x) s w on

/-- R39, R137: a VGROW to no more than the allocation and a VSHRINK to no less only go on; a greater VGROW is requested and its threads block; a
smaller VSHRINK completes with the registers it frees at 0 when no load to one of them is outstanding, and else waits with its target kept. -/
def Obligations.RegisterAllocation : Prop :=
  ∀ (s : State) (w : Wave), s.Running w → ∀ n : BitVec 3, Instr.fieldsOk (.vgrow n) →
    let on := w.bundle s.issue.mask fun _ th => th.on s.issue
    let k := 8 * n.toNat
    (k ≤ w.alloc → Becomes (.vgrow n) s w on) ∧
    (w.alloc ≤ k → Becomes (.vshrink n) s w on) ∧
    (w.alloc < k → Answers (.vgrow n) s fun t => ∃ w', WaveLeft s t w w' ∧ w'.vgt = max w.vgt k ∧ w'.alloc = w.alloc ∧
      ∀ i, s.issue.mask.getLsbD i → (w'.th i).cond = .blocked (.vgrow (max w.vgt k)) ∧ (w'.th i).v = (w.th i).v) ∧
    (k < w.alloc → s.loadsAbove w.id k = false → Answers (.vshrink n) s fun t => ∃ w', WaveLeft s t w w' ∧ w'.alloc = k ∧
      ∀ i, s.issue.mask.getLsbD i → (w'.th i).pc = s.issue.pc + 4 ∧
        ∀ f, f < 48 → getV (w'.th i) f = if f < k then getV (w.th i) f else ⟨0, false⟩) ∧
    (k < w.alloc → s.loadsAbove w.id k = true → Answers (.vshrink n) s fun t => ∃ w', WaveLeft s t w w' ∧ w'.alloc = w.alloc ∧ w'.vshr = k)

/-- R128: EXIT completes: every active thread is exited and is a member of no rejoin mask; its registers and memory are left.
R132 to R134: JSET replaces mask j by the PC group of its bundle unless every active thread is a member; JOIN blocks the members at the instruction
and lets the others pass; JDROP takes the active threads out of the mask. Registers and memory are left. -/
def Obligations.ExitAndRejoin : Prop :=
  (∀ (s : State) (w : Wave), s.Running w → (∀ i, w.loc ≠ .saved i) → s.Unsaved w.block →
    Answers .exit s fun t => t.mem = s.mem ∧ ∃ w', t.wave? w.id = some w' ∧ w'.k = w.k ∧
      ∀ n, s.issue.mask.getLsbD n → (w'.th n).cond = .exited ∧ (w'.th n).v = (w.th n).v ∧ ∀ j, j < 8 → (w'.mask j).getLsbD n = false) ∧
  (∀ (s : State) (w : Wave), s.Running w → ∀ j : BitVec 3,
    let old := w.mask j.toNat
    let left := fun (t : State) (w' : Wave) => WaveLeft s t w w' ∧ t.mem = s.mem ∧ w'.k = w.k ∧ ∀ n, (w'.th n).v = (w.th n).v
    (Answers (.jset j) s fun t => ∃ w', left t w' ∧
      (∀ n, n < 32 → (w'.mask j.toNat).getLsbD n = if s.issue.mask &&& ~~~old = 0 then old.getLsbD n
        else decide (n < w.threads.length) && decide ((w.th n).pc = s.issue.pc) && decide ((w.th n).cond ≠ .exited)) ∧
      ∀ n, s.issue.mask.getLsbD n → (w.th n).cond = .run → (w.th n).pc = s.issue.pc → (w'.th n).pc = s.issue.pc + 4) ∧
    (Answers (.join j) s fun t => ∃ w', left t w' ∧ w'.mask j.toNat = old ∧
      ∀ n, s.issue.mask.getLsbD n → if old.getLsbD n then (w'.th n).cond = .blocked (.join j) ∧ (w'.th n).pc = s.issue.pc
        else (w'.th n).pc = s.issue.pc + 4) ∧
    (Answers (.jdrop j) s fun t => ∃ w', left t w' ∧ w'.mask j.toNat = old &&& ~~~s.issue.mask ∧
      ∀ n, s.issue.mask.getLsbD n → (w'.th n).pc = s.issue.pc + 4))

/-! ## Waits, fences, barriers and rings (chapter 07) -/

/-- R172, R186: a fence completes with its bundle gone on and, where it acquires at .cluster or wider, no line left in the core's L1 and remote-read
path; INVL1 empties them at any scope; ACKQ gives the store counter. R187: a thread whose flags under the mask are clear goes on at WAITF, and any
other blocks to issue it again; the clause and the registers are left. -/
def Obligations.FencesAndFlags : Prop :=
  (∀ (s : State) (w : Wave), s.Running w → ∀ (c : BitVec 3) (d : BitVec 6),
    let on := w.bundle s.issue.mask fun _ th => th.on s.issue
    let acquires := fun (i : Instr) => Answers i s fun t => WaveLeft s t w on ∧ t.mem = s.mem ∧
      (2 ≤ c.toNat → ∀ l ∈ t.caches, l.core ≠ w.coreNo) ∧ (c.toNat < 2 → t.caches = s.caches)
    acquires (.fenceFull c) ∧ acquires (.fenceAcq c) ∧ Becomes (.fenceRel c) s w on ∧
    (Answers .invl1 s fun t => WaveLeft s t w on ∧ t.mem = s.mem ∧ ∀ l ∈ t.caches, l.core ≠ w.coreNo) ∧
    GivesReg (.ackq d) s w d (fun n => ⟨BitVec.ofNat 32 (w.th n).stores, false⟩)) ∧
  (∀ (s : State) (w : Wave), s.Running w → ∀ a : BitVec 6, (∀ n, s.issue.mask.getLsbD n → (w.opnd n a).psn = false) →
    Becomes (.waitf a) s w (w.bundle s.issue.mask fun n th =>
      let m : BitVec 12 := (w.opnd n a).val.extractLsb' 0 12
      if (List.range 12).all (fun f => !(m.getLsbD f && th.flag f)) then th.on s.issue
      else { th with cond := .blocked (.waitf m), since := s.cycle, pc := s.issue.repPc, rep := s.issue.repPc }))

/-- R180: a thread's arrival at a barrier is counted. At BARA it goes on; at BAR it waits for the phase, and when its arrival is the one that
completes the phase it goes on at once, the phase number rises and the count returns to 0. At BARW it waits for the phase of its own last arrival,
if that has not completed. -/
def Obligations.BarrierArrival : Prop :=
  ∀ (s : State) (w : Wave) (blk : Block) (a : BitVec 6) (n : BitVec 4) (t : Nat),
    s.Running w → w.role ≠ .vent → s.Unsaved w.block → s.issue.mask = 1#32 <<< t → s.block? w.block = some blk → blk.bars.length = 16 → (w.opnd t a).psn = false →
    (w.th t).cond = .run → (w.th t).pc = s.issue.pc → a ≠ 63 → (blk.bar n.toNat).all = false →
    let x := blk.bar n.toNat
    let want := if x.count = 0 then (w.opnd t a).val.toNat else x.expect
    let counted := fun (u : State) => ∃ b', u.block? w.block = some b' ∧
      ((b'.bar n.toNat).phase = if x.count + 1 < want then x.phase else x.phase + 1) ∧ (b'.bar n.toNat).count = if x.count + 1 < want then x.count + 1 else 0
    (Answers (.bara a n) s fun u => u.mem = s.mem ∧ counted u ∧ ∃ w', u.wave? w.id = some w' ∧ (w'.th t).cond = .run ∧ (w'.th t).pc = s.issue.pc + 4) ∧
    (Answers (.bar a n) s fun u => u.mem = s.mem ∧ counted u ∧ ∃ w', u.wave? w.id = some w' ∧
      if x.count + 1 < want then (w'.th t).cond = .blocked (.bar n x.phase) ∧ (w'.th t).pc = s.issue.pc
      else (w'.th t).cond = .run ∧ (w'.th t).pc = s.issue.pc + 4) ∧
    Becomes (.barw n) s w (w.bundle s.issue.mask fun _ th =>
      if (th.barPhase[n.toNat]?).getD none = some x.phase then { th with cond := .blocked (.bar n x.phase), since := s.cycle, pc := s.issue.pc, rep := s.issue.repPc }
      else th.on s.issue)

/-- R182, R183: RGET and RTAKE complete with the offset of the next slot in D where one is available, and otherwise their bundle blocks; the counts,
indices and phases of the ring move by one slot. R182, R183: RPUT fills the oldest slot its side was given and RFREE frees the oldest slot that was
taken, where no bundle and no tile sequencer waits for it; used out of order each raises PROT with the ring's number in the lowest active thread, and the
others go on (log 8). -/
def Obligations.StageRings : Prop :=
  (∀ (s : State) (w : Wave) (blk : Block) (d : BitVec 6) (r : BitVec 3) (x : Ring),
    s.Running w → s.block? w.block = some blk → blk.rings[r.toNat]? = some x →
    let next := fun (y : RIdx) => if y.i + 1 = x.n then (⟨0, !y.ph⟩ : RIdx) else ⟨y.i + 1, y.ph⟩
    let gives := fun (t : State) (x' : Ring) (off : Nat) => t.mem = s.mem ∧ t.ring? w.block r.toNat = some x' ∧
      ∃ w', t.wave? w.id = some w' ∧ ∀ n, s.issue.mask.getLsbD n → (w'.th n).pc = s.issue.pc + 4 ∧
        (d.toNat < 63 → readReg w' (w'.th n) d.toNat = ⟨BitVec.ofNat 32 off, false⟩)
    (x.free ≠ 0 → Answers (.rget d r) s fun t => gives t { x with free := x.free - 1, g := next x.g } (x.o + x.g.i * x.b)) ∧
    (x.filled ≠ 0 → Answers (.rtake d r) s fun t => gives t { x with filled := x.filled - 1, k := next x.k } (x.o + x.k.i * x.b)) ∧
    (x.free = 0 → Becomes (.rget d r) s w (w.bundle s.issue.mask fun _ th =>
      { th with cond := .blocked (.rget r (some d)), since := s.cycle, pc := s.issue.pc, rep := s.issue.repPc })) ∧
    (x.filled = 0 → Becomes (.rtake d r) s w (w.bundle s.issue.mask fun _ th =>
      { th with cond := .blocked (.rtake r (some d)), since := s.cycle, pc := s.issue.pc, rep := s.issue.repPc }))) ∧
  (∀ (s : State) (w : Wave) (blk : Block) (r : BitVec 3) (x : Ring),
    s.Running w → w.role ≠ .vent → s.block? w.block = some blk → blk.seq = none → blk.rings[r.toNat]? = some x →
    (∀ v ∈ s.waves, v.episode = none ∧ ∀ th ∈ v.threads, ∀ x, th.cond ≠ .blocked (.rtake r x) ∧ th.cond ≠ .blocked (.rget r x)) →
    let next := fun (y : RIdx) => if y.i + 1 = x.n then (⟨0, !y.ph⟩ : RIdx) else ⟨y.i + 1, y.ph⟩
    let on := fun (t : State) => t.mem = s.mem ∧ ∃ w', t.wave? w.id = some w' ∧ ∀ n, s.issue.mask.getLsbD n → (w'.th n).pc = s.issue.pc + 4
    let trapped := w.bundle s.issue.mask fun n th => if n = lowest s.issue.mask then th.raise .prot 0 (r.zeroExtend 32) s.issue.repPc 0 s.cycle else th.on s.issue
    (x.u ≠ x.g → Answers (.rput r) s fun t => on t ∧ t.ring? w.block r.toNat = some { x with filled := x.filled + 1, u := next x.u }) ∧
    (x.e ≠ x.k → Answers (.rfree r) s fun t => on t ∧ t.ring? w.block r.toNat = some { x with free := x.free + 1, e := next x.e }) ∧
    (x.u = x.g → Becomes (.rput r) s w trapped) ∧ (x.e = x.k → Becomes (.rfree r) s w trapped))

/-! ## Memory instructions (chapters 04 and 07) -/

/-- R163, R166, R168, R75: a load of one thread completes its issue: the thread goes on with its registers kept, and an access of the given width,
registers and physical address is under way. LDA first takes the acquire actions of its scope (R173). -/
def Obligations.LoadIssue : Prop :=
  ∀ (s s1 : State) (w : Wave) (t pa key : Nat) (d a : BitVec 6) (o : BitVec 8) (x : BitVec 2) (c : BitVec 3),
    s.Running w → s.Fresh → s.issue.mask = 1#32 <<< t → (w.opnd2 t a).2 = false →
    let off := fun (n : BitVec 64) => (w.opnd2 t a).1 + immSigned s.issue.himm o 64 * n
    let starts := fun (i : Instr) (n r : Nat) (kind : AccKind) (rows : List Instr) => Starts i s s1 w 0
      (fun y => y.kind = kind ∧ y.pa = pa ∧ y.keyid = key ∧ y.size = n ∧ y.dst = d.toNat ∧ y.nreg = r ∧ y.tid = t) rows
    let load := fun (i : Instr) (n r : Nat) => s.Resolves w .read (off n) n s1 pa key → starts i n r .load [.homeAccess, .loadDataArrival]
    load (.ldb d a o) 1 1 ∧ load (.ldh d a o) 2 1 ∧ load (.ldw d a o) 4 1 ∧ load (.ldd d a o) 8 2 ∧ load (.ldq d a o) 16 4 ∧
    (x ≠ 3 → (s.acquire w.coreNo c.toNat).Resolves w .read (w.opnd2 t a).1 (4 * 2 ^ x.toNat) s1 pa key →
      starts (.lda d a x c) (4 * 2 ^ x.toNat) (2 ^ x.toNat) (.lda c.toNat) [.homeAccess]) ∧
    ((w.opnd t d).psn = false → s.Resolves w .read (off 64) 64 s1 pa key →
      starts (.tld d a o) 64 1 (.tld (w.opnd t d).val.toNat (w.modeBits s.issue t) (s.issue.sat == 1)) [.homeAccess, .loadDataArrival]) ∧
    (s.Resolves w .read (off 64) 64 s1 pa key → starts (.tldh d a o) 64 1 .tldh [.homeAccess, .loadDataArrival]) ∧
    ((s.tlbFind (s.bundleWho w (off 64)) (off 64)).isSome = true → s.Resolves w .prefetch (off 64) 64 s1 pa key →
      Starts (.pref a o) s s1 w 0 (fun y => y.kind = .pref ∧ y.pa = pa ∧ y.keyid = key ∧ y.nreg = 0) [.homeAccess, .loadDataArrival])

/-- R163, R166, R168, R30: a store of one thread completes its issue: the thread goes on with its store counter risen by one, and its access carries
the datum of the given width, an element store its index, mode and saturation, and a block store the block. R155, R157: a block store by one thread
completes its issue: one access of 64 bytes with the block that the thread's elements make, and the FPSTAT bits of their conversion in the thread:
R157 does not say when these are set, and at issue is the model's choice (log 19). -/
def Obligations.StoreIssues : Prop :=
  (∀ (s s1 : State) (w : Wave) (t pa key : Nat) (d a b : BitVec 6) (o : BitVec 8) (c : BitVec 3),
    s.Running w → s.Fresh → s.issue.mask = 1#32 <<< t → (w.opnd2 t a).2 = false →
    let off := fun (n : BitVec 64) => (w.opnd2 t a).1 + immSigned s.issue.himm o 64 * n
    let put := fun (i : Instr) (va : DWord) (n r : Nat) (kind : AccKind) (x : BitVec 512) => w.sound t d r → s.Resolves w .write va n s1 pa key →
      Starts i s s1 w 1 (fun y => y.kind = kind ∧ y.pa = pa ∧ y.keyid = key ∧ y.size = n ∧ y.data = x ∧ y.tid = t) [.homeAccess]
    put (.stb d a o) (off 1) 1 1 .store (((w.opnd t d).val.extractLsb' 0 8).zeroExtend 512) ∧
    put (.sth d a o) (off 2) 2 1 .store (((w.opnd t d).val.extractLsb' 0 16).zeroExtend 512) ∧
    put (.stw d a o) (off 4) 4 1 .store ((w.opnd t d).val.zeroExtend 512) ∧
    put (.std d a o) (off 8) 8 2 .store ((w.dword t d).zeroExtend 512) ∧
    put (.stq d a o) (off 16) 16 4 .store ((w.qword t d).zeroExtend 512) ∧
    put (.stl d a 0 c) (w.opnd2 t a).1 4 1 .store ((w.opnd t d).val.zeroExtend 512) ∧
    put (.stl d a 1 c) (w.opnd2 t a).1 8 2 .store ((w.dword t d).zeroExtend 512) ∧
    put (.stl d a 2 c) (w.opnd2 t a).1 16 4 .store ((w.qword t d).zeroExtend 512) ∧
    ((w.opnd t b).psn = false → put (.tste d a b) (w.opnd2 t a).1 64 1
      (.tste (w.opnd t b).val.toNat (w.modeBits s.issue t) (s.issue.sat == 1)) ((w.opnd t d).val.zeroExtend 512))) ∧
  (∀ (s s1 : State) (w : Wave) (t pa key : Nat) (d a f : BitVec 6) (m : BitVec 2),
    s.Running w → s.Fresh → s.issue.mask = 1#32 <<< t → (w.opnd2 t a).2 = false → (groupRegs w f d [t]).all (fun x => !x.2.2.psn) = true →
    s.Resolves w .write (w.opnd2 t a).1 64 s1 pa key →
    let r := tstwBlock f m w d s.issue [t]
    Answers (.tstw d a f m) s fun u => u.mem = s1.mem ∧
      WaveLeft s u w (w.bundle s.issue.mask fun _ th =>
        { { th.on s.issue with stores := th.stores + 1 }.attach (th.flagOf s.issue.s) with
          fpstat := th.fpstat ||| (r.2.foldl (fun (b : BitVec 5) x => b ||| x.2) 0).zeroExtend 32 }) ∧
      ∃ y ∈ u.accs, y.id = s.nextId ∧ y.kind = .store ∧ y.pa = pa ∧ y.size = 64 ∧ y.data = BitVec.ofNat 512 (leVal r.1) ∧
        u.agenda = s1.agenda ++ [evn .homeAccess y.id])

/-- R176 to R178: an atomic of one thread completes its issue with its operation, scope, datum and, for a compare, the replacement; with .rt the old
value is to return to D. WAITM blocks its thread at the instruction for the reply, and its watch is on its way with its condition and comparand
(R179). -/
def Obligations.AtomicIssue : Prop :=
  ∀ (s s1 : State) (w : Wave) (t pa key : Nat) (d a b : BitVec 6) (r : BitVec 1) (c : BitVec 3) (q : BitVec 2),
    s.Running w → s.Fresh → s.issue.mask = 1#32 <<< t → (w.opnd2 t a).2 = false →
    let at' := fun (i : Instr) (op : AtOp) (n k : Nat) (x : BitVec 512) (y : BitVec 64) =>
      w.sound t d k → s.Resolves w .atomic (w.opnd2 t a).1 n s1 pa key →
      Starts i s s1 w 1 (fun z => z.kind = .atomic op (r == 1) c.toNat ∧ z.pa = pa ∧ z.keyid = key ∧ z.size = n ∧ z.data = x ∧ z.cmp = y ∧
        z.dst = d.toNat ∧ z.nreg = (if r = 1 then n / 4 else 0) ∧ z.tid = t) [.homeAccess]
    let both := fun (i : BitVec 1 → Instr) (op : AtOp) =>
      at' (i 0) op 4 1 ((w.opnd t d).val.zeroExtend 512) 0 ∧ at' (i 1) op 8 2 ((w.dword t d).zeroExtend 512) 0
    both (fun x => .atadd d a r x c) .add ∧ both (fun x => .atsub d a r x c) .sub ∧ both (fun x => .atmins d a r x c) .mins ∧
    both (fun x => .atminz d a r x c) .minz ∧ both (fun x => .atmaxs d a r x c) .maxs ∧ both (fun x => .atmaxz d a r x c) .maxz ∧
    both (fun x => .atand d a r x c) .and ∧ both (fun x => .ator d a r x c) .or ∧ both (fun x => .atxor d a r x c) .xor ∧
    both (fun x => .atxch d a r x c) .xch ∧ both (fun x => .atinc d a r x c) .inc ∧
    at' (.atfadd d a r c) .fadd 4 1 ((w.opnd t d).val.zeroExtend 512) 0 ∧
    at' (.atfmin d a r c) .fmin 4 1 ((w.opnd t d).val.zeroExtend 512) 0 ∧
    at' (.atfmax d a r c) .fmax 4 1 ((w.opnd t d).val.zeroExtend 512) 0 ∧
    at' (.atcas d a r c) .cas 4 2 ((w.nth t d 0).val.zeroExtend 512) ((w.nth t d 1).val.zeroExtend 64) ∧
    at' (.atcas64 d a r c) .cas 8 4 ((w.dword t d).zeroExtend 512) ((w.nth t d 3).val ++ (w.nth t d 2).val) ∧
    ((w.opnd t b).psn = false → s.Resolves w .read (w.opnd2 t a).1 4 s1 pa key →
      Answers (.waitm d a b q) s fun u => u.mem = s1.mem ∧
        WaveLeft s u w (w.bundle s.issue.mask fun _ th => { th with cond := .blocked (.waitm s.nextId), since := s.cycle, pc := s.issue.pc, rep := s.issue.repPc }) ∧
        ∃ y ∈ u.accs, y.id = s.nextId ∧ y.kind = .watch q.toNat ∧ y.pa = pa ∧ y.cmp = (w.opnd t b).val.zeroExtend 64 ∧ y.dst = d.toNat ∧ y.nreg = 1 ∧
          u.agenda = s1.agenda ++ [evn .homeAccess y.id])

/-- R51, R175: LDS and STS complete at issue on aligned offsets inside the block's scratch: LDS gives the bytes to its registers with poison clear,
and R28, R111: a word under an uncorrectable error as a poisoned NaN, with ERRSTAT.PL in the threads that load it;
STS of one thread stores its datum there and changes no other byte of scratch and no byte of memory. -/
def Obligations.Scratch : Prop :=
  ∀ (s : State) (w : Wave) (d a : BitVec 6) (c : BitVec 3) (o : BitVec 5), s.Running w → c.toNat ≤ 4 →
    let lds := Instr.lds d a c o
    let n := 2 ^ c.toNat
    let k := if c.toNat ≤ 2 then 1 else n / 4
    let off := fun t => ((w.opnd t a).val + immSigned s.issue.himm o 32 * BitVec.ofNat 32 n).toNat
    let inside := fun t => (w.opnd t a).psn = false ∧ off t % n = 0 ∧ off t + n ≤ s.ssize w
    let byte := fun t j => if j < n then sget 0 (s.scratchOf w) (off t + j) else 0
    let struck := fun t j => s.scratchStruck w (off t + 4 * j)
    let reg := fun t j => if struck t j then (⟨0x7FC00000, true⟩ : Reg)
      else ⟨byte t (4 * j + 3) ++ byte t (4 * j + 2) ++ byte t (4 * j + 1) ++ byte t (4 * j), false⟩
    let loads := fun t => decide (d.toNat < 48) || lds.uniform || t == lowest s.issue.mask
    ((∀ t, s.issue.mask.getLsbD t → inside t) →
      Gives lds s w (fun t =>
          let th := (List.range k).foldl (fun th j => th.got s.issue (d.toNat + j) (reg t j)) (w.th t)
          if loads t && (List.range k).any (struck t) then { th with errstat := th.errstat ||| ePL } else th)
        ((List.range k).foldl (fun x j => scalarGot x (d.toNat + j) (reg (lowest s.issue.mask) j)) w.k)) ∧
    (∀ (t : Nat) (blk : Block), s.issue.mask = 1#32 <<< t → inside t → w.sound t d k → s.block? w.block = some blk → swf 0 blk.scratch = true →
      Answers (.sts d a c o) s fun u => u.mem = s.mem ∧ WaveLeft s u w (w.bundle s.issue.mask fun _ th => th.on s.issue) ∧
        ∃ b', u.block? w.block = some b' ∧ ∀ j, sget 0 b'.scratch j =
          if off t ≤ j ∧ j < off t + n then (w.qword t d).extractLsb' (8 * (j - off t)) 8 else sget 0 blk.scratch j)

/-- R158, R168, R178, R179: an access to plain memory that is next of its thread is performed at its home, after the grant of the memory controller
where its line has to come from there (R339, R340). A load takes its line; a store writes its bytes, an atomic the new value, an element store its element
of the block, and no other byte changes; a watch is answered, or stays at its slice where that has a place and else is evaluated again. Its reply is then
due. An access behind an earlier one of its thread waits (R169), and one that the controller does not serve yet joins its queue. -/
def Obligations.HomeAccess : Prop :=
  ∀ (s : State) (a : Access), s.acc? s.ev.n = some a → a.stage = .issued → isMemory (localOf a.pa) = true → a.keyid = 0 → s.mem.wf = true →
    s.Fresh → a.size ≤ 64 →
    let la := localOf a.pa
    let line := leVal (s.mem.bytes (64 * (la / 64)) 64)
    let reply := fun (u : State) (x : BitVec 512) (r : Instr) => evn r a.id ∈ u.agenda ∧
      ∃ b, u.acc? a.id = some b ∧ b.stage = .performed ∧ b.data = x ∧ b.kind = a.kind ∧ b.dst = a.dst ∧ b.nreg = a.nreg
    (s.orderedBehind a = true → exec .homeAccess s = .next s) ∧
    (∀ k, s.orderedBehind a = false → s.accWaits a = some k → Answers .homeAccess s fun u => u = { s with arb := u.arb } ∧
      ∃ x ∈ u.arb.queue, x.vd = a.vd ∧ x.line = la / 64 ∧ x.ev = evn .homeAccess a.id) ∧
    (s.orderedBehind a = false → s.accWaits a = none →
      (a.isLoad = true ∨ a.kind = .pref → s.Calm a.vd → Answers .homeAccess s fun u => u.mem.cells = s.mem.cells ∧ reply u (BitVec.ofNat 512 line) .loadDataArrival) ∧
      (a.kind = .store → Answers .homeAccess s fun u => s.mem.Wrote u.mem la a.size (fun j => a.data.extractLsb' (8 * j) 8) ∧
        reply u a.data .storeAck) ∧
      (∀ op rt sc, a.kind = .atomic op rt sc → s.Calm a.vd → Answers .homeAccess s fun u =>
        let old := s.mem.val la a.size
        s.mem.Wrote u.mem la a.size (fun j =>
          BitVec.ofNat 8 ((atomNew op a.size old (a.data.toNat % 2 ^ (8 * a.size)) (a.cmp.toNat % 2 ^ (8 * a.size))).1 / 256 ^ j)) ∧
        reply u (BitVec.ofNat 512 old) .atomicReply) ∧
      (∀ n md sat, a.kind = .tste n md sat → Answers .homeAccess s fun u =>
        s.mem.Wrote u.mem (64 * (la / 64)) 64 (fun j => BitVec.ofNat 8 ((tsteBlock line n (Mode.ofBits md) sat (a.data.truncate 32)).1 / 256 ^ j)) ∧
        reply u a.data .storeAck) ∧
      (∀ c, a.kind = .watch c → Answers .homeAccess s fun u => u.mem.cells = s.mem.cells ∧
        let word := BitVec.ofNat 32 (s.mem.val la 4)
        if watchCond c word (a.cmp.truncate 32) then reply u (word.zeroExtend 512) .waitmReply
        else ∃ b, u.acc? a.id = some b ∧ b.stage = if s.watchRoom la then .watching else .polled))

/-- R28, R111, R153, R154, R166, R168: an arriving load writes its registers, the bytes from its address zero-extended, a word under an
uncorrectable error as a poisoned NaN with ERRSTAT.PL; TLD and TLDH give the element and the header of the block. -/
def Obligations.LoadArrival : Prop :=
  ∀ (s : State) (a : Access) (w : Wave), s.Replied a w .performed →
    let reg := fun j => if a.bad j then (⟨0x7FC00000, true⟩ : Reg)
      else ⟨if a.size = 1 then a.at j &&& 0xFF else if a.size = 2 then a.at j &&& 0xFFFF else a.at j, false⟩
    let rs := (List.range a.nreg).map reg
    let pl := fun (b : Bool) => if b then ePL else 0
    (a.kind = .load ∨ (∃ c, a.kind = .lda c) → Completes .loadDataArrival s a w rs 0 (pl (rs.any (·.psn)))) ∧
    (∀ i md sat, a.kind = .tld i md sat → Completes .loadDataArrival s a w a.regs.1 a.regs.2 (pl (a.regs.1.any (·.psn))) ∧
      a.regs = if a.psn ≠ 0 then ([⟨0x7FC00000, true⟩], 0) else match blkRead a.data.toNat i with
        | none => ([⟨0x7FC00000, true⟩], 0)
        | some v => ([⟨(f32Result (Mode.ofBits md) sat (v, false)).1, false⟩], (f32Result (Mode.ofBits md) sat (v, false)).2)) ∧
    (a.kind = .tldh → Completes .loadDataArrival s a w a.regs.1 0 (pl (a.psn != 0)) ∧
      a.regs.1 = if a.psn ≠ 0 then [⟨0x7FC00000, true⟩]
        else [⟨BitVec.ofNat 32 (a.data.toNat % 2 ^ 16 + (BFmt.ofCode (blkCode a.data.toNat)).count * 2 ^ 16), false⟩])

/-- R28, R30, R111, R166, R177 to R179: the reply of a store, atomic or watch completes it. An atomic with .rt gives the old value, poisoned where its words
were; that such a reply leaves ERRSTAT.PL as it is, is read from R28 and R111, which name loads (log 47). A satisfied watch gives the word and its thread goes on. R179: a watch that found no place is evaluated again: answered where its condition
holds now, and given a place if one is free. A store to the line of a watch evaluates it on the word as the store left it. -/
def Obligations.RepliesAndWatches : Prop :=
  (∀ (s : State) (a : Access) (w : Wave), s.Replied a w .performed →
    (a.kind = .store ∨ (∃ i md sat, a.kind = .tste i md sat) → Completes .storeAck s a w [] a.fp 0) ∧
    (∀ op rt sc, a.kind = .atomic op rt sc → Completes .atomicReply s a w (if rt = false then [] else
      (List.range a.nreg).map fun j => if a.psn &&& a.span ≠ 0 then ⟨0x7FC00000, true⟩ else ⟨(a.data >>> (32 * j)).truncate 32, false⟩) a.fp 0) ∧
    (∀ c, a.kind = .watch c → Completes .waitmReply s a w (List.replicate a.nreg ⟨a.data.truncate 32, false⟩) 0 0 fun th th' =>
      th.cond = .blocked (.waitm a.id) → th'.cond = .run ∧ th'.pc = th.pc + 4)) ∧
  (∀ (s : State) (a : Access) (c : Nat), a.kind = .watch c → a.keyid = 0 →
    let answered := fun (u : State) (b : Access) (word : Word) => b.stage = .performed ∧ b.data = word.zeroExtend 512 ∧ evn .waitmReply a.id ∈ u.agenda
    (s.ev.ok = false → s.acc? s.ev.n = some a → a.stage = .polled →
      let word := BitVec.ofNat 32 (s.mem.val (localOf a.pa) 4)
      Answers .watchReevaluate s fun u => u.mem.cells = s.mem.cells ∧ u.waves = s.waves ∧ ∃ b, u.acc? a.id = some b ∧
        if watchCond c word (a.cmp.truncate 32) then answered u b word
        else b.stage = (if s.watchRoom (localOf a.pa) then .watching else .polled) ∧ u.agenda = s.agenda) ∧
    (∀ x, s.Fresh → s.acc? a.id = some a → a.stage = .watching → s.acc? s.ev.n = some x → x.stage = .issued → x.kind = .store → x.keyid = 0 →
      isMemory (localOf x.pa) = true → s.orderedBehind x = false → s.accWaits x = none → 0 < x.size → a.pa / 64 = s.podAddr 0 / 64 + localOf x.pa / 64 →
      Answers .homeAccess s fun u => ∃ b, u.acc? a.id = some b ∧ let word := BitVec.ofNat 32 (u.mem.val (localOf a.pa) 4)
        if watchCond c word (a.cmp.truncate 32) then answered u b word else b.stage = .watching))

/-- R28, R52, R206: a refused store sets ERRSTAT.SR, a refused load or returning atomic SR and PL with poisoned registers, a failed store SF, where
the VD takes no OPREF trap; the access completes. -/
def Obligations.RefusedAccesses : Prop :=
  ∀ (s : State) (a : Access) (w : Wave) (r : Nat) (cls : TrapClass) (info : Nat),
    let poisoned := List.replicate a.nreg (⟨0x7FC00000, true⟩ : Reg)
    (s.Replied a w (.refused r) → (s.vd a.vd).ctl.optrap.getLsbD 0 = false →
      (a.kind = .store → Completes .storeAck s a w [] 0 eSR) ∧
      (a.kind = .load → Completes .loadDataArrival s a w poisoned 0 (eSR ||| ePL)) ∧
      (∀ op sc, a.kind = .atomic op true sc → Completes .atomicReply s a w poisoned 0 (eSR ||| ePL))) ∧
    (s.Replied a w (.failed cls info) → s.Owned a.vd →
      (a.kind = .store → Completes .storeAck s a w [] 0 eSF) ∧
      (a.kind = .load → a.nreg ≠ 0 → cls = .absent → Completes .loadDataArrival s a w poisoned 0 ePL))

/-! ## Operators, copies, collectives and launches (chapters 08 to 10) -/

/-- R196, R199, R200, R204, R213 to R217: an operator instruction of one thread completes its issue with its command posted to the OE; OPINST when
the read of its descriptor's first line is permitted. OPGRANT and OPWAIT hold their thread; OPFIRE and OPDROP count as stores. OPFENCE goes on. -/
def Obligations.OperatorCommands : Prop :=
  ∀ (s s1 : State) (w : Wave) (t : Nat) (d a b : BitVec 6) (o : BitVec 8),
    s.Running w → s.Fresh → s.issue.mask = 1#32 <<< t → w.role ≠ .copy →
    let ok := fun (f : BitVec 6) => (w.opnd t f).psn = false
    let posts := fun (i : Instr) (op : CmdOp) (row : Instr) (held : Option Wake) (k : Nat) (x y : DWord) (r : Nat) =>
      Posts i s w t row held k fun c => c.op = op ∧ c.eng = .oe ∧ c.a = x ∧ c.b = y ∧ c.dst = r ∧ c.tid = t
    (let va := (w.opnd2 t a).1 + immSigned s.issue.himm o 64 * 128
     ok d → (w.opnd2 t a).2 = false →
       PostsDesc (.opinst d a o) s s1 w t 128 va .opinstComplete none fun c => c.op = .opinst ∧ c.eng = .oe ∧ c.b = w.arg t d ∧ c.tid = t) ∧
    (ok a → posts (.opfree a) .opfree .operatorCommandArrival none 0 (w.arg t a) 0 64 ∧
      posts (.opswap a) .opswap .operatorCommandArrival none 0 (w.arg t a) 0 64) ∧
    (ok a → ok b → posts (.opqry d a b) .opqry .operatorCommandArrival none 0 (w.arg t a) (w.arg t b) d.toNat ∧
      posts (.opfire a b) .opfire .operatorCommandArrival none 1 (w.arg t a) (w.arg t b) 64 ∧
      posts (.opdrop a b) .opdrop .operatorCommandArrival none 1 (w.arg t a) (w.arg t b) 64 ∧
      posts (.opwait d a b) .opwait .operatorCommandArrival (some (.opwait s.nextId)) 0 (w.arg t a) (w.arg t b) d.toNat) ∧
    (ok d → ok a → ok b →
      posts (.opgrant d a b) .opgrant .operatorCommandArrival (some (.effect s.nextId)) 0 (w.arg t a) ((w.opnd t b).val ++ (w.opnd t d).val) 64) ∧
    Becomes .opfence s w (w.bundle s.issue.mask fun _ th => th.on s.issue)

/-- R218, R220: OPSEQ adds the lowest active thread's value to the signal count of its block's tile sequencer; in a block without one every active
thread raises PROT, and on the copy role so it does at every instruction of the vector role given here; of a uniform form only the lowest active
thread does, and the others go on (log 8). -/
def Obligations.SignalsAndRoles : Prop :=
  ∀ (s : State) (w : Wave) (blk : Block) (d a b : BitVec 6) (o : BitVec 8), s.Running w → w.role ≠ .vent → s.block? w.block = some blk →
    let barred := fun (i : Instr) => Becomes i s w (w.bundle s.issue.mask fun n th =>
      if s.source i n = n then th.raise .prot 0 0 s.issue.repPc 0 s.cycle else th.on s.issue)
    (∀ q, blk.seq = some q → w.role ≠ .copy → (w.opnd (lowest s.issue.mask) a).psn = false → Answers (.opseq a) s fun u => u.mem = s.mem ∧
      WaveLeft s u w (w.bundle s.issue.mask fun _ th => th.on s.issue) ∧ ∃ b' q', u.block? w.block = some b' ∧ b'.seq = some q' ∧
        q'.sc = q.sc + w.arg (lowest s.issue.mask) a ∧ q'.pc = q.pc ∧ q'.q = q.q) ∧
    (blk.seq = none → barred (.opseq a)) ∧
    (w.role = .copy → ∀ i ∈ [Instr.opseq a, .opinst d a o, .opfree a, .opswap a, .opqry d a b, .opfire a b, .opdrop a b, .opgrant d a b,
      .opwait d a b, .opfence, .coll d a, .collw d a, .mcast a, .launch d a b], barred i)

/-- R237, R238, R241, R243: the copy and shadow instructions of one thread complete their issue with their command posted, those with a descriptor
when its first read is permitted. SHDW.GEN gives the generation of a bound range, and all ones for a handle not bound. -/
def Obligations.CopyCommands : Prop :=
  ∀ (s s1 : State) (w : Wave) (t : Nat) (d a : BitVec 6) (k : BitVec 2) (l : BitVec 6) (c : BitVec 3),
    s.Running w → s.Fresh → s.issue.mask = 1#32 <<< t →
    let va := (w.opnd2 t a).1
    let desc := fun (i : Instr) (n : Nat) (op : CmdOp) (e : Engine) (r : Nat) => (w.opnd2 t a).2 = false →
      PostsDesc i s s1 w t n va .engineCommandComplete none fun c => c.op = op ∧ c.eng = e ∧ c.dst = r ∧ c.tid = t
    (let dst := if k = 1 then w.arg t d else (w.opnd2 t d).1
     let n := (immUnsigned s.issue.himm l 32).toNat
     k ≠ 3 → (w.opnd2 t a).2 = false → (if k = 1 then (w.opnd t d).psn else (w.opnd2 t d).2) = false → va.toNat % 16 = 0 → dst.toNat % 16 = 0 →
     (k = 1 → w.role ≠ .vent ∧ dst.toNat + 16 * n ≤ s.ssize w) →
       Posts (.cpy d a k l) s w t .engineCommandComplete none 0 fun c =>
         c.op = .cpy k.toNat ∧ c.eng = w.copyEngine ∧ c.a = va ∧ c.b = dst ∧ c.bytes = cpyBytes va dst n k.toNat ∧ c.tid = t) ∧
    desc (.gath a) 64 .gath w.copyEngine 64 ∧ desc (.scat a) 64 .scat w.copyEngine 64 ∧ desc (.cpyw a) 64 .cpyw w.copyEngine 64 ∧
    desc (.shdwBind d a) 32 .bind .shadow d.toNat ∧
    ((w.opnd t a).psn = false →
      (Posts (.shdwFree a) s w t .engineCommandComplete none 0 fun c => c.op = .free ∧ c.eng = .shadow ∧ c.a = w.arg t a ∧ c.tid = t) ∧
      (Posts (.publish a c) s w t .shadowFlip none 0 fun x => x.op = .publish c.toNat ∧ x.eng = .shadow ∧ x.a = w.arg t a ∧ x.tid = t) ∧
      GivesReg (.shdwGen d a) s w d fun n => ⟨((s.rangeOf (s.view (s.who w)) (w.opnd n a).val.toNat).map (·.gen)).getD 0xFFFFFFFF, false⟩)

/-- R245, R246, R248, R249: COLL, MCAST and LAUNCH of one thread complete their issue when the read of their descriptor is permitted; COLL writes
the collective number to D: that it counts the collectives of the package is the model's reading (log 57). R75, R245, R250, R294: COLLW and LWAIT give the status of a collective or launch that has completed, acquiring at .pod, and
0xFF for one never issued; they block while it has not completed, COLLW with the flag its clause selects counting it. -/
def Obligations.CollectivesAndLaunches : Prop :=
  ∀ (s s1 : State) (w : Wave) (t : Nat) (d a b : BitVec 6),
    s.Running w → s.Fresh → s.issue.mask = 1#32 <<< t →
    let va := (w.opnd2 t a).1
    let x := (w.opnd t a).val
    let age := (BitVec.ofNat 32 s.collCount - x).toNat
    (w.role ≠ .copy → (w.opnd2 t a).2 = false →
      (PostsDesc (.coll d a) s s1 w t 64 va .collCombine none (fun c => c.op = .coll ∧ c.eng = .coll ∧ c.tid = t) fun r u =>
        if r.cmd? s.nextId = none then u = r
        else u = { r with collCount := s.collCount + 1, colls := u.colls, waves := u.waves } ∧
          (∃ y ∈ u.colls, y.num = s.collCount % 2 ^ 32 ∧ y.cmd = s.nextId ∧ y.status = none) ∧
          ∀ v, r.wave? w.id = some v → u.wave? w.id = some (v.deliver t d.toNat ⟨BitVec.ofNat 32 (s.collCount % 2 ^ 32), false⟩)) ∧
      (PostsDesc (.mcast a) s s1 w t 64 va .collCombine none (fun c => c.op = .mcast ∧ c.eng = .coll ∧ c.tid = t) fun r u =>
        u = { r with colls := u.colls })) ∧
    (w.role ≠ .copy → (w.opnd2 t a).2 = false → (w.opnd t b).psn = false →
      PostsDesc (.launch d a b) s s1 w t 256 va .engineCommandComplete none fun c =>
        c.op = .launch ((w.opnd t b).val.toNat % 16) ∧ c.eng = .launch ∧ c.dst = d.toNat ∧ c.tid = t) ∧
    (w.role ≠ .copy → (w.opnd t a).psn = false → match s.colls.find? fun y => y.num == x.toNat with
      | none => Returns (.collw d a) s s w d 0xFF
      | some y => if age = 0 ∨ 4096 < age then Returns (.collw d a) s s w d 0xFF else match y.status with
        | some n => Returns (.collw d a) s (s.acquire w.coreNo 5) w d (BitVec.ofNat 32 n)
        | none => Becomes (.collw d a) s w (w.bundle s.issue.mask fun _ th =>
            { th.attach (th.flagOf s.issue.s) with cond := .blocked (.collw x (some d) (th.flagOf s.issue.s)), since := s.cycle, pc := s.issue.pc, rep := s.issue.repPc })) ∧
    ((w.opnd t a).psn = false →
      if s.unissued w.agentVd x = true then Returns (.lwait d a) s s w d 0xFF
      else if s.launches.any (fun l => l.vd == w.agentVd && l.id == x) then Becomes (.lwait d a) s w (w.bundle s.issue.mask fun _ th =>
        { th with cond := .blocked (.lwait x (some d)), since := s.cycle, pc := s.issue.pc, rep := s.issue.repPc })
      else Returns (.lwait d a) s (s.acquire w.coreNo 5) w d
        (match (s.vd w.agentVd).statuses.find? (fun y => y.1 == x) with | some y => BitVec.ofNat 32 y.2 | none => 0xFE))

/-! ## Services and the Vent (chapters 11 and 16) -/

/-- R251, R252, R255: SVC of one compute thread posts its record in the service's call ring where there is room, and the thread blocks for the
reply; with no service it raises PROT. TRAP raises SWT with its code and its operand, or POISON, in every active thread. -/
def Obligations.ComputeCalls : Prop :=
  ∀ (s : State) (w : Wave) (t : Nat) (d a : BitVec 6) (n : BitVec 8), s.Running w → w.role ≠ .vent →
    Becomes (.trap a n) s w (w.bundle s.issue.mask fun u th =>
      if (w.opnd u a).psn then th.raise .poison 0 1 s.issue.repPc 0 s.cycle
      else th.raise .swt 0 (n.zeroExtend 32) s.issue.repPc (w.arg u a) s.cycle) ∧
    (s.issue.mask = 1#32 <<< t → (w.opnd2 t a).2 = false →
      (s.serviceRing w.vd n.toNat = none → Becomes (.svc d a n) s w (w.bundle s.issue.mask fun _ th => th.raise .prot 0 0 s.issue.repPc 0 s.cycle)) ∧
      (∀ r base slots q id, s.serviceRing w.vd n.toNat = some (r, base, slots, q) → s.nextCall w.vd = some id → s.mem.wf = true → w.vd < 64 →
        s.waves.find? (Wave.waitsOn q) = none →
        let x := (s.vd w.vd).ring r
        let slot := x.next % slots
        slot ∉ x.unserved.map (·.1) ++ x.held →
        Answers (.svc d a n) s fun u =>
          WaveLeft s u w (w.bundle s.issue.mask fun _ th => { th with cond := .blocked (.svc (some id)), since := s.cycle, pc := s.issue.pc, rep := s.issue.repPc }) ∧
          s.mem.Wrote u.mem (base + 32 * slot) 32 (fun j => (s.callRecord w t id n.toNat (w.opnd2 t a).1).getD j 0) ∧
          (q < 256 → (u.queue q).pend = (s.queue q).pend ||| 1) ∧
          ∃ c ∈ (u.vd w.vd).calls, c.callid = id ∧ c.wave = w.id ∧ c.tid = t ∧ c.dst = d.toNat))

/-- R49, R257: on a Vent thread at U or S, SVC and TRAP enter the next level: the frame of that level takes the PC after the instruction, the former
level, the information and the argument, no other byte of memory changes, and the thread goes on at the level's vector. RTT comes back to the PC and
the level that the frame of its level holds, but to none above its own (log 14); a PC with bits [1:0] not zero raises ALIGN, which enters the next
level too. TRAP at M stops the thread. -/
def Obligations.VentTraps : Prop :=
  ∀ (s : State) (w : Wave) (th : Thread) (d a : BitVec 6) (n : BitVec 8),
    s.Running w → w.role = .vent → w.threads = [th] → s.issue.mask = 1#32 → s.mem.wf = true →
    let f := s.frameOf w w.level
    let back := s.mem.val f 8
    (∀ up, (w.level = .u ∧ up = .s ∨ w.level = .s ∧ up = .m) →
      let g := s.frameOf w up
      let enters := fun (i : Instr) (pc : DWord) (info : Nat) (arg : DWord) (cls : Option TrapClass) => Answers i s fun u =>
        WaveLeft s u w { w with level := up, pfx := none, threads := [{ th with pc := s.vectorOf w up, cond := .run, since := s.cycle }] } ∧
        u.mem.val g 8 = pc.toNat ∧ u.mem.val (g + 8) 8 = w.level.code ∧ u.mem.val (g + 20) 4 = info ∧
        u.mem.val (g + 24) 8 = arg.toNat ∧ (∀ c, cls = some c → u.mem.val (g + 16) 4 = c.code) ∧
        ∀ c, c < g ∨ g + 32 ≤ c → u.mem.byte c = s.mem.byte c
      ((w.opnd2 0 a).2 = false → enters (.svc d a n) (s.issue.pc + 4) n.toNat (w.opnd2 0 a).1 none) ∧
      ((w.opnd 0 a).psn = false → enters (.trap a n) (s.issue.pc + 4) n.toNat (w.arg 0 a) (some .swt)) ∧
      (back % 4 ≠ 0 → enters .rtt s.issue.repPc (back % 2 ^ 32) 0 (some .align))) ∧
    (w.level = .m → (w.opnd 0 a).psn = false → Answers (.trap a n) s fun u => WaveLeft s u w { w with halted := true, pfx := none }) ∧
    (back % 4 = 0 → Becomes .rtt s w { w with level := Level.ofCode (min w.level.code (s.mem.val (f + 8) 8 % 4)),
                                              threads := [{ th with pc := BitVec.ofNat 64 back }] })

/-- R254, R255: NOTIFY of one thread that the queue is open to ORs its operand into the pending word and goes on, waking the first Vent thread that
waits for the queue; one that it is not open to raises PROT. SLOTQ gives its slot number in a pair. ERRPOP to an aligned address is posted and holds
its thread. -/
def Obligations.QueuesAndErrors : Prop :=
  ∀ (s : State) (w : Wave) (t : Nat) (d a b : BitVec 6), s.Running w → s.issue.mask = 1#32 <<< t →
    let q := (w.opnd t a).val.toNat % 256
    let y := (w.opnd t b).val
    ((w.opnd t a).psn = false → (w.opnd t b).psn = false →
      (s.mayNotify w q = true → (∀ v, s.waves.find? (Wave.waitsOn q) = some v → v.id ≠ w.id) → Answers (.notify a b) s fun u => u.mem = s.mem ∧
        (u.queue q).pend = (s.queue q).pend ||| y ∧ (∀ p, p ≠ q → u.queue p = s.queue p) ∧
        (∃ w', u.wave? w.id = some w' ∧ (w'.th t).pc = s.issue.pc + 4) ∧
        ∀ v, s.waves.find? (Wave.waitsOn q) = some v → (s.queue q).pend ||| y ≠ 0 → v.threads ≠ [] → s.wave? v.id = some v →
          ∃ v', u.wave? v.id = some v' ∧ (v'.th 0).cond = .run ∧ (v'.th 0).pc = (v.th 0).pc + 4) ∧
      (s.mayNotify w q = false → w.role ≠ .vent →
        Becomes (.notify a b) s w (w.bundle s.issue.mask fun _ th => th.raise .prot 0 0 s.issue.repPc 0 s.cycle)) ∧
      (let pair := fun (i : Instr) (x : DWord) => GivesPair i s w d (fun _ => ⟨lowWord x, false⟩) (fun _ => ⟨highWord x, false⟩)
       pair (.slotqDirect d a b) (if s.isPeer (w.opnd t a).val.toNat then
         BitVec.ofNat 64 (s.fab.slotFrom (s.fab.slotnow.toNat + y.toNat) (s.fab.offset s.fab.pkg (w.opnd t a).val.toNat / 8)) else BitVec.allOnes 64) ∧
       pair (.slotqRoute d a b) (if s.isPeer (w.opnd t a).val.toNat then
         (match s.chooseRoute (w.opnd t a).val.toNat 1 with | some r => BitVec.ofNat 64 r.arrive | none => BitVec.allOnes 64) else BitVec.allOnes 64))) ∧
    (s.Fresh → (w.opnd2 t a).2 = false → (w.opnd2 t a).1.toNat % 32 = 0 →
      Posts (.errpop d a) s w t .privilegedCompletion (some (.effect s.nextId)) 0 fun c =>
        c.op = .errpop ∧ c.a = (w.opnd2 t a).1 ∧ c.dst = d.toNat ∧ c.vd = w.agentVd ∧ c.tid = t)

/-- R48, R253, R256, R258, R260, R261: the privileged instructions of a Vent thread complete: SVCREPLY gives the value to its caller and 0, or 2 for
no call; where a CALLID holds its VD is the model's choice (log 39); TLBINV removes the translations it names and waits for accesses through them, and
with a reserved scope only goes on; TFENCE empties walkers and last-page registers of the package at every scope and goes on at once (log 54); KEYLOAD and
KEYREVOKE are posted and hold their thread; QOSSET sets rate and depth, or answers 1; WFI, SLEEP and HALT. -/
def Obligations.PrivilegedInstructions : Prop :=
  ∀ (s s1 : State) (w : Wave) (d a b : BitVec 6) (c : BitVec 3),
    s.Running w → s.Fresh → s.issue.mask = 1#32 → (w.opnd 0 a).psn = false → (w.opnd 0 b).psn = false →
    let x := (w.opnd 0 a).val
    let y := (w.opnd 0 b).val
    let on := w.bundle s.issue.mask fun _ th => th.on s.issue
    let held := some (Wake.effect s.nextId)
    (let v := x.toNat / 4096 % 64
     s.reaches w v = true → (w.opnd2 0 b).2 = false →
       ((s.vd v).calls.find? (fun k => k.callid == x) = none → Returns (.svcreply d a b) s s w d 2) ∧
       (∀ k v', (s.vd v).calls.find? (fun k => k.callid == x) = some k → s.wave? k.wave = some v' → v'.lane?.isSome = true → v'.episode = none →
         v'.id ≠ w.id → k.dst < 47 → k.tid < min 32 v'.threads.length → (v'.th k.tid).cond = .blocked (.svc (some x)) →
         Answers (.svcreply d a b) s fun u =>
           (∃ w', u.wave? w.id = some w' ∧ (w'.th 0).pc = s.issue.pc + 4 ∧ (d.toNat < 63 → readReg w' (w'.th 0) d.toNat = ⟨0, false⟩)) ∧
           ∃ v'', u.wave? v'.id = some v'' ∧ (v''.th k.tid).cond = .run ∧ (v''.th k.tid).pc = (v'.th k.tid).pc + 4 ∧
             readReg v'' (v''.th k.tid) k.dst = ⟨lowWord (w.opnd2 0 b).1, false⟩ ∧ readReg v'' (v''.th k.tid) (k.dst + 1) = ⟨highWord (w.opnd2 0 b).1, false⟩)) ∧
    (let vd := y.toNat / 32 % 64
     s.reaches w vd = true → 6 ≤ y.toNat % 8 → (w.opnd2 0 a).2 = false →
       Becomes (.tlbinvPage a b) s w on ∧ Becomes (.tlbinvContext a b) s w on ∧ Becomes (.tlbinvVd a b) s w on) ∧
    (let vd := y.toNat / 32 % 64
     let ctx := y.toNat / 2048 % 16
     let removes := fun (i : Instr) (k : Nat) (names : TlbEntry → Bool) =>
       Posts i s w 0 .privilegedCompletion held 0 (fun z => z.op = .tlbinv k) ∧ Answers i s fun u => u.tlb = s.tlb.filter fun e => !names e
     s.reaches w vd = true → y.toNat % 8 < 6 →
       ((w.opnd2 0 a).2 = false → removes (.tlbinvPage a b) 0 fun e => e.vd == vd && e.ctx == ctx && e.base ≤ (w.opnd2 0 a).1.toNat &&
         (w.opnd2 0 a).1.toNat < e.base + e.size) ∧
       removes (.tlbinvContext a b) 1 (fun e => e.vd == vd && e.ctx == ctx) ∧ removes (.tlbinvVd a b) 2 fun e => e.vd == vd) ∧
    (Answers (.tfence c) s fun u => u.mem = s.mem ∧ WaveLeft s u w on ∧ u.wcache = [] ∧
      u.tlb = s.tlb.filter fun e => match e.place with | .last _ => false | _ => true) ∧
    (s.reaches w (y.toNat % 64) = true → (w.opnd2 0 a).2 = false →
      PostsDesc (.keyload d a b) s s1 w 0 64 (w.opnd2 0 a).1 .privilegedCompletion held fun z => z.op = .keyload ∧ z.b = w.arg 0 b ∧ z.dst = d.toNat) ∧
    (if x.toNat % 512 = 0 then Returns (.keyrevoke d a) s s w d 1
     else (∀ h ∈ s.keys.handles, h.keyid = x.toNat % 512 → s.reaches w h.vd = true) →
       Posts (.keyrevoke d a) s w 0 .privilegedCompletion held 0 fun z => z.op = .keyrevoke ∧ z.a.toNat = x.toNat % 512 ∧ z.dst = d.toNat) ∧
    (let v := x.toNat % 64
     let k := x.toNat / 256 % 16
     s.reaches w v = true → (w.opnd2 0 b).2 = false →
       if s.qosStatus v k y.toNat (highWord (w.opnd2 0 b).1).toNat = 0 then
         Answers (.qosset d a b) s fun u => (u.rate v k).rate = y ∧ (u.rate v k).depth = highWord (w.opnd2 0 b).1 ∧
           ∃ w', WaveLeft s u w w' ∧ (w'.th 0).pc = s.issue.pc + 4 ∧ (d.toNat < 63 → readReg w' (w'.th 0) d.toNat = ⟨0, false⟩)
       else Returns (.qosset d a b) s s w d (BitVec.ofNat 32 (s.qosStatus v k y.toNat (highWord (w.opnd2 0 b).1).toNat))) ∧
    Becomes .wfi s w (if (s.queue w.queue).pend = 0 then
      w.bundle s.issue.mask fun _ th => { th with cond := .blocked .wfi, since := s.cycle, pc := s.issue.pc, rep := s.issue.repPc } else on) ∧
    (Answers (.sleep a) s fun u => u.mem = s.mem ∧ WaveLeft s u w on ∧ u.mgmt = { s.mgmt with maxps := min 3 (x.toNat % 8) }) ∧
    Becomes .halt s w { on with halted := true }

/-- R262, R273, R288: CTXSAVE, CTXREST and CTXKILL of a launch that is not live answer 0xFF (BADID of R236; that they do is log 36). Else CTXSAVE asks every named block on a core to save,
and one saved already waits for CTXREST; CTXREST makes the named blocks eligible and answers 0; CTXKILL kills the named launches, and with all of a
context its operators go; its shadowed ranges stay until they can be released (log 74). CTXSAVE and CTXKILL hold their thread. -/
def Obligations.ContextInstructions : Prop :=
  ∀ (s : State) (w : Wave) (d a b : BitVec 6),
    s.Running w → s.Fresh → s.issue.mask = 1#32 → (w.opnd 0 a).psn = false → (w.opnd 0 b).psn = false → (∀ k ∈ s.blocks, k.id ≠ w.block) →
    let v := (w.opnd 0 a).val.toNat % 64
    let c := (w.opnd 0 a).val.toNat / 256 % 16
    let id := (w.opnd 0 b).val
    let live := s.named v c id
    let named := fun (k : Block) => live.any (·.uid == k.launch) = true
    let holds := fun (u : State) (op : CmdOp) => (∃ w', u.wave? w.id = some w' ∧ (w'.th 0).cond = .blocked (.effect s.nextId)) ∧
      ∃ x ∈ u.cmds, x.id = s.nextId ∧ x.op = op ∧ x.vd = v ∧ x.ctx = c ∧ x.dst = d.toNat
    s.reaches w v = true →
    (id ≠ 0xFFFFFFFF → live = [] → ∀ i ∈ [Instr.ctxsave d a b, .ctxrest d a b, .ctxkill d a b], Returns i s s w d 0xFF) ∧
    (id = 0xFFFFFFFF ∨ live ≠ [] →
      (Answers (.ctxsave d a b) s fun u => u.mem = s.mem ∧ holds u .ctxsave ∧ ∀ k ∈ u.blocks, named k → k.st ≠ .resident ∧ k.st ≠ .saved) ∧
      (Answers (.ctxrest d a b) s fun u => u.mem = s.mem ∧
        (∃ w', u.wave? w.id = some w' ∧ (w'.th 0).pc = s.issue.pc + 4 ∧ (d.toNat < 63 → readReg w' (w'.th 0) d.toNat = ⟨0, false⟩)) ∧
        (∀ k ∈ u.blocks, named k → k.st ≠ .parked) ∧ (∀ p, s.partOf v = some p → evn .blockPlace p ∈ u.agenda) ∧
        ∀ x ∈ u.waves, (∃ i, x.loc = .saved i) → (∃ k ∈ s.blocks, named k ∧ k.id = x.block) → x.trapsTaken = false) ∧
      (Answers (.ctxkill d a b) s fun u => holds u .ctxkill ∧ u.shadows = s.shadows ∧
        (∀ l ∈ u.launches, l.vd = v → l.ctx = c → id = 0xFFFFFFFF ∨ l.id = id → l.killed = true) ∧
        (id = 0xFFFFFFFF → ∀ o ∈ u.ops, ¬(o.vd = v ∧ o.ctx = c))))

/-- R259: PGSPLIT of an address that no 2 MiB page maps answers 1. At M, with a 4 KiB page of memory here for the table and the large entry here, it
writes there the 32 entries of the page's 64 KiB parts, then the entry of the table in place of the leaf, and no other byte; translations of the page
go, and its thread waits. That a part keeps the A and D bits of the leaf is the model's reading (log 55). -/
def Obligations.SplitPage : Prop :=
  ∀ (s : State) (w : Wave) (d a b : BitVec 6),
    s.Running w → s.Fresh → s.issue.mask = 1#32 → (w.opnd2 0 d).2 = false → (w.opnd2 0 a).2 = false → (w.opnd 0 b).psn = false →
    let x := (w.opnd 0 b).val.toNat
    let va := (w.opnd2 0 a).1
    let page := (w.opnd2 0 d).1.toNat
    s.reaches w (x % 64) = true →
    (∀ f path, s.walk 128 (x % 64) (x / 64 % 16) va true = .fault f path → Returns (.pgsplit d a b) s s w d 1) ∧
    (∀ addr e size path, s.walk 128 (x % 64) (x / 64 % 16) va true = .leaf addr e size path →
      (size ≠ 2 ^ 21 → Returns (.pgsplit d a b) s s w d 1) ∧
      (size = 2 ^ 21 → w.level = .m → pkgOf addr = s.fab.pkg → page < 2 ^ 52 → pkgOf page = s.fab.pkg → page % 4096 = 0 → isMemory (localOf page) = true → s.mem.wf = true →
        (localOf addr + 8 ≤ localOf page ∨ localOf page + 256 ≤ localOf addr) →
        Answers (.pgsplit d a b) s fun u =>
          (∀ n, n < 32 → u.mem.val (localOf page + 8 * n) 8 = (e + BitVec.ofNat 64 (65536 * n / 2)).toNat) ∧
          u.mem.val (localOf addr) 8 = 5 + page / 4096 * 2048 ∧
          (∀ c, (c < localOf page ∨ localOf page + 256 ≤ c) → (c < localOf addr ∨ localOf addr + 8 ≤ c) → u.mem.byte c = s.mem.byte c) ∧
          (∀ y ∈ u.tlb, y.vd = x % 64 → y.ctx = x / 64 % 16 → ¬overlaps y.base y.size (va.toNat / 2 ^ 21 * 2 ^ 21) (2 ^ 21)) ∧
          WaveLeft s u w (w.bundle s.issue.mask fun _ th => { th with cond := .blocked (.effect s.nextId), since := s.cycle, pc := s.issue.pc, rep := s.issue.repPc })))

/-- R380, R381: PARTCTL assigns a free partition by a valid descriptor, answers 0 and starts the lowest Vent processor of it at S at its entry; with
a descriptor that is not valid, or for a reset or stop of a free partition (log 50), it answers 1. A valid change of the quads of a running partition adds
those that join and marks those that leave; a reset or stop stops the partition's Vent threads and kills its launches; these hold their thread. -/
def Obligations.PartitionControl : Prop :=
  ∀ (s : State) (w : Wave) (d a b : BitVec 6),
    s.Running w → s.Fresh → s.issue.mask = 1#32 → (w.opnd 0 a).psn = false → (w.opnd2 0 b).2 = false → (∀ k ∈ s.blocks, k.id ≠ w.block) →
    let p := (w.opnd 0 a).val.toNat % 8
    let at' := (w.opnd2 0 b).1.toNat
    let x := PartDesc.ofBytes (s.mem.bytes at' 64)
    let readable := at' + 64 ≤ 2 ^ 45 ∧ isMemory at' = true ∧ isMemory (at' + 63) = true
    let fails := fun (i : Instr) => Returns i s s w d 1
    let holds := fun (u : State) (n : Nat) => (∃ w', u.wave? w.id = some w' ∧ (w'.th 0).cond = .blocked (.effect s.nextId)) ∧
      ∃ y ∈ u.cmds, y.id = s.nextId ∧ y.op = .partctl n ∧ y.a = BitVec.ofNat 64 p ∧ y.dst = d.toNat
    let stops := fun (i : Instr) (n : Nat) => Answers i s fun u => holds u n ∧ (u.part p).pstate = 2 ∧
      (∀ l ∈ u.launches, s.partOf l.vd = some p → l.killed = true) ∧ ∀ v ∈ u.waves, s.ventOf p v = true → v.halted = true
    ((s.part p).desc = none →
      fails (.partctlReset d a b) ∧ fails (.partctlStop d a b) ∧ (¬(readable ∧ s.descValid p x = true) → fails (.partctlAssign d a b)) ∧
      (readable → s.descValid p x = true → w.id ≠ ventId (lowestBit x.vent) 0 → Answers (.partctlAssign d a b) s fun u => u.mem = s.mem ∧
        (u.part p).desc = some x ∧ (u.part p).pstate = 1 ∧
        (∃ w', u.wave? w.id = some w' ∧ (w'.th 0).pc = s.issue.pc + 4 ∧ (d.toNat < 63 → readReg w' (w'.th 0) d.toNat = ⟨0, false⟩)) ∧
        ∃ v, u.wave? (ventId (lowestBit x.vent) 0) = some v ∧ v.loc = .vent (lowestBit x.vent) 0 ∧ v.level = .s ∧ (v.th 0).pc = BitVec.ofNat 64 x.entry)) ∧
    (∀ old, (s.part p).desc = some old →
      stops (.partctlReset d a b) 1 ∧ stops (.partctlStop d a b) 2 ∧
      (readable → (s.part p).pstate = 1 → x.raw.drop 4 = old.raw.drop 4 → s.descValid p x = true →
        Answers (.partctlAssign d a b) s fun u => holds u 0 ∧ evn .quadsRetired p ∈ u.agenda ∧ (u.part p).leaving = old.quads &&& ~~~x.quads ∧
          ∃ y, (u.part p).desc = some y ∧ y.quads = old.quads ||| x.quads))

/-! ## Tile commands (chapter 09) -/

/-- R226, R229, R230: a tile command that acts at once completes with its entry retired: TSET, TADDQ and TLOOP write q registers, TLOOP and TJMP
move the fetch address, TZERO clears its region, TEND ends the sequencer, TSWAP changes the operator's bank, TRING takes or frees a slot. A
misaligned transfer ends the block with a trap. -/
def Obligations.TileControl : Prop :=
  ∀ (s : State) (b : Block) (q : Seq) (e : SeqEntry) (m n : BitVec 4) (x y : BitVec 6), s.Tile b q e →
    let done := fun (i : Instr) (f : Seq → Seq) => BlockLeft i s b { b with seq := some (f (q.without e)) }
    let set := fun (v : DWord) (z : Seq) => { z with q := z.q.setIfInBounds x.toNat v }
    let v := q.reg x - 1
    let goal := if x = y then v else q.reg y
    done (.tset m n x y) (set (q.reg y)) ∧ done (.taddq m n x y) (set (q.reg x + q.reg y)) ∧ done (.twaitc m n x y) id ∧
    done (.tend m n x y) (fun z => { z with ended := true }) ∧
    (v = 0 → done (.tloop m n x y) fun z => { set v z with hold := false }) ∧
    (v ≠ 0 → goal.extractLsb' 0 2 = 0#2 → done (.tloop m n x y) fun z => { set v z with pc := goal, hold := false }) ∧
    ((q.reg x).extractLsb' 0 2 = 0#2 → done (.tjmp m n x y) fun z => { z with pc := q.reg x, hold := false }) ∧
    ((q.reg x).extractLsb' 0 2 ≠ 0#2 → Answers (.tjmp m n x y) s fun u => ∃ b', u.block? b.id = some b' ∧ b'.st = .ended true) ∧
    (∀ r, b.region (q.reg x) = some r → swf Reg.zero b.acc = true → b.acols ≤ 1024 → Answers (.tzero m n x y) s fun u => u.mem = s.mem ∧
      ∃ b', u.block? b.id = some b' ∧ b'.seq = some (q.without e) ∧ ∀ i j, j < 1024 → sget Reg.zero b'.acc (1024 * i + j) =
        if r.row0 ≤ i ∧ i < r.row0 + r.count ∧ r.col0 ≤ j ∧ j < r.col0 + r.cols then Reg.zero else sget Reg.zero b.acc (1024 * i + j)) ∧
    (∀ o bank, s.handleOp b.vd b.ctx ((q.reg x).toNat % 256) = some o → s.op? o.uid = some o → o.spare = some bank →
      Answers (.tswap m n x y) s fun u => u.mem = s.mem ∧ u.block? b.id = some { b with seq := some (q.without e) } ∧
        ∃ o', u.op? o.uid = some o' ∧ o'.bank = !o.bank ∧ o'.active = bank ∧ o'.iw = o.iw ∧ o'.ow = o.ow) ∧
    (∀ g, b.rings[(q.reg y).toNat % 8]? = some g → (q.reg y).getLsbD 8 = false → decodeWord e.word = .ok (.tring m n x y) →
      (g.filled ≠ 0 → Answers (.tring m n x y) s fun u => u.mem = s.mem ∧ ∃ b', u.block? b.id = some b' ∧
        b'.seq = some { q.without e with q := q.q.setIfInBounds x.toNat (BitVec.ofNat 64 (2 ^ 62 + (g.o + g.k.i * g.b))) } ∧
        ∃ g', b'.rings[(q.reg y).toNat % 8]? = some g' ∧ g'.filled = g.filled - 1 ∧ g'.free = g.free) ∧
      (g.filled = 0 → Answers (.tring m n x y) s fun u => ∃ b' q', u.block? b.id = some b' ∧ b'.rings = b.rings ∧ b'.seq = some q' ∧
        ∀ z ∈ q'.win, z.no = e.no → z.issued = true)) ∧
    (∀ g, b.rings[(q.reg y).toNat % 8]? = some g → (q.reg y).getLsbD 8 = true → g.e ≠ g.k →
      (∀ v ∈ s.waves, v.episode = none ∧ ∀ th ∈ v.threads, ∀ r z, th.cond ≠ .blocked (.rget r z)) →
      Answers (.tring m n x y) s fun u => u.mem = s.mem ∧ ∃ b', u.block? b.id = some b' ∧ b'.seq = some (q.without e) ∧
        ∃ g', b'.rings[(q.reg y).toNat % 8]? = some g' ∧ g'.free = g.free + 1 ∧ g'.filled = g.filled)

/-- R224, R225, R227 to R229: a tile command with a memory effect whose checks pass issues with its operands and its work due; TSIG in scratch then
writes its 8 bytes, and a command whose work is done retires. -/
def Obligations.TileMemory : Prop :=
  ∀ (s : State) (b : Block) (q : Seq) (e : SeqEntry) (m n : BitVec 4) (x y : BitVec 6),
    (s.Tile b q e → s.Fresh →
      let issues := fun (i : Instr) => Answers i s fun u => u.mem = s.mem ∧ u.waves = s.waves ∧
        (∃ c ∈ u.cmds, c.id = s.nextId ∧ c.op = .tile b.cl e.no ∧ c.a = q.reg x ∧ c.b = q.reg y ∧ c.vd = b.vd ∧ c.ctx = b.ctx) ∧
        (∃ b' q', u.block? b.id = some b' ∧ b'.seq = some q' ∧ q'.q = q.q ∧ ∀ z ∈ q'.win, z.no = e.no → z.issued = true) ∧
        u.agenda = s.agenda ++ [{ row := .tileCommandRetire, n := b.cl, m := e.no }]
      let fits := fun (k : Nat) => match placeOf (q.reg x) with | .scratch off => off + k ≤ b.ssize | .virt _ => True | .bad => False
      (∀ r o, b.region (q.reg y) = some r → s.tileOp b r = some o → fits (r.count * o.d.inBytes) → issues (.tmul m n x y) ∧ issues (.tmac m n x y)) ∧
      (∀ r k, b.region (q.reg y) = some r → tileCount r.fmt = some k → fits (64 * r.count * ((r.cols + k - 1) / k)) →
        issues (.tacopy m n x y) ∧ issues (.taload m n x y)) ∧
      ((q.reg x).toNat % 8 = 0 → fits 8 → issues (.tsig m n x y))) ∧
    (∀ c, s.seqBlock s.ev.n = some b → s.block? b.id = some b → b.seq = some q → q.win.find? (fun z => z.no == s.ev.m) = some e →
      s.cmds.find? (fun z => z.op == .tile s.ev.n s.ev.m) = some c → s.heldBack c = false → tileFate e.word = .inl (.tsig m n x y) →
      (c.prog ≠ 0 → BlockLeft .tileCommandRetire s b { b with seq := some (q.without e) }) ∧
      (∀ off, c.prog = 0 → placeOf c.a = .scratch off → swf 0 b.scratch = true → Answers .tileCommandRetire s fun u => u.mem = s.mem ∧
        ∃ b', u.block? b.id = some b' ∧ b'.seq = some (q.without e) ∧ ∀ j, sget 0 b'.scratch j =
          if off ≤ j ∧ j < off + 8 then c.b.extractLsb' (8 * (j - off)) 8 else sget 0 b.scratch j))

/-! ## The work of commands (chapters 08 to 10) -/

/-- R199, R200, R204, R214 to R216: an operator command arrives at the OE and ends with its effect: OPQRY the slot's status word, OPWAIT the same
once the slot is ready or its limit has passed, OPSWAP the other bank, OPFREE the operator gone, OPDROP the claim abandoned, OPFIRE the slot fired,
OPGRANT the entry written; a handle not installed gives ERRSTAT.EF. -/
def Obligations.OperatorArrivals : Prop :=
  ∀ (s : State) (c : Cmd) (w : Wave), s.Works c w →
    let any := fun (_ : State) => True
    let ends := fun (x : Option Word) (err : Word) (Q : State → Prop) => Ends .operatorCommandArrival s c w x err Q
    let j := c.b.toNat
    let effect := c.resumes (.effect c.id)
    let wakes := c.resumes (.opwait c.id)
    (s.handleOp c.vd c.ctx c.a.toNat = none →
      (c.op = .opqry → ends (some 0) 0 any) ∧ (c.op = .opwait → Ends .operatorCommandArrival s c w (some 0) 0 (P := wakes)) ∧ (c.op = .opswap → ends none eEF any) ∧
      (c.op = .opfree → c.stage = .queued → ends none eEF any) ∧ (c.op = .opgrant → Ends .operatorCommandArrival s c w none eEF (P := effect)) ∧
      (c.op = .opfire → c.deadline = 0 → ends none eEF any) ∧ (c.op = .opdrop → ends none eEF any)) ∧
    (∀ o, s.handleOp c.vd c.ctx c.a.toNat = some o → s.op? o.uid = some o →
      (c.op = .opswap → o.spare = none → ends none eEF any) ∧
      (∀ bank, c.op = .opswap → o.spare = some bank → ends none 0 fun u => ∃ o', u.op? o.uid = some o' ∧ o'.bank = !o.bank ∧ o'.active = bank) ∧
      (c.op = .opfree → c.stage = .queued → (∀ y ∈ s.cmds, y.op ≠ .opwait) → s.fires.any (fun f => f.op == o.uid) = false → ends none 0 fun u => u.op? o.uid = none) ∧
      (let n := (highWord c.b).toNat
       let e := lowWord c.b
       c.op = .opgrant →
         if 7 < n ∨ permOk e = false then Ends .operatorCommandArrival s c w none eEF (P := effect)
         else Ends .operatorCommandArrival s c w none 0 (fun u => ∃ o', u.op? o.uid = some o' ∧ o'.perm = o.perm.set n e) effect) ∧
      (j < o.d.slots →
        (c.op = .opqry → ends (some (o.status j)) 0 any) ∧
        (c.op = .opwait → (o.outSlot j).ready = true → Ends .operatorCommandArrival s c w (some (o.status j)) 0 (P := wakes)) ∧
        (c.op = .opdrop → ends none 0 fun u => ∃ o', u.op? o.uid = some o' ∧ (o'.inSlot j).st = if (o.inSlot j).st = .claimed then .abandoned else (o.inSlot j).st) ∧
        (c.op = .opfire → c.deadline = 0 → (o.inSlot j).st = .claimed → (o.inSlot j).late s.cycle = false →
          Answers .operatorCommandArrival s fun u => u.mem = s.mem ∧ u.waves = s.waves ∧
            (∃ o', u.op? o.uid = some o' ∧ (o'.inSlot j).st = .firing) ∧ u.Fires o j)) ∧
      (c.op = .opwait → c.deadline ≠ 0 → c.deadline ≤ s.cycle → Ends .opwaitLimitExpiry s c w (some (o.status j)) 0 (P := wakes)))

/-- R204 to R211 (work per member: log 49): what reaches an operator's window. A store from an agent not admitted is refused with reason 1; an admitted store to an empty slot
claims it, or with its vector complete has it fire at every member; a load of a ready slot is answered with its bytes, one not ready waits or in the
other mode fails at once. A fire starts, and its last part to end leaves the slot ready, its generation one more and the input slot empty. A claim, a
waiting load and its limit end as the rules say. -/
def Obligations.OperatorWindows : Prop :=
  ∀ (s : State) (a : Access) (o : Operator) (k off : Nat) (out : Bool), s.ops[k]? = some o → s.op? o.uid = some o →
    let got := fun (u : State) (st : AccStage) => ∃ b, u.acc? a.id = some b ∧ b.stage = st
    (s.acc? s.ev.n = some a → s.windowAt a.pa = some (k, out, off) →
      (a.kind = .store →
        (o.admits s.fab.pkg s.fab.pkg a.vd false = false → s.Owned a.vd → Answers .iwStoreArrival s fun u => u.mem = s.mem ∧ got u (.refused 1) ∧ evn .storeAck a.id ∈ u.agenda) ∧
        (let j := off / o.d.iws
         let r := off % o.d.iws
         let mark := markAt (List.replicate o.d.inBytes false) r (((leBytes 64 a.data.toNat).take a.size).map some)
         o.admits s.fab.pkg s.fab.pkg a.vd false = true → out = false → a.size ≤ 64 → r + a.size ≤ o.d.inBytes → (o.inSlot j).st = .empty →
           Answers .iwStoreArrival s fun u => u.mem = s.mem ∧ u.waves = s.waves ∧ ∃ o', u.op? o.uid = some o' ∧
             if o.d.covered mark then (o'.inSlot j).st = .firing ∧ got u .firing ∧ u.Fires o j
             else (o'.inSlot j).st = .claimed ∧ (o'.inSlot j).tag = a.wtag ∧ got u .performed ∧ evn .storeAck a.id ∈ u.agenda)) ∧
      (a.kind = .load →
        let x := o.outSlot (off / o.d.ows)
        let r := off % o.d.ows
        (o.admits s.fab.pkg s.fab.pkg a.vd true = false → s.Owned a.vd →
          Answers .owLoadArrival s fun u => u.mem = s.mem ∧ got u (.refused 1) ∧ evn .loadDataArrival a.id ∈ u.agenda) ∧
        (o.admits s.fab.pkg s.fab.pkg a.vd true = true → out = true → r + a.size ≤ o.d.outBytes →
          (x.ready = true → Answers .owLoadArrival s fun u => u.mem = s.mem ∧ u.waves = s.waves ∧ evn .loadDataArrival a.id ∈ u.agenda ∧
            ∃ b, u.acc? a.id = some b ∧ b.stage = .performed ∧ b.data = BitVec.ofNat 512 (leVal ((x.bytes.drop (64 * (r / 64))).take 64)) ∧
              b.psn = if x.psn then BitVec.allOnes 16 else 0) ∧
          (x.ready = false → o.d.mode / 2 % 2 = 0 → Answers .owLoadArrival s fun u => got u (.unready (s.limitAt o.d)) ∧ u.agenda = s.agenda) ∧
          (x.ready = false → o.d.mode / 2 % 2 = 1 →
            Answers .owLoadArrival s fun u => got u (.failed .opunr 0) ∧ evn .loadDataArrival a.id ∈ u.agenda)))) ∧
    (∀ f, s.fires.find? (fun f => f.oe == s.ev.n && s.mayStart f) = some f → (∀ x ∈ s.fires, x.oe = s.ev.n → x.running = false) → f.tile = none →
      f.op = o.uid → Answers .fireStart s fun u => u.mem = s.mem ∧ u.ops = s.ops ∧ evn .fireComplete s.ev.n ∈ u.agenda ∧
        ∃ x ∈ u.fires, x.op = o.uid ∧ x.slot = f.slot ∧ x.running = true ∧
          x.res = if f.res = [] then opOutputs o.d o.active o.d.m f.input fun _ => ⟨0, false⟩ else f.res) ∧
    (∀ f, s.fires.find? (fun f => f.oe == s.ev.n && f.running) = some f → f.tile = none → f.op = o.uid →
      s.fires.any (fun x => x.same f && x.oe != f.oe && !x.done) = true → Answers .fireComplete s fun u => u.mem = s.mem ∧ u.waves = s.waves ∧ u.ops = s.ops ∧
        ∃ x ∈ u.fires, x.oe = s.ev.n ∧ x.op = o.uid ∧ x.slot = f.slot ∧ x.done = true) ∧
    (∀ f, s.fires.find? (fun f => f.oe == s.ev.n && f.running) = some f → f.tile = none → f.op = o.uid →
      s.fires.any (fun x => x.same f && x.oe != f.oe && !x.done) = false →
      s.accs.all (fun b => match b.stage with | .unready _ => false | _ => true) = true → s.fab.unready = [] →
      Answers .fireComplete s fun u => ((∀ y ∈ s.cmds, y.op ≠ .opwait) → u.mem = s.mem ∧ u.waves = s.waves) ∧
        (∀ y ∈ s.cmds, y.op = .opwait → y.stage = .waiting → y.vd = o.vd → y.ctx = o.ctx → y.a = BitVec.ofNat 64 o.handle → y.b = BitVec.ofNat 64 f.slot →
          u.cmd? y.id = none) ∧
        ∃ o', u.op? o.uid = some o' ∧ (o'.inSlot f.slot).st = .empty ∧
        (o'.outSlot f.slot).ready = true ∧ (o'.outSlot f.slot).gen = (o.outSlot f.slot).gen + 1 ∧
        ((o'.outSlot f.slot).bytes, (o'.outSlot f.slot).psn) = outContents o.d f.res) ∧
    (s.ev.n = o.uid → (o.inSlot s.ev.m).st = .claimed → (o.inSlot s.ev.m).deadline ≠ 0 → (o.inSlot s.ev.m).deadline ≤ s.cycle → s.Owned o.vd →
      Answers .claimLimitExpiry s fun u => u.mem = s.mem ∧ ∃ o', u.op? o.uid = some o' ∧ (o'.inSlot s.ev.m).st = .abandoned) ∧
    (∀ d, s.ev.ok = false → s.acc? s.ev.n = some a → a.stage = .unready d → d ≠ 0 → d ≤ s.cycle → s.Owned a.vd →
      Answers .unreadyLimitExpiry s fun u => u.mem = s.mem ∧ got u (.failed .opunr 0) ∧ evn .loadDataArrival a.id ∈ u.agenda)

/-- R196, R197, R200, R237, R239, R241, R243, R249: the work of an engine command. A copy of ranges that overlap ends with EF; of one row of 16 bytes in
plain memory it writes those bytes and no other, and ends. A record that is not valid ends LAUNCH with all ones and EF, a valid one with the next
launch id; a failed bind gives all ones; a release at an odd generation fails; PUBLISH flips the generation and then ends. An operator whose weights
are all read is installed, or its second bank is loaded; an install that a check turns away fails. R256, R258 to R260, R262, R389: a privileged command
that can complete ends: its register takes its status where it has one, and its thread goes on; until then it waits. KEYLOAD of a blob gives the
handle and its KeyID, or all ones; ERRPOP of an empty ring answers. The model's readings are that a failed KEYLOAD leaves ERRSTAT.EF (log 40), that
TLBINV and PGSPLIT at .pod complete by what this package shows (log 54), and that CTXKILL waits until its ranges are free (log 74). -/
def Obligations.EngineAndPrivilegedWork : Prop :=
  (∀ (s : State) (c : Cmd) (w : Wave), s.Works c w → c.status = 0 →
    let any := fun (_ : State) => True
    let ends := fun (x : Option Word) (err : Word) (Q : State → Prop) => Ends .engineCommandComplete s c w x err Q
    (∀ k, c.op = .cpy k → c.prog = 0 → c.deadline = 0 →
      let d := CopyDesc.ofBytes c.bytes
      (d.dkind ≠ 1 → overlapsMod d.src d.dst (16 * d.count) = true → ends none eEF any) ∧
      (∀ (src dst : DWord) (pa pb : Nat), s.heldBack c = false → k = 0 → c.bytes = cpyBytes src dst 1 0 → c.buf = none → overlapsMod src dst 16 = false →
        src.toNat % 16 = 0 → dst.toNat % 16 = 0 → s.resolve (s.cmdWho c) .read src false = (s, .ok pa 0) →
        s.resolve (s.cmdWho c) .write dst false = (s, .ok pb 0) → pkgOf pa = s.fab.pkg → pkgOf pb = s.fab.pkg → s.windowAt pa = none → s.windowAt pb = none →
        isMemory (localOf pa) = true → isMemory (localOf pb) = true → s.mem.poison (localOf pa / 4 * 4) (localOf pa % 4 + 16) = 0 →
        s.walkerBusy (s.cmdWho c) src = false → s.walkerBusy (s.cmdWho c) dst = false → s.inL2 (localOf pa / 64) = true → s.inL2 (localOf pb / 64) = true →
        s.mem.wf = true → ends none 0 fun u => s.mem.Wrote u.mem (localOf pb) 16 fun j => s.mem.byte (localOf pa + j))) ∧
    (∀ q, c.op = .launch q → c.bytes.length = 256 → c.buf = none →
      (recordOk c.bytes = false → ends (some 0xFFFFFFFF) eEF any) ∧
      (recordOk c.bytes = true → (LaunchRec.ofBytes c.bytes).flags &&& 6 = 0 → (LaunchRec.ofBytes c.bytes).keyh = 0 → c.vd < 64 →
        ends (some (s.vd c.vd).nextLaunch) 0 fun u => u.mem = s.mem ∧ (u.vd c.vd).nextLaunch = (s.vd c.vd).nextLaunch + 1 ∧
          evn .launchDispatch c.vd ∈ u.agenda ∧ ∃ l ∈ u.launches, l.id = (s.vd c.vd).nextLaunch ∧ l.vd = c.vd ∧ l.queue = q ∧ l.recd = LaunchRec.ofBytes c.bytes)) ∧
    (c.op = .bind → c.bytes.length = 32 → c.buf = none → c.prog = 0 → s.bindOk c = false → ends (some 0xFFFFFFFF) eEF any) ∧
    (∀ x, s.cmdRange c = some x →
      (c.op = .free → x.gen.toNat % 2 = 1 → ends none eEF any) ∧
      (∀ n, c.op = .publish n → s.shadowDue c = true →
        (c.prog = 0 → Answers .shadowFlip s fun u => u.mem = s.mem ∧ u.waves = s.waves ∧ ∃ x', u.cmdRange c = some x' ∧ x'.gen = x.gen + 1) ∧
        (c.prog ≠ 0 → Ends .shadowFlip s c w none 0 fun u => 2 ≤ n → ∀ l ∈ u.caches, l.core ≠ c.core ∧ (w.loc ≠ .gone → l.core ≠ w.coreNo)))) ∧
    (c.op = .opinst → c.prog = 0 → c.buf = none → c.bytes.length = 128 → s.installBehind c = false → s.windowsBusy c = false → ∀ s1 r, s.checkInstall c = (s1, .inl r) →
      Ends .opinstComplete s c w none eEF) ∧
    (c.op = .opinst → c.prog = 2 →
      let d := OpDesc.ofBytes c.bytes
      c.bytes.length = d.head + d.m * blocksFor d.wf d.k * blkUnit →
      (d.second = false → Ends .opinstComplete s c w none 0 fun u => ∃ o ∈ u.ops, o.handle = c.b.toNat ∧ o.vd = c.vd ∧ o.ctx = c.ctx ∧ o.lead = c.lead ∧
        o.desc = c.bytes.take 128 ∧ o.iw ++ o.ow = c.windows ∧ o.iw.length = d.slots * d.iws / 64 ∧ o.active = c.bytes.drop d.head ∧ o.spare = none) ∧
      (∀ o, d.second = true → s.handleOp c.vd c.ctx c.b.toNat = some o → s.op? o.uid = some o → Ends .opinstComplete s c w none 0 fun u =>
        ∃ o', u.op? o.uid = some o' ∧ o'.active = o.active ∧ o'.spare = some (c.bytes.drop 128)))) ∧
  (∀ (s : State) (c : Cmd) (w : Wave), s.Works c w → s.ev.ok = false →
    let effect := c.resumes (.effect c.id)
    let ends := fun (x : Word) (Q : State → Prop) => Ends .privilegedCompletion s c w (some x) 0 Q effect
    ((∃ k, c.op = .tlbinv k) ∨ c.op = .ctxsave →
      if s.privReady c then ends (BitVec.ofNat 32 (c.status % 256)) fun _ => True else exec .privilegedCompletion s = .next s) ∧
    (c.op = .pgsplit →
      let at' := tlbOperand (lowWord c.b)
      if s.privReady c = false then exec .privilegedCompletion s = .next s
      else if c.prog = 0 then Answers .privilegedCompletion s fun u => u.mem = s.mem ∧ u.waves = s.waves ∧
        u.tlb = s.tlb.filter (fun y => !inSplit at'.1 at'.2 c.a y.vd y.ctx y.base y.size) ∧ evn .privilegedCompletion c.id ∈ u.agenda
      else ends (BitVec.ofNat 32 (c.status % 256)) fun _ => True) ∧
    (c.op = .ctxkill → if s.ctxDone c = false then exec .privilegedCompletion s = .next s
      else if c.prog = 0 ∧ s.killedRanges c ≠ [] then Answers .privilegedCompletion s fun u => u.mem = s.mem ∧ u.waves = s.waves ∧ u.shadows = s.shadows ∧
        evn .privilegedCompletion c.id ∈ u.agenda
      else ends 0 fun u => lowWord c.b = 0xFFFFFFFF → ∀ x ∈ u.shadows, ¬(x.vd = c.vd ∧ x.ctx = c.ctx)) ∧
    (c.op = .keyrevoke → s.worldLaunches c.a.toNat = [] → s.world? c.a.toNat = none → ends 0 fun u => ∀ h ∈ u.keys.handles, h.keyid ≠ c.a.toNat) ∧
    (c.op = .keyload → c.bytes.length = 64 → c.buf = none → c.status = 0 →
      let v := c.b.toNat % 64
      (blobOk v c.bytes = false → Ends .privilegedCompletion s c w (some 0xFFFFFFFF) eEF (P := effect)) ∧
      (∀ k h, s.freeKeyid = some k → s.freeHandle v = some h → let good := blobOk v c.bytes
        Ends .privilegedCompletion s c w (some (if good then BitVec.ofNat 32 (h + 65536 * k) else 0xFFFFFFFF)) (if good then 0 else eEF)
          (fun u => good = true → u.keys.handles = s.keys.handles ++ [⟨h, k, v, c.bytes⟩]) effect)) ∧
    (c.op = .errpop → c.stage = .queued → c.status = 0 → c.prog = 0 → (s.vd c.vd).err.ring = [] →
      (∀ x ∈ s.cmds, x.op = .errpop → x.vd = c.vd → x.id = c.id) → ends 0x80000000 fun _ => True))

/-! ## Threads, traps and saves (chapters 03, 07, 12 and 13) -/

/-- R128, R133, R135, R137, R138, R181, R269: what releases a waiting thread. The members of a rejoin mask that have all arrived and are released go
on and the mask is empty; past its limit a JOIN raises JTO, and a barrier BARDL in every thread that waits for the phase; a growth that fits is
granted; a shrink that waited for its loads takes place; a free log entry wakes the threads that waited for one. -/
def Obligations.WakingEvents : Prop :=
  ∀ (s : State) (w : Wave), s.wave? w.id = some w → w.role ≠ .vent → w.episode = none → (∀ i, w.loc ≠ .saved i) → w.threads.length ≤ 32 →
    (s.ev.n = w.id →
      (∀ j, s.ev.m = j → j < 8 → w.arrived j = true → (tids (w.mask j)).all (s.released w) = true → Answers .joinRelease s fun u => u.mem = s.mem ∧
        ∃ w', WaveLeft s u w w' ∧ w'.mask j = 0 ∧ ∀ n, n < w.threads.length → if (w.mask j).getLsbD n
          then (w'.th n).cond = .run ∧ (w'.th n).pc = (w.th n).pc + 4 ∧ (w'.th n).v = (w.th n).v else w'.th n = w.th n) ∧
      (w.arrived s.ev.m = false → exec .joinRelease s = .next s) ∧
      (∀ j, (w.th s.ev.m).cond = .blocked (.join j) → w.resident = true → (w.th s.ev.m).limit ≠ 0 → (w.th s.ev.m).limit ≤ s.cycle →
        Becomes .jointoExpiry s w ((w.mapTh s.ev.m fun th => th.raise .jto 0 (j.zeroExtend 32) th.rep 0 s.cycle).dropPfx s.ev.m)) ∧
      (w.vshr ≠ 0 → s.loadsAbove w.id w.vshr = false → w.vshr < w.alloc → Answers .vshrinkFree s fun u => u.mem = s.mem ∧ ∃ w', WaveLeft s u w w' ∧
        w'.alloc = w.vshr ∧ w'.vshr = 0 ∧ ∀ n, n < w.threads.length → ∀ f, f < 48 → getV (w'.th n) f = if f < w.vshr then getV (w.th n) f else Reg.zero)) ∧
    (∀ blk n, s.block? s.ev.n = some blk → s.ev.m = n → s.ev.ok = false → w.block = blk.id → w.lane?.isSome = true → (blk.bar n).limit ≠ 0 → (blk.bar n).limit ≤ s.cycle →
      (∀ v ∈ s.waves, v.block = blk.id → v = w) → Answers .bartoExpiry s fun u => u.mem = s.mem ∧ ∃ w', WaveLeft s u w w' ∧
        ∀ t k, t < w.threads.length → (w.th t).cond = .blocked (.bar k (blk.bar n).phase) → k.toNat = n → (w.th t).limit ≤ s.cycle →
          (w'.th t).cond = .trapped ⟨.bardl, 0, BitVec.ofNat 32 n, (w.th t).rep, 0⟩) ∧
    (∀ cl core lane, w.loc = .lane cl core lane → core < 4 → lane < 16 → s.ev.n = 64 * cl + 16 * core + lane →
      oldestGrow (s.laneWaves cl core lane) = some w → w.vgt ≤ w.alloc + 8 * s.freeGranules cl core lane → Answers .vgrowGrant s fun u => u.mem = s.mem ∧
        ∃ w', WaveLeft s u w w' ∧ w'.alloc = max w.alloc w.vgt ∧ w'.vgt = 0 ∧ ∀ t k, t < w.threads.length → (w.th t).cond = .blocked (.vgrow k) →
          (w'.th t).cond = .run ∧ (w'.th t).pc = (w.th t).pc + 4) ∧
    (w.lane? = some s.ev.n → (s.freeEntry s.ev.n).isSome = true → Answers .logfullWake s fun u => ∃ w', u.wave? w.id = some w' ∧
      ∀ t, t < w.threads.length → (w.th t).cond = .blocked .logfull → (w'.th t).cond = .run ∧ (w'.th t).pc = (w.th t).pc)

/-- R269 to R271, R325, R326: a fault request is written into the next entry of its partition's ring, and the queue notified; when the service has
written 1 to its DONE word an access that waited is performed and a command goes on, with 2 a command takes a failure; with neither nothing happens.
A wave of which every thread stands and one is trapped asks for its save; a trap record that fits is written at the head of the trap queue. A
prefetch goes on when its walk ends. -/
def Obligations.FaultsAndTraps : Prop :=
  ∀ (s : State), s.mem.wf = true →
    (∀ f g p a base n q, s.faults.find? (fun f => f.seq == s.ev.n) = some f → s.partOf f.vd = some p → s.nextFault p = some g → s.faultSlot p = some a →
      (s.part p).faultRing = (base, n, q) → p < 8 → Answers .faultRequestPost s fun u => s.mem.Wrote u.mem a 64 (fun j => (g.bytes s.fab.pkg).getD j 0) ∧
        (u.part p).findex = ((s.part p).findex + 1) % n ∧ (q < 256 → (u.queue q).pend = (s.queue q).pend ||| 4) ∧
        ∀ x ∈ u.faults, x.seq = g.seq → x.ring = some a) ∧
    (∀ f a, s.faults.find? (fun f => f.seq == s.ev.n) = some f → f.ring = some a →
      let d := s.mem.val (a + 32) 4
      (d ≠ 1 → d ≠ 2 → exec .faultDone s = .next s) ∧
      ((d = 1 ∨ d = 2) → (∀ x ∈ s.accs, ∀ e k, x.stage ≠ .logged e k) → Answers .faultDone s fun u => (∀ x ∈ u.faults, x.seq ≠ f.seq) ∧
        ∀ c ∈ s.cmds, ∀ va wr, c.stage = .faulted va f.cls wr → f.covers c.vd c.ctx va = true → ∃ c' ∈ u.cmds, c'.id = c.id ∧ c'.stage = .queued ∧
          c'.status = if d = 1 then c.status else if c.op = .coll ∨ c.op = .mcast ∨ c.op = .mcastIn then 258 else 2) ∧
      (∀ x w e pa key s1, d = 1 → s.accs = [x] → x.stage = .logged e f.cls → f.covers x.vd x.ctx x.va = true → x.kind = .store → s.wave? x.wave = some w →
        (∀ v ∈ s.waves, ∀ th ∈ v.threads, th.cond ≠ .blocked .fetch) → (∀ v ∈ s.waves, v.episode = none) → (∀ b ∈ s.blocks, ∀ pc va k, b.st ≠ .faulted pc va k) →
        s.walkerBusy (s.who w) x.va = false → State.resolve { s with faults := s.faults.filter fun y => y.seq != f.seq } (s.who w) .write x.va false = (s1, .ok pa key) → pkgOf pa = s.fab.pkg →
        isMemory (localOf pa) = true → s.windowAt pa = none → Answers .faultDone s fun u => u.mem = s1.mem ∧
          ∃ b ∈ u.accs, b.id = x.id ∧ b.pa = pa ∧ b.keyid = key ∧ b.data = x.data ∧ b.stage = .issued ∧ evn .homeAccess x.id ∈ u.agenda)) ∧
    (∀ a k w, s.acc? s.ev.n = some a → s.walks.find? (fun x => x.acc == s.ev.n) = some k → k.spec = false → s.wave? a.wave = some w → (∀ i, w.loc ≠ .saved i) →
      a.kind = .pref → a.stage = .walking → (∀ b ∈ s.accs, b.req = a.req → b.id = a.id) → ((s.walksOf (s.who w).cl).take 8).contains k = true →
      let s0 : State := { s with walks := s.walks.filter fun x => x.acc != a.id }
      (∀ c s1, s0.resolve { s.who w with spec := false } .prefetch a.va false = (s1, .fault c) → Answers .pageWalkComplete s fun u => u.acc? a.id = none ∧ u.mem = s1.mem) ∧
      (∀ pa key s1, s0.resolve { s.who w with spec := false } .prefetch a.va false = (s1, .ok pa key) → isMemory (localOf pa) = true → s.windowAt pa = none →
        pkgOf pa = s.fab.pkg → Answers .pageWalkComplete s fun u => u.mem = s1.mem ∧ ∃ b, u.acc? a.id = some b ∧ b.pa = pa / 64 * 64 ∧ b.keyid = key ∧
          (evn .homeAccess a.id ∈ u.agenda ∨ evn .loadDataArrival a.id ∈ u.agenda))) ∧
    (∀ w, s.wave? s.ev.n = some w →
      if w.role = .vent ∨ w.trapsTaken = true ∨ s.allStand w .trapped = false ∨ w.lane? = none ∨ w.pfx.isSome = true then exec .takeTraps s = .next s
      else Answers .takeTraps s fun u => u.mem = s.mem ∧ ∃ w', WaveLeft s u w w' ∧ w'.turn = none ∧
        ∃ r, w'.saveReq = some r ∧ r.traps = true ∧ r.kind = some 2 ∧ r.deadline ≤ s.cycle) ∧
    (∀ r rest base size q, s.ev.n < 64 → (s.vd s.ev.n).heldTraps = r :: rest → s.trapFits s.ev.n = true → s.trapQueue s.ev.n = (base, size, q) →
      let h := (s.vd s.ev.n).ctl.tqhead.toNat
      h + r.bytes.length ≤ size → Answers .trapRecordAppend s fun u => s.mem.Wrote u.mem (base + h) r.bytes.length (fun j => r.bytes.getD j 0) ∧
        (u.vd s.ev.n).heldTraps = rest ∧ (u.vd s.ev.n).ctl.tqhead = BitVec.ofNat 32 ((h + (r.bytes.length + 63) / 64 * 64) % size) ∧
        (q < 256 → (u.queue q).pend = (s.queue q).pend ||| 2)) ∧
    (s.ev.n < 64 → let x := s.ev.val % 2 ^ 32
      if x % 64 = 0 ∧ x < (s.trapQueue s.ev.n).2.1 then Answers .tqtailWrite s fun u => u.mem = s.mem ∧ (u.vd s.ev.n).ctl.tqtail = BitVec.ofNat 32 x
      else exec .tqtailWrite s = .next s)

/-- R128, R230, R273, R275 to R278, R283 to R286: a wave at a save point stops; once its stores are acknowledged its image is written into the save
area, and it leaves its lane. A wave that has waited too long is asked to save, and past the deadline stops where it is. A saved wave returns to a
lane from its image. An episode begins at a load that the conditions name and ends with the checkpoint. A wave whose threads have exited gives up
its lane, and a block that is over is gone and counted. -/
def Obligations.Residence : Prop :=
  ∀ (s : State), s.mem.wf = true →
    (∀ w, s.wave? s.ev.n = some w →
    (∀ r, w.saveReq = some r → w.lane?.isSome = true →
      (∀ k, r.kind = none → s.savePoint w r = some k → Becomes .waveSave s w { w with turn := none, saveReq := some { r with kind := some k } }) ∧
      (r.kind = none → s.savePoint w r = none → exec .waveSave s = .next s) ∧
      (∀ k, r.kind = some k → w.drained = false → exec .waveSave s = .next s) ∧
      (∀ k a, r.kind = some k → w.drained = true → s.saveRoom w.vd 1 = some a → s.keyOf w = 0 →
        let stop := fun (w : Wave) => { w with threads := w.threads.map fun th => match th.cond with | .trapped _ => { th with pc := th.rgnpc } | _ => th }
        let s1 := s.mapWave w.id stop
        let w1 := stop w
        let img := w1.image (s1.imageCtx w1 k (if k = 2 then s1.logItems w.id else []) (s1.at w1))
        Answers .waveSave s fun u => (∃ w', WaveLeft s u w w' ∧ w'.loc = .saved a ∧ w'.saveReq = none) ∧
          ((∀ b, s.block? w.block = some b → ∃ v ∈ s.waves, v.block = b.id ∧ v.id ≠ w.id ∧ v.lane?.isSome = true) →
            s.mem.Wrote u.mem a img.length (fun j => img.getD j 0))) ∧
      (r.deadline ≤ s.cycle → r.kind = none → w.pfx = none → w.episode = none →
        Becomes .preempttoExpiry s w { w with turn := none, saveReq := some { r with kind := some 2, forced := true } })) ∧
    (if w.waitLimit = 0 ∨ s.cycle < w.waitLimit ∨ w.saveReq.isSome = true ∨ s.workWaiting w = false then exec .waittoExpiry s = .next s
     else Answers .waittoExpiry s fun u => u.mem = s.mem ∧ ∃ w' r, WaveLeft s u w w' ∧ w'.saveReq = some r ∧ r.deadline = s.preemptAt w.vd ∧ r.traps = false) ∧
    (∀ b a, s.block? w.block = some b → w.loc = .saved a → w.trapsTaken = false →
      let cl := s.ev.m / 64
      let core := s.ev.m / 16 % 4
      let lane := s.ev.m % 16
      let bs := s.mem.bytes a (s.mem.val a 4)
      b.st = .resident → b.cl = cl → b.core = core → s.logRoom w s.ev.m = true → (s.laneWaves cl core lane).length < 8 →
      w.needs ≤ s.freeGranules cl core lane → s.keyOf w = 0 → (∀ i, i < (s.mem.val a 4 + 63) / 64 → s.mem.poison (a + 64 * i) 64 = 0) →
      (∀ l ∈ linesOf a (s.mem.val a 4), l ∉ s.badLines) →
      let s1 := (linesOf a (s.mem.val a 4)).foldl (fun s l => s.sliceRead w.vd 0 l false false) s
      let x := w.ofImage (s1.imageCtx w (field bs 0xA 1) [] (s1.at w)) bs
      Answers .waveRestore s fun u => u.mem = s.mem ∧ ∃ w', WaveLeft s u w w' ∧ w'.loc = .lane cl core lane ∧ w'.saveReq = none ∧ w'.k = x.k ∧ w'.j = x.j ∧
        ∀ t, (w'.th t).v = (x.th t).v ∧ (w'.th t).pc = (x.th t).pc ∧ (w'.th t).cond = (x.th t).cond) ∧
    (match s.episodeLoad w with
     | none => exec .fumaroleEntry s = .next s
     | some a => Answers .fumaroleEntry s fun u => u.mem = s.mem ∧ WaveLeft s u w { w with episode := some (s.overlay w a.id), turn := none }) ∧
    (if s.episodeOver w then Becomes .fumaroleExit s w w.endEpisode else exec .fumaroleExit s = .next s) ∧
    (if s.waveOver w then Answers .waveEnd s fun u => u.mem = s.mem ∧
       WaveLeft s u w { w with loc := .gone, saveReq := none, turn := none, waitLimit := 0 } ∧ evn .blockComplete w.block ∈ u.agenda
     else exec .waveEnd s = .next s)) ∧
    (∀ b, s.block? s.ev.n = some b → if s.blockOver b then Answers .blockComplete s fun u => u.mem = s.mem ∧ (∀ x ∈ u.blocks, x.id ≠ b.id) ∧
       (∀ x ∈ u.waves, x.block ≠ b.id) ∧ evn .launchComplete b.launch ∈ u.agenda ∧
       ∀ l, s.launch? b.launch = some l → ∃ l', u.launch? b.launch = some l' ∧ l'.ended = l.ended + 1
     else exec .blockComplete s = .next s)

/-! ## The scheduler, partitions and the key unit (chapters 13, 15 and 17) -/

/-- R36, R250, R310, R330 to R336, R345, R347, R350, R381, R388, R393, R412: the events of the scheduler. The head of a queue is dispatched with the status
that its predecessors, its context and its size give; a block that is the only work of a partition goes to the core the rules choose; a launch
displaces a block of lower priority of its own VD; a launch that is over leaves its status and wakes its waiters. An owner gives notice on a lent
cluster; a cooperative launch parks whole; clusters turn hot and cool. Quads, worlds and Vent processors retire, and the key unit writes a blob and
erases the keys. R36, R310: a spare of the die takes over a cluster's number, and the cluster's blocks are asked to save; that the cluster is cool then,
with its caches and TLBs empty, is log 38. The blob's bytes are the key wrap of log 10. -/
def Obligations.Scheduling : Prop :=
  ∀ (s : State), s.mem.wf = true →
    let asked := fun (u : State) (w : Wave) (limit : Nat) => ∃ w' r, u.wave? w.id = some w' ∧ w'.saveReq = some r ∧ r.deadline ≤ limit
    (match leastBy (fun l => 16 * (7 - l.recd.prio) + l.queue) (s.heads s.ev.n) with
     | none => exec .launchDispatch s = .next s
     | some l => l.recd.keyh = 0 → s.launch? l.uid = some l → Answers .launchDispatch s fun u => u.mem = s.mem ∧ u.blocks = s.blocks ∧
         ∃ l', u.launch? l.uid = some l' ∧ l'.dispatched = true ∧ l'.status = if s.predsOk l = some false then 0xC
           else if s.ctxRoot l.vd (s.vdField l.vd (0x220 + l.queue) 1 % 16) = none then 1 else if l.recd.fitsEmpty then 0 else 0xD) ∧
    (∀ l cl core lanes, s.launches = [l] → s.blocks = [] → (∀ c ∈ s.cmds, c.op ≠ .ctxsave) → s.plat.pscur = 0 → s.partOf l.vd = some s.ev.n → l.vd < 64 →
      (s.rate l.vd 0).weight &&& 0xFF ≠ 0 → l.dispatched = true → l.killed = false → l.status = 0 → l.parked = 0 → l.placed < l.recd.grid →
      l.recd.coop = false → l.keyid = 0 → s.noticeEnd.site l.want = some (cl, core, lanes) → Answers .blockPlace s fun u => u.mem = s.mem ∧
        (∃ l', u.launches = [l'] ∧ l'.placed = l.placed + 1) ∧ (∃ b, u.blocks = [b] ∧ b.id = s.nextId ∧ b.launch = l.uid ∧ b.blkid = l.placed ∧
          b.cl = cl ∧ b.core = core ∧ b.ssize = 64 * l.recd.scratch ∧ b.st = .resident) ∧
        ∀ n, n < l.recd.vwaves → ∃ w ∈ u.waves, w.block = s.nextId ∧ w.role = .vector ∧ w.wid = n ∧ w.alloc = l.recd.regs ∧
          w.threads.length = l.recd.vthr ∧ (∀ t, t < l.recd.vthr → (w.th t).pc = pcOf l.recd.ventry ∧ (w.th t).cond = .run) ∧
          ∀ k, k < 15 → getK w.k k = ⟨(l.recd.kargs[k]?).getD 0, false⟩) ∧
    (∀ l, s.launch? s.ev.n = some l →
      (∀ i, s.headItem l.vd = some i → (s.placeItem i).isSome = true → exec .priorityPreempt s = .next s) ∧
      (∀ x b y, s.launches = [l, x] → x.uid ≠ l.uid → s.blocks = [b] → b.launch = x.uid → b.vd = l.vd → b.st = .resident → x.recd.coop = false →
        x.recd.prio < l.recd.prio → s.headItem l.vd = some (.next l) → s.placeItem (.next l) = none → (s.without [b.id]).site l.want = some (b.cl, b.core, y) →
        Answers .priorityPreempt s fun u => u.mem = s.mem ∧ (∃ b', u.blocks = [b'] ∧ b'.st = .saving) ∧
          ∀ w, s.wave? w.id = some w → w.block = b.id → w.lane?.isSome = true → asked u w (s.preemptAt l.vd)) ∧
      (s.launchOver l = false → exec .launchComplete s = .next s) ∧
      (s.launchOver l = true → l.keyid = 0 →
        (l.recd.evaddr = 0 ∨ l.evDone = true → Answers .launchComplete s fun u => u.launch? l.uid = none ∧
          (l.vd < 64 → (u.vd l.vd).statuses.head? = some (l.id, l.final)) ∧ evn .launchDispatch l.vd ∈ u.agenda ∧
          ∀ w t, s.wave? w.id = some w → s.waves.filter (fun v => v.id == w.id) = [w] → (∀ a, w.loc ≠ .saved a) → w.episode = none → w.agentVd = l.vd →
            t < w.threads.length → w.threads.length ≤ 32 → ∀ d, (w.th t).cond = .blocked (.lwait l.id (some d)) →
            ∃ w', u.wave? w.id = some w' ∧ (w'.th t).cond = .run ∧ (w'.th t).pc = (w.th t).pc + 4) ∧
        (l.recd.evaddr ≠ 0 → l.evDone = false → (∀ c ∈ s.cmds, c.op ≠ .evinc l.uid) → Answers .launchComplete s fun u => u.mem = s.mem ∧
          u.launches = s.launches ∧ ∃ c ∈ u.cmds, c.op = .evinc l.uid ∧ c.a = l.recd.evaddr)) ∧
      (if s.mustPark l then Answers .coopPark s fun u => u.mem = s.mem ∧ (∃ l', u.launch? l.uid = some l' ∧ l'.parked = s.nextId) ∧
         ∀ b ∈ s.blocks, b.launch = l.uid → b.onCore = true → ∀ w, s.wave? w.id = some w → w.block = b.id → w.lane?.isSome = true → asked u w (s.preemptAt b.vd)
       else exec .coopPark s = .next s)) ∧
    (match s.noticeOn s.ev.n with
     | none => exec .reclaimNotice s = .next s
     | some cl => Answers .reclaimNotice s fun u => u.mem = s.mem ∧ (u.cluster cl).notice = true ∧
         ∀ b ∈ s.borrowers cl, ∀ w, s.wave? w.id = some w → w.block = b.id → w.lane?.isSome = true →
           asked u w (s.cycle + 4000 * ((s.vd s.ev.n).reclaimto.toNat % 65536))) ∧
    (∀ w, s.wave? w.id = some w → w.block = s.ev.n → s.reclaimOver w = true → Answers .reclaimtoExpiry s fun u => u.mem = s.mem ∧
      ∃ w' r, u.wave? w.id = some w' ∧ w'.turn = none ∧ w'.saveReq = some r ∧ r.kind = some 2) ∧
    (s.ev.n < 128 →
      let c := s.cluster s.ev.n
      let droops := fun (us : Nat) => c.droops.filter fun t => decide (s.cycle ≤ t + 4000 * us)
      (Answers .thermalSample s fun u => u.mem = s.mem ∧ ((u.cluster s.ev.n).hot = true ↔
        if c.hot then 87 < s.ev.temp ∨ droops 200 ≠ [] else 95 ≤ s.ev.temp)) ∧
      (Answers .voltageDroop s fun u => u.mem = s.mem ∧ ((u.cluster s.ev.n).hot = true ↔ c.hot = true ∨ 5 ≤ (droops 100).length + 1)) ∧
      (if s.ev.m / 2 = s.ev.n / 32 ∧ ∀ k : Fin 128, s.ev.m ∉ (s.cluster k).spares then
         Answers .clusterSpareTakeover s fun u => u.mem = s.mem ∧ (u.cluster s.ev.n).spares = s.ev.m :: (s.cluster s.ev.n).spares ∧ (u.cluster s.ev.n).hot = false ∧
           (∀ x ∈ u.caches, x.core / 4 ≠ s.ev.n) ∧ (∀ e ∈ u.tlb, e.place ≠ .cluster s.ev.n) ∧ ∀ b ∈ s.blocks, b.cl = s.ev.n → b.onCore = true →
             ∀ w, s.wave? w.id = some w → w.block = b.id → w.lane?.isSome = true → asked u w (s.preemptAt b.vd)
       else exec .clusterSpareTakeover s = .next s)) ∧
    (∀ d, s.ev.n < 8 → (s.part s.ev.n).desc = some d →
      if (∃ c ∈ s.cmds, c.op = .partctl 0 ∧ c.a = BitVec.ofNat 64 s.ev.n) ∧ s.quadsFree s.ev.n = true then Answers .quadsRetired s fun u =>
        ∃ d', (u.part s.ev.n).desc = some d' ∧ d'.quads = d.quads &&& ~~~(s.part s.ev.n).leaving ∧ (u.part s.ev.n).leaving = 0
      else exec .quadsRetired s = .next s) ∧
    (∀ w h, s.ev.n < 16 → s.waves = [w] → w.loc = .vent s.ev.n h → w.held = none → Answers .ventFailure s fun u => u.mgmt.failed.getLsbD s.ev.n = true ∧
      ∃ w', u.waves = [w'] ∧ ((w'.loc = w.loc ∧ w'.halted = true) ∨ ∃ q k, q ≠ s.ev.n ∧ w'.loc = .vent q k ∧ w'.level = .s ∧ w'.queue = w.queue ∧
        w'.halted = false ∧ (w'.th 0).pc = pcOf (s.ventv q).svec)) ∧
    (∀ x, s.world? s.ev.n = some x →
      (s.worldLaunches s.ev.n = [] → Answers .worldRetire s fun u =>
        ((∀ y ∈ s.cmds, y.op ≠ .opwait) → (∀ y ∈ s.accs, ∀ d, y.stage ≠ .unready d) → u.mem = s.mem) ∧ u.world? s.ev.n = none ∧ (∀ o ∈ u.ops, o.d.key ≠ s.ev.n) ∧
        ∀ y ∈ u.caches, y.core ∉ x.cores) ∧
      (∀ l, s.launches = [l] → l.keyid = s.ev.n → l.killed = false → Answers .worldRetire s fun u =>
        (∃ l', u.launches = [l'] ∧ l'.killed = true) ∧ (u.world? s.ev.n).isSome = true ∧ evn .launchComplete l.uid ∈ u.agenda)) ∧
    (let m := s.mgmt
     let blob := leBytes 2 1 ++ zeros 2 ++ leBytes 4 m.kbind ++ keyWrap Config.wrappingKey (s.mem.bytes m.ksrc.toNat 32) ++ zeros 16
     (m.kstat ≠ 1 → exec .keyUnitDone s = .next s) ∧
     (m.kstat = 1 → inMemory m.ksrc.toNat 32 = false ∨ inMemory m.kdst.toNat 64 = false → Answers .keyUnitDone s fun u => u.mem = s.mem ∧ u.mgmt.kstat = 3) ∧
     (m.kstat = 1 → inMemory m.ksrc.toNat 32 = true → inMemory m.kdst.toNat 64 = true → Answers .keyUnitDone s fun u => u.mgmt.kstat = 2 ∧
       ∃ mid : Memory, s.mem.Wrote mid m.ksrc.toNat 32 (fun _ => 0) ∧ mid.Wrote u.mem m.kdst.toNat blob.length fun j => blob.getD j 0))

/-! ## The fabric (chapters 12 and 16) -/

/-- R166, R179, R245, R288, R289, R362, R364 to R367, R369, R370, R373: messages. A message delivered before is acknowledged again and no more; of a
package that is not present it is discarded; C0 and C1 are held until it is their turn. READ, WRITE, ATOM and WATCH act on memory here and are
answered; DATA, WACK, AREPLY and WREPLY bring an access its reply; a BULK is written and its last byte answered by BACK. A collective that matches
goes on, one that does not completes with MISMATCH, an ABORT with ABORT, once no access of its engine is on its way; a member whose rank is odd sends its partial to the rank below. What a
message's bytes are is the model's (log 17). -/
def Obligations.Messages : Prop :=
  ∀ (s : State), s.mem.wf = true →
    let e := s.ev
    let src := e.hdr.src
    let vd := e.hdr.vd.toNat
    let la := localOf e.val
    let r := s.sliceRead vd 0 (la / 64) false false
    (∀ row cls, (row, cls) ∈ [(Instr.read, 1), (.data, 1), (.write, 1), (.wack, 1), (.back, 1), (.atom, 0), (.areply, 0), (.watch, 0), (.wreply, 0), (.abort, 0),
        (.dack, 0), (.retry, 0), (.credit, 0), (.bulk, 2)] → (row = .bulk → e.ok = false) → e.hdr.dst = s.me →
      let quiet := fun (u : State) => u.mem = s.mem ∧ u.accs = s.accs ∧ u.cmds = s.cmds ∧ u.colls = s.colls ∧ u.waves = s.waves ∧ s.Silent u
      (s.peerUp src.toNat = false → Answers row s quiet) ∧ (s.plat.pscur = 3 → Answers row s quiet) ∧
      (s.plat.pscur ≠ 3 → s.peerUp src.toNat = true → s.fab.delivered (src, cls) e.hdr.seq.toNat = true → Answers row s fun u => quiet u ∧
        u.fab.acks = s.fab.acks ++ [((src, cls), e.hdr.seq.toNat)]) ∧
      (s.plat.pscur ≠ 3 → s.peerUp src.toNat = true → s.fab.delivered (src, cls) e.hdr.seq.toNat = false → cls ≠ 2 → e.hdr.seq.toNat ≠ s.fab.expected (src, cls) →
        Answers row s fun u => quiet u ∧ ∃ x ∈ u.fab.held, x.1 = cls ∧ x.2.hdr.src = src ∧ x.2.hdr.seq = e.hdr.seq)) ∧
    (s.Arrives 1 →
      (s.Open e.val → e.kind < 16 → (s.partOf vd).isSome = true → Answers .read s fun u => u.mem = r.mem ∧ s.Sends u src vd
        { row := .data, entry := e.entry, data := BitVec.ofNat 512 (s.mem.val (64 * (la / 64)) 64), psn := r.marksOf la }) ∧
      (s.Open e.val → e.kind = 0 → e.size ≤ 64 → s.Unwatched la e.size → Answers .write s fun u => s.Sends u src vd { row := .wack, entry := e.entry } ∧
        ∀ a, u.mem.byte a = if la ≤ a ∧ a < la + e.size ∧ e.bmask.getLsbD (a - la) = true then e.data.extractLsb' (8 * (a - la)) 8 else s.mem.byte a) ∧
      (∀ a ∈ s.requested e, s.acc? a.id = some a →
        (e.status = 0 ∨ e.status = 8 → Answers .data s fun u => u.mem = s.mem ∧ evn .loadDataArrival a.id ∈ u.agenda ∧ u.acc? a.id =
          some { a with data := e.data, psn := e.psn, far := true, nokeep := a.nokeep || e.status == 8, stage := .performed }) ∧
        (e.status = 0 → ∀ n, (s.requested e)[n]? = some a → s.Fresh → Answers .wack s fun u => u.mem = s.mem ∧ evn .storeAck a.id ∈ u.agenda ∧
          u.acc? a.id = some { a with fp := BitVec.ofNat 5 (if n = 0 then e.n else field e.bytes (n - 1) 1), stage := .performed })) ∧
      (e.n < 2 ^ 31 → ∀ x, s.colls.find? (fun y => decide (y.no = e.n) && y.status.isNone) = some x → s.coll? x.cmd = some x → e.status = 0 →
        Answers .back s fun u => u.mem = s.mem ∧ u.coll? x.cmd = some { x with acks := src :: x.acks })) ∧
    (s.Arrives 0 →
      (s.Open e.val → let size := if e.ok then 8 else 4
        let old := s.mem.val la size
        let x := atomNew (AtOp.ofCode e.kind) size old (e.data.toNat % 2 ^ (8 * size)) (e.data.toNat / 2 ^ 64 % 2 ^ (8 * size))
        e.bytes = [] → (s.partOf vd).isSome = true → s.Unwatched la size → Answers .atom s fun u => s.mem.Wrote u.mem la size (fun j => BitVec.ofNat 8 (x.1 / 2 ^ (8 * j))) ∧ s.Sends u src vd
          { row := .areply, entry := e.entry, n := x.2.toNat, val := old, psn := r.mem.poison la size }) ∧
      (s.Open e.val → e.bytes = [] → let word := BitVec.ofNat 32 (s.mem.val la 4)
        if watchCond e.n word (BitVec.ofNat 32 e.m) then Answers .watch s fun u => u.mem = r.mem ∧ s.Sends u src vd
          { row := .wreply, entry := e.entry, n := e.tag.toNat % 32, val := word.toNat }
        else Answers .watch s fun u => u.mem = r.mem ∧ s.Silent u ∧
          u.fab.watches = s.fab.watches ++ [⟨e.hdr, e.entry, la, e.n, BitVec.ofNat 32 e.m, s.watchRoom la, e.tag.toNat % 32⟩]) ∧
      (∀ a ∈ s.requested e, s.acc? a.id = some a → e.status = 0 →
        (∀ op rt cl, a.kind = .atomic op rt cl → (s.requested e)[0]? = some a → s.Fresh → Answers .areply s fun u => u.mem = s.mem ∧ evn .atomicReply a.id ∈ u.agenda ∧ u.acc? a.id =
          some { a with data := BitVec.ofNat 512 e.val, psn := if e.psn = 0 then 0 else a.span, fp := BitVec.ofNat 5 e.n, stage := .performed }) ∧
        (a.tid = e.n → Answers .wreply s fun u => u.mem = s.mem ∧ evn .waitmReply a.id ∈ u.agenda ∧
          u.acc? a.id = some { a with data := BitVec.ofNat 512 e.val, stage := .performed })) ∧
      (∀ c x, s.collOf vd e.n e.tag = some (c, x) → s.coll? c.id = some x → s.CanEnd c → Answers .abort s fun u => u.cmd? c.id = none ∧
        ∃ y ∈ u.colls, y.cmd = c.id ∧ y.num = x.num ∧ y.status = some 9) ∧
      (∀ c x, s.collOf vd e.n e.tag = some (c, x) → c.status < 512 → s.cmdBusy c.id = true → Answers .abort s fun u =>
        ∃ c', u.cmd? c.id = some c' ∧ c'.status = 521) ∧
      (s.collOf vd e.n e.tag = none → (∀ x ∈ s.colls, x.vd = vd → x.ctx = e.n → x.tag = e.tag → x.met = []) →
        (vd, e.n, e.tag) ∉ s.aborts → Answers .abort s fun u => u.mem = s.mem ∧ u.aborts = s.aborts ++ [(vd, e.n, e.tag)])) ∧
    (s.Arrives 2 → e.ok = false → e.coll = none → 2 ^ 31 ≤ e.n → e.bytes.length ≤ e.k → (∀ x ∈ s.fab.bulk, x.1 ≠ (src, BitVec.ofNat 32 e.n)) → e.bytes ≠ [] → e.bytes.length < 2 ^ 40 →
      (∀ i, i < e.bytes.length → s.Open (e.val + i)) → s.Unwatched la e.bytes.length → Answers .bulk s fun u =>
        s.mem.Wrote u.mem la e.bytes.length (fun j => e.bytes.getD j 0) ∧
        if e.bytes.length < e.k then s.Silent u ∧ ((src, BitVec.ofNat 32 e.n), e.bytes.length) ∈ u.fab.bulk
        else s.Sends u src vd { row := .back, n := e.n, m := e.bytes.length }) ∧
    (∀ p, e.coll = some p →
      (s.collOf p.vd.toNat p.ctx.toNat p.tag = none → e.row = .collMatch → Answers .collMatch s fun u => u.mem = s.mem ∧
        u.fab.held = s.fab.held ++ [(2, { e with ok := true, entry := 0 })]) ∧
      ∀ c x, s.collOf p.vd.toNat p.ctx.toNat p.tag = some (c, x) → s.coll? c.id = some x → let d := CollDesc.ofBytes c.bytes
        if p.op.toNat = d.op ∧ p.comb.toNat = d.comb ∧ p.dkind.toNat = d.dkind ∧ p.root.toNat = d.root ∧ p.count.toNat = d.count ∧ p.group = d.group
        then Answers .collMatch s fun u => u.mem = s.mem ∧ ∃ y, u.coll? c.id = some y ∧ BitVec.ofNat 7 e.m ∈ y.met ∧ y.status = none
        else s.CanEnd c → Answers .collMatch s fun u => u.cmd? c.id = none ∧ ∃ y ∈ u.colls, y.cmd = c.id ∧ y.num = x.num ∧ y.status = some 8) ∧
    (∀ c x, s.cmd? e.n = some c → c.op = .coll → c.stage = .queued → s.heldBack c = false → c.bytes.length = 64 → c.status = 0 → c.dst = 64 → c.deadline = 0 →
      c.b = 0 → s.coll? c.id = some x → x.met ≠ [] → s.me ∉ x.acks → (∀ y ∈ x.parts, y.2.1 < 1000) →
      let d := CollDesc.ofBytes c.bytes
      let own := d.rank s.fab.pkg
      let below := (members d.group)[own - 1]?.getD 0
      d.op = 0 → 0 < d.count → own % 2 = 1 → (∀ n ∈ members d.group, n ≠ s.fab.pkg → s.peerUp n = true ∧ BitVec.ofNat 7 n ∈ x.met) → below ≠ s.fab.pkg →
      d.words d.count ≤ (x.of own).length → (x.of own).length ≤ 890 →
      Answers .collCombine s fun u => u.mem = s.mem ∧ s.Sends u (BitVec.ofNat 7 below) c.vd
        { row := .bulk, n := c.no, m := own, k := 4 * (x.of own).length, bytes := bytesOf (x.of own) } ∧ ∃ y, u.coll? c.id = some y ∧ s.me ∈ y.acks)

/-- R354, R357, R359, R360, R362, R365, R372 to R374, R398, R410: the calendar and its upkeep. While the package is locked a slot's start moves
SLOTNOW on, declares peers absent that two maps show dark, and sends what is to be acknowledged. Two marks that agree and follow each other lock it,
two missed marks end the lock: every peer is absent then. A peer that is gone fails the accesses under way to it. Relays send the second hop in a
joined slot, and not in the slot in which it came if its last flit came in the last 0.4 us of the window; failing wavelengths are
replaced by spares; DACK, RETRY and CREDIT act on what was sent. That a DACK is sent as a slot starts, and its bytes, and that a relay's credits wait for a slot
that joins it to their source, are the model's (log 17). -/
def Obligations.FabricUpkeep : Prop :=
  ∀ (s : State),
    let f := s.fab
    let e := s.ev
    (Answers .slotStart s fun u => u.mem = s.mem ∧ u.fab.slotAt = (if f.locked then f.slotAt + 8000 else s.cycle) ∧ u.fab.slotnow = (if f.locked then f.slotnow + 1 else f.slotnow) ∧
      (f.locked = true → (∀ q, q < 128 → s.peerUp q = true → f.lastMap.getLsbD q = false → markBit f.mark q = false → evn .peerAbsent q ∈ u.agenda) ∧
        ∀ q c n, f.acks = [((q, c), n)] → c < 3 → s.peerUp q.toNat = true → ∃ m ∈ u.fab.unacked ++ u.fab.waiting, m.dst = q ∧
          (m.cls, m.kind, m.pay) = Event.wire { row := .dack, n := c, seqs := [n] }) ∧
      (f.locked = true → ∀ q n, f.owed = [(q, n)] → s.peerUp q.toNat = true →
        (∃ p, p < 8 ∧ f.lit p = true ∧ f.joined f.pkg p ((f.slotnow + 1).toNat % f.cycle) = q.toNat) →
        u.fab.owed = [] ∧ ∃ m ∈ u.fab.unacked ++ u.fab.waiting, m.dst = q ∧ (m.cls, m.kind, m.pay) = Event.wire { row := .credit, n := n })) ∧
    (∀ x m, s.plat.pscur ≠ 3 → f.locked = false → f.mark = some x → e.mark = some m → x.agree = true → m.agree = true → m.slot = x.slot + 1 → m.nlog = x.nlog → m.pkg = x.pkg →
      Answers .slotMark s fun u => u.mem = s.mem ∧ u.fab.locked = true ∧ u.fab.podcfg = true ∧ u.fab.nlog = m.nlog.toNat ∧ u.fab.pkg = m.pkg.toNat ∧
        u.fab.slotnow + 1 = m.slot ∧ u.fab.missed = 0) ∧
    (s.plat.pscur ≠ 3 → f.locked = true → e.mark = none → Answers .slotMark s fun u => u.mem = s.mem ∧ u.fab.missed = f.missed + 1 ∧ u.fab.locked = true ∧
      (1 ≤ f.missed → evn .calendarLockLoss 0 ∈ u.agenda)) ∧
    (if f.locked = true ∧ (2 ≤ f.missed ∨ s.plat.pscur = 3) then Answers .calendarLockLoss s fun u => u.fab.locked = false ∧ u.fab.slotnow = BitVec.allOnes 64 ∧
       ∀ q, u.peerUp q = false
     else exec .calendarLockLoss s = .next s) ∧
    (if s.peerUp e.n then Answers .peerAbsent s fun u => u.peerUp e.n = false ∧ (∀ x ∈ u.fab.relayed, x.msg.src ≠ BitVec.ofNat 7 e.n ∧ x.msg.dst ≠ BitVec.ofNat 7 e.n) ∧
       ∀ a n, s.acc? a.id = some a → a.stage = .remote n ∨ a.stage = .held → pkgOf a.pa = e.n → ∃ b, u.acc? a.id = some b ∧ b.stage = .failed .absent e.n
     else exec .peerAbsent s = .next s) ∧
    (e.n < 128 →
      if s.peerUp e.n = false ∧ e.n ≠ f.pkg ∧ f.locked = true ∧ f.lastMap.getLsbD e.n = true ∧ markBit f.mark e.n = true then
        Answers .peerPresent s fun u => u.mem = s.mem ∧ u.peerUp e.n = true ∧ ∀ c, u.fab.expected (BitVec.ofNat 7 e.n, c) = 0
      else exec .peerPresent s = .next s) ∧
    (∀ x : Relayed, f.passing e = some x → let m := { x.msg with hop := 2 }
      let least := f.slotnow.toNat + if x.late ∧ x.slot = f.slotnow.toNat then 1 else 0
      let joins := fun k p => p < 8 ∧ f.lit p = true ∧ f.joined f.pkg p (k % f.cycle) = m.dst.toNat
      if f.slotnow = BitVec.allOnes 64 ∨ (∃ y ∈ f.queue, y.relay = true ∧ y.msg = m) then exec .relayForward s = .next s
      else Answers .relayForward s fun u => u.mem = s.mem ∧ ∃ q : Outgoing, u.fab.queue = f.queue ++ [q] ∧ q.msg = m ∧ q.relay = true ∧ q.sent = 0 ∧
        ∀ k p, q.hop = some (k, p) → least ≤ k ∧ joins k p ∧ ∀ k' p', least ≤ k' → joins k' p' → k ≤ k') ∧
    (∀ p q g, q.relay = true → q.msg.flits ≤ q.sent + 1 → let u := s.sendFlit p q g
      (∃ a b, u.fab.outbox = f.outbox ++ [⟨f.slotnow.toNat, p, a, b, q.msg, q.sent⟩]) ∧
      (∀ x, x ∈ u.fab.relayed ↔ x ∈ f.relayed ∧ ¬(x.msg.src = q.msg.src ∧ x.msg.dst = q.msg.dst ∧ x.msg.cls = q.msg.cls ∧ x.msg.seq = q.msg.seq)) ∧
      u.fab.owing q.msg.src = f.owing q.msg.src + q.msg.flits) ∧
    (let k := e.m % 8
     let tx := decide (e.m < 8)
     let x := f.fibre e.n k tx
     (if e.ok then exec .wavelengthRetrain s = .next s
      else Answers .wavelengthRetrain s fun u => u.mem = s.mem ∧ u.fab.fibre e.n k tx = { x with active := x.active - 1 } ∧
        (if f.locked then u.fab.sparing = f.sparing ++ [(e.n, k, tx, f.slotnow.toNat + 1)] else { row := .wavelengthSpare, n := e.n, m := e.m } ∈ u.agenda) ∧
        (e.n < 8 → u.fab.sideLost e.n false = true → u.fab.sideLost e.n true = true → u.fab.lit e.n = false)) ∧
     (if 124 ≤ x.active then exec .wavelengthSpare s = .next s
      else if 0 < x.spares ∧ 0 < x.active then Answers .wavelengthSpare s fun u => u.mem = s.mem ∧
        u.fab.fibre e.n k tx = { x with active := x.active + 1, spares := x.spares - 1 }
      else Answers .wavelengthSpare s fun u => u.fab.fibre e.n k tx = x)) ∧
    (e.n < 8 → Answers .planeRestored s fun u => u.mem = s.mem ∧ u.fab.lit e.n = true) ∧
    (let bs := leBytes 128 e.val
     let k : BitVec 7 × Nat := (BitVec.ofNat 7 (flitField (field bs 0 8) 57 7), flitField (field bs 0 8) 48 2)
     let n := flitField (field bs 0 8) 11 24
     if s.flitOk bs = true then Answers .discardedFlit s fun u => u.mem = s.mem ∧ u.fab.flits = f.flits ++ [bs]
     else if flitField (field bs 0 8) 50 7 = f.pkg ∧ s.peerUp k.1.toNat = true ∧ k.2 ≤ 2 ∧ f.delivered k n = false ∧ (k, n) ∉ f.retries then
       Answers .discardedFlit s fun u => u.mem = s.mem ∧ u.fab.retries = f.retries ++ [(k, n)]
     else exec .discardedFlit s = .next s) ∧
    (s.Arrives 0 →
      (Answers .dack s fun u => u.mem = s.mem ∧
        u.fab.unacked = f.unacked.filter fun m => !(m.dst == e.hdr.src && m.cls == e.n && e.seqs.contains m.seq.toNat)) ∧
      (∀ m, f.unacked.filter (fun m => m.dst == e.hdr.src && m.cls == e.n && e.seqs.contains m.seq.toNat) = [m] → (s.partOf m.vd).isSome = true → Answers .retry s fun u => u.mem = s.mem ∧
        (∃ x ∈ u.fab.queue, x.relay = false ∧ x.sent = 0 ∧ x.msg.dst = m.dst ∧ x.msg.cls = m.cls ∧ x.msg.seq = m.seq ∧ x.msg.kind = m.kind ∧ x.msg.pay = m.pay) ∧
        (m.vd < 64 → (u.vd m.vd).err.cesta.getLsbD 1 = true)) ∧
      (Answers .credit s fun u => u.mem = s.mem ∧ ∀ x ∈ f.spent, x.1 = e.hdr.src → (x.1, x.2 - e.n) ∈ u.fab.spent)) ∧
    exec .idle s = .next s

/-! ## Ports, the sideband, power and registers (chapters 03, 15, 17 and 18) -/

/-- R303, R395, R403 to R405, R409: a request of a root port that a partition owns becomes a command under its context; of another port it has
Unsupported Request. Links go down and up; an AER event is an ECC event of the SYSVD. Every SPDM request has one answer, a partition's measurement
its digest; the sideband resets the package or a partition, and discards the rest. The codes and layouts are SPDM 1.3's (log 21). -/
def Obligations.PortsAndSideband : Prop :=
  ∀ (s : State),
    let n := s.ev.n
    let asks := fun (row : Instr) (rd posted : Bool) (size : Nat) (bs : List Byte) => Answers row s fun u => u.mem = s.mem ∧
      match (if s.ev.kind = 0 then s.portCtx n else none) with
      | none => u.cmds = s.cmds ∧ u.plat.portOut = if posted then s.plat.portOut else s.plat.portOut ++ [(n, 3, s.ev.k, [])]
      | some (_, v, c, _) => ∃ x, u.cmds = s.cmds ++ [x] ∧ x.op = .portIn n rd posted ∧ x.a = BitVec.ofNat 64 s.ev.val ∧ x.b = BitVec.ofNat 64 size ∧
          x.vd = v ∧ x.ctx = c ∧ x.bytes = bs ∧ (s.Fresh → evn .engineCommandComplete x.id ∈ u.agenda)
    let answers := fun (row : Instr) (code : Nat) (P : List Byte → Prop) => Answers row s fun u => u.mem = s.mem ∧
      ∃ p1 p2 bs, u.plat.sbOut = s.plat.sbOut ++ [[if row = .getVersion then 0x10 else 0x13, BitVec.ofNat 8 code, p1, p2] ++ bs] ∧ P bs
    asks .pcieInboundRead true false s.ev.m [] ∧ asks .pcieInboundWrite false s.ev.ok s.ev.bytes.length s.ev.bytes ∧
    (n < 16 → (Answers .pcieLinkDown s fun u => u.mem = s.mem ∧ u.plat.up.getLsbD n = false ∧ ∀ k, k ≠ n → u.plat.up.getLsbD k = s.plat.up.getLsbD k) ∧
      Answers .pcieLinkUp s fun u => u.mem = s.mem ∧ u.plat.up.getLsbD n = true ∧ ∀ k, k ≠ n → u.plat.up.getLsbD k = s.plat.up.getLsbD k) ∧
    (∀ p v c o, s.portCtx n = some (p, v, c, o) → s.sysvd p < 64 → (s.partOf (s.sysvd p)).isSome = true → Answers .pcieAerEvent s fun u => u.mem = s.mem ∧
      (u.vd (s.sysvd p)).err.uesta.getLsbD TrapClass.ecc.code = true) ∧
    answers .getVersion 0x04 (fun bs => bs = [0, 1, 0, 0x13]) ∧ answers .getCapabilities 0x61 (fun _ => True) ∧
    answers .negotiateAlgorithms 0x63 (fun bs => bs.length = 32 ∧
      (bs.drop 8).take 8 = leBytes 4 (if n.testBit 9 then 2 ^ 9 else 0) ++ leBytes 4 (if s.ev.m.testBit 6 then 2 ^ 6 else 0)) ∧
    answers .getDigests 0x01 (fun bs => bs.length = 32) ∧
    (if n = 0 ∧ s.ev.m < certLength then answers .getCertificate 0x02 fun bs => ∃ k, k = min s.ev.k (certLength - s.ev.m) ∧ bs.length = 4 + k ∧
       bs.take 4 = leBytes 2 k ++ leBytes 2 (certLength - s.ev.m - k)
     else answers .getCertificate 0x7F (fun bs => bs = [])) ∧
    (if n = 0 then answers .challenge 0x03 (fun bs => bs.length = 138 ∧ bs.take 32 = certDigest) else answers .challenge 0x7F (fun bs => bs = [])) ∧
    (5 ≤ n → n < 13 → answers .getMeasurements 0x60 fun bs =>
      bs.take 1 = [1] ∧ (bs.drop 4).take 1 = [BitVec.ofNat 8 n] ∧
      (bs.drop 11).take 32 = if (s.part (n - 5)).desc.isSome then digestBytes (s.part (n - 5)).digest else zeros 32) ∧
    answers .spdmUnsupportedRequest 0x7F (fun bs => bs = []) ∧
    exec .packageReset s = .next { State.reset with freeCtr := s.freeCtr } ∧ exec .sidebandPackageReset s = .next { State.reset with freeCtr := s.freeCtr } ∧
    (n < 8 → (s.part n).desc.isSome = true → Answers .sidebandPartitionReset s fun u => (u.part n).pstate = 2 ∧
      ∀ w, s.wave? w.id = some w → s.ventOf n w = true → ∃ w', u.wave? w.id = some w' ∧ w'.halted = true) ∧
    (s.plat.pscur = 0 → exec .sidebandOtherMessage s = .next s)

/-- R43, R394, R406 to R409: power states. A quiet package enters the deepest state that its tolerances allow; in PS2 the compute dies lose their
caches; in PS3 every cache and TLB is empty, dirty lines are written back, and the keys of live worlds are zeroed. An event starts an exit, which takes the state's latency and ends in PS0; a damaged copy of the
keys retires their worlds. Removed power keeps nothing. (That an exit takes just the latency of R406 is log 45, that a discarded sideband message starts one log 75.) -/
def Obligations.PowerStates : Prop :=
  ∀ (s : State),
    let ps := s.plat.pscur
    let leaves := fun (row : Instr) (w : WakeEvent) => if ps = 0 then exec row s = .next s
      else Answers row s fun u => u.mem = s.mem ∧ u.agenda = s.agenda ++ [{ row := .powerStateExit, wake := w }]
    (if ps = 0 ∧ s.deepest ≠ 0 then Answers .powerStateEntry s fun u => u.mem = s.mem ∧ u.plat.pscur = s.deepest ∧ u.plat.exitAt = none ∧
       (2 ≤ s.deepest → ∀ x ∈ u.caches, 512 ≤ x.core) ∧
       (s.deepest = 3 → u.caches = [] ∧ u.tlb = [] ∧ u.sysCache = [] ∧ (∀ x ∈ u.l2, x.dirty = false) ∧ ∀ w ∈ u.keys.worlds, w.dkey = 0 ∧ w.tkey = 0)
     else exec .powerStateEntry s = .next s) ∧
    (s.deepest ≤ s.mgmt.maxps ∧ psLatency s.deepest ≤ s.tolerance ∧ (s.deepest ≠ 0 → s.quietPackage = true) ∧ (s.deepest = 3 → s.idlePackage = true)) ∧
    (if ps ≠ 0 ∧ s.plat.exitAt = none then Answers .powerStateExit s fun u => u.mem = s.mem ∧ u.plat.pscur = ps ∧
       u.plat.exitAt = some (s.cycle + 4000 * psLatency ps)
     else exec .powerStateExit s = .next s) ∧
    (if s.plat.exitAt = none then exec .powerExitComplete s = .next s
     else Answers .powerExitComplete s fun u => u.plat.pscur = 0 ∧ u.plat.exitAt = none ∧ u.keys.sleepKey = none ∧
       (s.keys.sleepKey = none → u.mem = s.mem ∧ u.keys.worlds = s.keys.worlds) ∧
       (s.keys.sleepKey ≠ none → s.ev.ok = true → ∀ w ∈ s.keys.worlds, evn .worldRetire w.keyid ∈ u.agenda)) ∧
    leaves .wakeatExpiry .wakeAt ∧ leaves .sidebandOtherMessage .sideband ∧
    Answers .powerRemoved s fun u => u = { State.reset with freeCtr := s.freeCtr, plat := { State.reset.plat with off := true } }

/-- R40, R43, R271, R309, R340, R342, R345, R346, R383, R385 to R387, R396, R398, R411, R412, R414: what register accesses and scrubbing do. Writing ones clears UESTA
and pending bits; a VD's table entry is read afresh; QNEXT hands out the record that the thread then holds, and QDONE frees it; a counter's high
word is latched; CLGUAR takes what fits; RFMLOCK only sets; GO starts an idle key unit; reserved words ignore writes. Buckets fill up to their
depth. A strike marks the words it names: a line of the memory devices until its home slice has it, a dirty line of a slice, a register, a word of scratch, an
element of an accumulator; a struck line of a cache is dropped. R396: a scrub error is reported to the SYSVD of the frame; that a corrected one counts
in its CESTA is log 46, and the places a strike can name are the model's (log 76). -/
def Obligations.RegisterEvents : Prop :=
  ∀ (s : State),
    let n := s.ev.n
    let x := BitVec.ofNat 32 s.ev.val
    let gives := fun (u : State) (k : Nat) (v : Word) => ∀ a, s.acc? k = some a → u.acc? k =
      some { a with data := BitVec.ofNat 512 (v.toNat * 2 ^ (8 * (a.pa % 64))), stage := .performed, nokeep := true }
    (n < 64 → (Answers .lattolWrite s fun u => u.mem = s.mem ∧ (u.vd n).ctl.lattol = x) ∧
      (Answers .uestaWrite s fun u => u.mem = s.mem ∧ (u.vd n).err.uesta = (s.vd n).err.uesta &&& ~~~x ∧ (u.vd n).err.ring = (s.vd n).err.ring) ∧
      (∀ p d, s.partOf n = some p → (s.part p).desc = some d → Answers .clguarWrite s fun u => u.mem = s.mem ∧ (u.vd n).clguar.toNat ≤ s.ev.val % 256 ∧
        (u.vd n).clguar.toNat + ((s.vdsOf p).filter (· ≠ n)).foldl (fun k v => k + (s.vd v).clguar.toNat % 256) 0 ≤
          max (quadClusters d.quads).length (((s.vdsOf p).filter (· ≠ n)).foldl (fun k v => k + (s.vd v).clguar.toNat % 256) 0)) ∧
      (s.ev.m < 6 → Answers .gCounterRead s fun u => u.mem = s.mem ∧ gives u s.ev.k (lowWord (if s.ev.ok then (s.rate n s.ev.m).g2 else (s.rate n s.ev.m).g1)) ∧
        u.rate n s.ev.m = if s.ev.ok then { s.rate n s.ev.m with l2 := highWord (s.rate n s.ev.m).g2 }
          else { s.rate n s.ev.m with l1 := highWord (s.rate n s.ev.m).g1 })) ∧
    (let v := s.ev.m % 64
     let calm := ∀ w ∈ s.waves, w.vd = v → ∀ i, w.loc ≠ .saved i
     if s.partOf v = some n then Answers .vtrefWrite s fun u => (calm → u.mem = s.mem) ∧
       (u.vd v).entry = (s.entryAt v).map (fun a => s.mem.bytes a 1024) ∧
       ((s.vd v).entry = none → (u.vd v).ctl.tqhead = 0 ∧ (u.vd v).ctl.tqtail = 0) ∧ ∀ x y, (s.vd v).entry = some x → (u.vd v).entry = some y → if (x.drop 0x90).take 12 = (y.drop 0x90).take 12 then (u.vd v).ctl = (s.vd v).ctl
         else (u.vd v).ctl.tqhead = 0 ∧ (u.vd v).ctl.tqtail = 0
     else exec .vtrefWrite s = .next s) ∧
    (n < 256 → Answers .qpendWrite s fun u => u.mem = s.mem ∧ (u.queue n).pend = (s.queue n).pend &&& ~~~x ∧ (u.queue n).own = (s.queue n).own) ∧
    (∀ w, s.wave? s.ev.m = some w →
      (∀ proc h r ptr, w.loc = .vent proc h → w.held = none → s.nextRing proc n = some (r, ptr) → Answers .qnextRead s fun u => u.mem = s.mem ∧
        WaveLeft s u w { w with held := some r, serves := r.vd } ∧ gives u s.ev.k (BitVec.ofNat 32 (2 ^ 31 + r.vd * 2 ^ 24 + r.ring * 2 ^ 20 + r.slot)) ∧
        (r.vd < 64 → r.ring < 8 → ((u.vd r.vd).ring r.ring).unserved = ((s.vd r.vd).ring r.ring).unserved.drop 1)) ∧
      (∀ proc h, w.loc = .vent proc h → w.held = none → s.nextRing proc n = none → Answers .qnextRead s fun u => u.mem = s.mem ∧ u.waves = s.waves ∧ gives u s.ev.k 0) ∧
      (∀ r, w.held = some r →
        if s.ev.val / 2 ^ 24 % 64 = r.vd ∧ s.ev.val / 2 ^ 20 % 8 = r.ring ∧ s.ev.val % 4096 = r.slot then Answers .qdoneWrite s fun u =>
          ((∀ w ∈ s.waves, w.vd = r.vd → ∀ i, w.loc ≠ .saved i) → u.mem = s.mem) ∧ (∃ w', u.wave? w.id = some w' ∧ w'.held = none ∧ w'.serves = w.vd) ∧ (r.vd < 64 → r.ring < 8 → r.slot ∉ ((u.vd r.vd).ring r.ring).held)
        else exec .qdoneWrite s = .next s)) ∧
    (Answers .rfmlockWrite s fun u => u = { s with mgmt := u.mgmt } ∧ u.mgmt = { s.mgmt with rfmlock := s.mgmt.rfmlock || x.getLsbD 0 }) ∧
    (if x.getLsbD 31 = true ∧ s.mgmt.kstat ≠ 1 then Answers .kcmdGo s fun u => u.mem = s.mem ∧ u.mgmt.kstat = 1 ∧ u.mgmt.kbind = s.ev.val % 64 ∧
       evn .keyUnitDone 0 ∈ u.agenda
     else exec .kcmdGo s = .next s) ∧
    (match regAt n with
     | .vd v o => v < 64 → (o = 0 → Answers .registerWrite s fun u => u.mem = s.mem ∧ (u.vd v).ctl.preemptto = if x &&& 0xFFFF = 0 then 1 else x &&& 0xFFFF) ∧
         (o = 4 → Answers .registerWrite s fun u => u.mem = s.mem ∧ (u.vd v).ctl.jointo = x) ∧
         (o = 0x10C → Answers .registerWrite s fun u => u.mem = s.mem ∧ (u.vd v).err.cesta = (s.vd v).err.cesta &&& ~~~x) ∧
         (0x2C8 ≤ o → exec .registerWrite s = .next s)
     | .queue q o => q < 256 → if o = 12 then Answers .registerWrite s fun u => u.mem = s.mem ∧ (u.queue q).own = x &&& 0x187 ∧ (u.queue q).pend = (s.queue q).pend
         else exec .registerWrite s = .next s
     | .mgmt o => (0x100 ≤ o → o < 0x500 → s.mgmt.rfmlock = true → exec .registerWrite s = .next s) ∧
         (o = 0x00C → Answers .registerWrite s fun u => u.mem = s.mem ∧ u.mgmt.maxps = min 3 (s.ev.val % 8))
     | .none => exec .registerWrite s = .next s
     | _ => True) ∧
    (∀ inst v, n < 6 → v < 64 → (s.rate v n).rate ≠ 0 → let t := s.cycle - s.arb.filled[n]?.getD 0
      Answers .bucketRefill s fun u => u.mem = s.mem ∧ u.level n inst v = if n = 1 ∨ n = 4 then s.level n inst v
        else min (s.level n inst v + (s.rate v n).rate.toNat * (if n = 5 then 3 * (t / 4) else t)) (1024 * (s.rate v n).depth.toNat)) ∧
    (let line := s.ev.val / 64
     (∀ p, s.ownerOf (64 * line) = some p → s.sysvd p < 64 → (s.partOf (s.sysvd p)).isSome = true →
       (s.ev.kind = 0 → isMemory s.ev.val = true → Answers .memoryScrub s fun u => u.mem = s.mem ∧
         if s.ev.ok then u.badLines = s.badLines ∧ (u.vd (s.sysvd p)).err.cesta.getLsbD 0 = true
         else line ∈ u.badLines ∧ (u.vd (s.sysvd p)).err.uesta.getLsbD TrapClass.ecc.code = true) ∧
       (∀ x, s.ev.kind = 1 → s.l2.find? (fun x => x.line == line) = some x → x.dirty = true → Answers .memoryScrub s fun u =>
         (∀ a, u.mem.byte a = s.mem.byte a) ∧ (∀ i, i < 16 → u.mem.marked (64 * line + 4 * i) = true) ∧ (∀ a, s.mem.marked a = true → u.mem.marked a = true) ∧
         (u.vd (s.sysvd p)).err.uesta.getLsbD TrapClass.ecc.code = true)) ∧
     (s.ev.kind = 2 → Answers .memoryScrub s fun u => u.mem = s.mem ∧ u.sysCache = s.sysCache.erase line) ∧
     (s.ev.kind = 3 → Answers .memoryScrub s fun u => u.mem = s.mem ∧ ∀ c ∈ u.caches, c.core = n → c.line ≠ line) ∧
     (∀ w cl core lane, s.ev.kind = 4 → s.wave? n = some w → w.loc = .lane cl core lane → w.episode = none → s.ev.k < 48 → s.ev.m < w.threads.length →
       Answers .memoryScrub s fun u => u.mem = s.mem ∧ ∃ v, WaveLeft s u w (w.mapTh s.ev.m fun th => setV th s.ev.k ⟨v, true⟩)) ∧
     ∀ b, s.block? n = some b → b.onCore = true →
       (s.ev.kind = 5 → s.ev.val < b.ssize → Answers .memoryScrub s fun u => u.mem = s.mem ∧ ∃ b', u.block? n = some b' ∧ b'.scratch = b.scratch ∧
         s.ev.val / 4 ∈ b'.smarks) ∧
       (s.ev.kind = 6 → s.ev.val < 1024 * b.arows → s.ev.val % 1024 < b.acols → Answers .memoryScrub s fun u => u.mem = s.mem ∧
         ∃ b' v, u.block? n = some b' ∧ sget Reg.zero b'.acc s.ev.val = ⟨v, true⟩))

/-! ## A step, decoding, reset and the invariants -/

/-- R26, R32, R79, R80, R220, R223: a step with nothing due issues. The word at the PC of the chosen bundle, where it decodes to an instruction that
breaks no check of R79, runs exactly as exec gives for that bundle; around exec the step consumes the prefixes, keeps the turn, charges the issue
and lets time pass. A word that breaks a check raises its class and reason in every thread of the bundle, and the step does no more. A sequencer
issues the first entry that may, and a step with an event due is that event. -/
def Obligations.StepRunsDecoded : Prop :=
  (∀ (s : State) (v : Wave) (rest : List Agent) (p : Pick) (ptr : Option (Nat × Nat)) (s2 : State) (pa key : Nat), s.agenda = [] → s.plat.off = false →
    s.plat.pscur ≠ 3 → s.turnOrder = Agent.wave v.id :: rest → s.wave? v.id = some v →
    let s0 : State := { s with sel := (rest ++ [Agent.wave v.id]).headD (.wave v.id) }
    let s1 : State := State.startTurn { s0 with arb := { s0.arb with ptrs := match ptr with
      | some x => (v.arbiter, x) :: s0.arb.ptrs.filter (fun y => y.1 != v.arbiter)
      | none => s0.arb.ptrs } } p
    s0.issueAt v.arbiter = some (p, ptr) → s1.walkerBusy (s1.fetcher p.wave) p.pc = false →
    s1.resolve (s1.fetcher p.wave) .exec p.pc false = (s2, .ok pa key) → pkgOf pa = s2.fab.pkg → s2.windowAt pa = none → isMemory (localOf pa) = true →
    let s3 := s2.sliceRead p.wave.agentVd key (localOf pa / 64) p.wave.isVent false
    s3.mem.marked (localOf pa) = false → p.mask ≠ 0 →
    let x : Word := BitVec.ofNat 32 (leVal (s3.getBytes key (localOf pa) 4))
    let op := (opOf x).toNat
    let rep := p.wave.pfx.elim p.pc (·.firstPc)
    let traps := fun (cls : TrapClass) (reason : Nat) (info : Word) (pc : DWord) =>
      step s = .next ((s3.raiseBundle p.wave p.mask cls reason info pc 0).close true)
    let tile := decide (0xC0 ≤ op) && decide (op ≤ 0xCF)
    let broken := privBroken p.wave op
    let order := orderBroken p.wave.pfx op
    (∀ i, decodeWord x = .ok i → tile = false → broken = false → order = false →
      (i.regCheck p.wave.alloc = none → (i.held = false ∨ p.wave.episode.isSome = true ∨ ∀ t, s3.hasLogged p.wave.id t = false) →
        step s = onNext (fun t => (t.afterIssue i (some p)).close true) (exec i (s3.issueFor p.wave p.mask x p.pc))) ∧
      (∀ r, i.regCheck p.wave.alloc = some r → traps .udi r.code (BitVec.ofNat 32 r.code) rep)) ∧
    (decodeWord x = .error .allZero → traps .udi 1 1 rep) ∧
    (decodeWord x = .error .unassigned → traps .udi 0 0 rep) ∧
    (decodeWord x ≠ .error .allZero → decodeWord x ≠ .error .unassigned →
      (tile = true → traps .udi 2 2 rep) ∧
      (tile = false → broken = true → traps .priv 0 (BitVec.ofNat 32 op) rep) ∧
      (tile = false → broken = false → order = true → traps .udi 8 8 p.pc) ∧
      (∀ r, tile = false → broken = false → order = false → decodeWord x = .error r → traps .udi r.code (BitVec.ofNat 32 r.code) rep))) ∧
  (∀ (s : State) (cl : Nat) (rest : List Agent) (b : Block) (q : Seq) (e : SeqEntry) (i : Instr), s.agenda = [] → s.plat.off = false → s.plat.pscur ≠ 3 →
    s.turnOrder = Agent.seq cl :: rest →
    let s1 : State := { s with sel := (rest ++ [Agent.seq cl]).headD (.seq cl) }
    s1.seqBlock cl = some b → b.seq = some q → b.st = .resident → q.ended = false → 16 ≤ q.win.length ∨ q.hold = true → q.win.find? q.issuable = some e →
    tileFate e.word = .inl i → step s = onNext (fun t => (t.afterIssue i none).close true)
      (exec i { s1 with issue := { Issue.none with cl := cl, entry := e.no, word := e.word, pc := e.addr, repPc := e.addr } })) ∧
  ∀ (s : State) (e : Event) (rest : List Event), s.agenda = e :: rest → s.plat.off = false →
    step s = onNext (State.close false) (exec e.row { s with agenda := rest, ev := e })

/-- R57, R59 to R68: the decoder gives back every instruction whose fields are in the ranges the spec gives them, and its V and S bits, from the
word the encoder makes of them. -/
def Obligations.DecodeEncode : Prop :=
  ∀ (i : Instr) (sc : Sched) (w : Word), i.fieldsOk = true → encode sc i = some w → decodeWord w = .ok i ∧ schedOf w = sc

/-- R57 to R71: words written out from the opcode map and the formats decode to the instructions they stand for; the all-zero word, an unassigned
opcode, a reserved bit, a reserved sub-field and a reserved scope are refused by name. -/
def Obligations.DecodedWords : Prop :=
  decodeWord (0b00#2 ++ 0b00#2 ++ 0x01#8 ++ 5#6 ++ 6#6 ++ 7#6 ++ 0#2) = .ok (.iadd 5 6 7) ∧
  decodeWord (0b00#2 ++ 0b10#2 ++ 0x02#8 ++ 5#6 ++ 48#6 ++ 0xFF#8) = .ok (.iaddi 5 48 0xFF) ∧
  schedOf (0b01#2 ++ 0b10#2 ++ 0x02#8 ++ 5#6 ++ 48#6 ++ 0xFF#8) = ⟨1, 2⟩ ∧
  decodeWord (0b00#2 ++ 0b00#2 ++ 0x26#8 ++ 9#6 ++ 0x2001#14) = .ok (.ldi 9 0x2001) ∧
  decodeWord (0b00#2 ++ 0b01#2 ++ 0x82#8 ++ 3#6 ++ 4#6 ++ 0x80#8) = .ok (.ldw 3 4 0x80) ∧
  decodeWord (0b00#2 ++ 0b00#2 ++ 0x31#8 ++ 2#2 ++ 1#1 ++ 0x1FFFF#17) = .ok (.brp 2 1 0x1FFFF) ∧
  decodeWord (0b00#2 ++ 0b00#2 ++ 0x38#8 ++ 5#3 ++ 0#17) = .ok (.join 5) ∧
  decodeWord (0b00#2 ++ 0b00#2 ++ 0b111100#6 ++ 0x212345#22) = .ok (.himm 0x212345) ∧
  decodeWord (0b00#2 ++ 0b00#2 ++ 0x8C#8 ++ 0#12 ++ 1#5 ++ 5#3) = .ok (.fenceAcq 5) ∧
  decodeWord (0b00#2 ++ 0b00#2 ++ 0xDB#8 ++ 1#6 ++ 2#6 ++ 0xA5#8) = .ok (.svc 1 2 0xA5) ∧
  decodeWord 0 = .error .allZero ∧ decodeWord (0#4 ++ 0x70#8 ++ 0#20) = .error .unassigned ∧
  decodeWord (0#4 ++ 0x38#8 ++ 5#3 ++ 1#17) = .error .reservedBit ∧ decodeWord (0#4 ++ 0x8C#8 ++ 0#12 ++ 1#5 ++ 6#3) = .error .reservedScope

/-- R40, R342, R383, R398, R409, R411: what reset leaves of what the spec gives a value. CYCLE is 0, no key is held, the registers of every control
block read their reset values, one thread is at work, on Vent processor 0, hardware thread 0, at M, and nothing else is under way. R409 gives no contents
of memory: that no line is bad and that memory has its canonical form are the model's (log 1), and so are the names of operations (log 60). -/
def Obligations.ResetState : Prop :=
  let s := State.reset
  s.cycle = 0 ∧ s.keys.worlds = [] ∧ s.keys.handles = [] ∧ s.keys.sleepKey = none ∧ s.keys.wrapped = [] ∧
  (∃ w, s.waves = [w] ∧ w.loc = .vent 0 0 ∧ w.level = .m ∧ w.threads.length = 1 ∧ (w.th 0).cond = .run) ∧
  s.blocks = [] ∧ s.launches = [] ∧ s.accs = [] ∧ s.cmds = [] ∧ s.ops = [] ∧ s.caches = [] ∧ s.tlb = [] ∧ s.l2 = [] ∧ s.ways = [] ∧ s.badLines = [] ∧ s.fab.present = 0 ∧ s.fab.outbox = [] ∧
  (∀ v, v < 64 → s.vdRead v 0x000 = 0x14 ∧ s.vdRead v 0x004 = 0x2710 ∧ s.vdRead v 0x008 = 0x2710 ∧ s.vdRead v 0x00C = 0x64 ∧ s.vdRead v 0x108 = 0x2000 ∧
    s.vdRead v 0x110 = 0xF ∧ s.vdRead v 0x2C4 = 0x32 ∧ (∀ c, c < 6 → s.vdRead v (0x208 + 0x20 * c) = 1) ∧
    ∀ o, o < 0x1000 → o ∉ [0x000, 0x004, 0x008, 0x00C, 0x108, 0x110, 0x2C4] → ¬(0x200 ≤ o ∧ o < 0x2C0 ∧ o % 0x20 = 8) → s.vdRead v o = 0) ∧
  (∀ p o, p < 8 → o ≠ 4 → s.partRead p o = 0) ∧ (∀ o, o ≠ 0x000 → o ≠ 0xA10 → s.mgmtRead o = 0) ∧ s.mgmtRead 0x000 = 0x08800101 ∧
  (∀ q, q < 256 → (s.queue q).pend = 0) ∧ s.mem.wf = true ∧ s.Fresh

/-- Every step that answers a next state keeps memory in its one form: addresses rise, and no byte is listed that reads as an unlisted one does.
(The form is the model's: log 1.) -/
def Obligations.MemoryStaysCanonical : Prop := ∀ s t : State, s.mem.wf = true → step s = .next t → t.mem.wf = true

/-- Every step keeps the names that the model gives accesses and commands below the next name, so that no two outstanding ones have the same. The names
are the model's own (log 60); chapters 07 and 09 speak of the operations they name. -/
def Obligations.NamesStayFresh : Prop := ∀ s t : State, s.Fresh → step s = .next t → t.Fresh
end

