-- ==== Sys2Proof/Laws/Encoding.lean ====
section
/-!
SUPPORT. Fields of joined bit strings: what a word built from parts gives back at each place (R57, R60).
-/

namespace Sys2Proof

theorem bits_cat_high {n m lo len : Nat} (x : BitVec n) (y : BitVec m) (h : m ≤ lo) : bits (cat x y) lo len = bits x (lo - m) len := by
  unfold bits cat
  ext i hi
  simp only [BitVec.getElem_extractLsb', BitVec.getLsbD_append]
  rw [if_neg (by omega)]
  congr 1
  omega

theorem bits_cat_low {n m lo len : Nat} (x : BitVec n) (y : BitVec m) (h : lo + len ≤ m) : bits (cat x y) lo len = bits y lo len := by
  unfold bits cat
  ext i hi
  simp only [BitVec.getElem_extractLsb', BitVec.getLsbD_append]
  rw [if_pos (by omega)]

@[simp] theorem bits_self {n : Nat} (x : BitVec n) : bits x 0 n = x := by
  unfold bits
  ext i hi
  simp

theorem nz_eq (w : Word) (lo len : Nat) : nz w lo len = (bits w lo len != 0) := rfl

@[simp] theorem bits_toWord {n : Nat} (x : BitVec n) (h : n = 32) (lo len : Nat) : bits (toWord x h) lo len = bits x lo len := by
  subst h
  rfl

theorem bits_ofNat (n k lo len : Nat) : bits (BitVec.ofNat n k) lo len = BitVec.ofNat len ((k % 2 ^ n) >>> lo) := by
  unfold bits
  apply BitVec.eq_of_toNat_eq
  simp

/-- V and S stand at the top of a word whatever follows them. -/
theorem schedOf_cat {m : Nat} (sc : Sched) (x : BitVec m) (h : 2 + 2 + m = 32) : schedOf (toWord (cat (cat sc.v sc.s) x) h) = sc := by
  obtain rfl : m = 28 := by omega
  simp [schedOf, bits_cat_high, bits_cat_low]

end Sys2Proof
end

