-- ==== Sys2Proof/Laws/Memory.lean ====
section
/-!
SUPPORT. Sparse maps and local memory: a read after a write, what a write leaves alone, and the canonical form that every write keeps.
-/

namespace Sys2Proof.Machine

/-! ## Sparse maps -/

section Sparse
variable {α : Type} [DecidableEq α] {d : α}

theorem swfFrom_weaken : ∀ {m : List (Nat × α)} {lo hi : Option Nat},
    (∀ x, lo = some x → ∃ y, hi = some y ∧ x ≤ y) → swfFrom d hi m = true → swfFrom d lo m = true
  | [], _, _, _, _ => rfl
  | (k, x) :: t, lo, hi, h, w => by
    cases lo with
    | none => cases hi <;> simp_all [swfFrom]
    | some l =>
      obtain ⟨y, rfl, hl⟩ := h l rfl
      simp [swfFrom] at w ⊢
      exact ⟨⟨by omega, w.1.2⟩, w.2⟩

theorem sget_below : ∀ {m : List (Nat × α)} {lo a : Nat}, swfFrom d (some lo) m = true → a ≤ lo → sget d m a = d
  | [], _, _, _, _ => rfl
  | (k, x) :: t, lo, a, w, h => by
    simp [swfFrom] at w
    have ha : a ≠ k := by omega
    simp only [sget, ha, if_false]
    exact sget_below w.2 (by omega)

theorem sget_sput_other : ∀ {m : List (Nat × α)} {a b : Nat} {y : α}, b ≠ a → sget d (sput d m a y) b = sget d m b
  | [], a, b, y, h => by by_cases hy : y = d <;> simp [sput, sget, hy, h]
  | (k, x) :: t, a, b, y, h => by
    by_cases h1 : a < k
    · by_cases hy : y = d <;> simp [sput, sget, h1, hy, h]
    · by_cases h2 : a = k
      · subst h2; by_cases hy : y = d <;> simp [sput, sget, hy, h]
      · by_cases hb : b = k <;> simp [sput, sget, h1, h2, hb, sget_sput_other h]

theorem sget_sput_self : ∀ {m : List (Nat × α)} {lo : Option Nat} {a : Nat} {y : α},
    swfFrom d lo m = true → sget d (sput d m a y) a = y
  | [], _, a, y, _ => by by_cases hy : y = d <;> simp [sput, sget, hy]
  | (k, x) :: t, lo, a, y, w => by
    have wt : swfFrom d (some k) t = true := by cases lo <;> simp_all [swfFrom]
    by_cases h1 : a < k
    · have hk : a ≠ k := by omega
      by_cases hy : y = d
      · simp [sput, sget, h1, hy, hk, sget_below wt (Nat.le_of_lt h1)]
      · simp [sput, sget, h1, hy]
    · by_cases h2 : a = k
      · subst h2
        by_cases hy : y = d
        · simp [sput, hy, sget_below wt (Nat.le_refl a)]
        · simp [sput, sget, hy]
      · simp [sput, sget, h1, h2, sget_sput_self wt]

/-- A write into a canonical map gives a canonical map. -/
theorem sput_wfFrom : ∀ {m : List (Nat × α)} {lo : Option Nat} {a : Nat} {y : α},
    (∀ l, lo = some l → l < a) → swfFrom d lo m = true → swfFrom d lo (sput d m a y) = true
  | [], lo, a, y, hl, _ => by
    by_cases hy : y = d
    · simp [sput, hy, swfFrom]
    · cases lo with
      | none => simp [sput, hy, swfFrom]
      | some l => simp [sput, hy, swfFrom, hl l rfl]
  | (k, x) :: t, lo, a, y, hl, w => by
    have wt : swfFrom d (some k) t = true := by cases lo <;> simp_all [swfFrom]
    have hx : x ≠ d := by cases lo <;> simp_all [swfFrom]
    by_cases h1 : a < k
    · by_cases hy : y = d
      · simpa [sput, h1, hy] using w
      · have := (show swfFrom d (some a) ((k, x) :: t) = true by simp [swfFrom, h1, hx, wt])
        cases lo with
        | none => simpa [sput, h1, hy, swfFrom] using this
        | some l => simpa [sput, h1, hy, swfFrom, hl l rfl] using this
    · by_cases h2 : a = k
      · subst h2
        by_cases hy : y = d
        · simp only [sput, hy]
          simp
          exact swfFrom_weaken (fun l h => ⟨a, rfl, Nat.le_of_lt (hl l h)⟩) wt
        · cases lo with
          | none => simp [sput, hy, swfFrom, wt]
          | some l => simp [sput, hy, swfFrom, wt, hl l rfl]
      · have hk : k < a := by omega
        have := sput_wfFrom (y := y) (a := a) (fun l h => by cases h; exact hk) wt
        cases lo with
        | none => simp [sput, h1, h2, swfFrom, hx, this]
        | some l =>
          have hlk : l < k := by simp [swfFrom] at w; exact w.1.1
          simp [sput, h1, h2, swfFrom, hx, this, hlk]

theorem sput_wf {m : List (Nat × α)} (w : swf d m = true) (a : Nat) (y : α) : swf d (sput d m a y) = true :=
  sput_wfFrom (fun l h => by cases h) w

end Sparse

/-! ## Local memory -/

theorem Memory.empty_wf : (Memory.mk [] []).wf = true := rfl

theorem Memory.poke_wf : ∀ (bs : List Byte) {m : Memory} (a : Nat), m.wf = true → (m.poke a bs).wf = true
  | [], _, _, h => h
  | b :: t, _, a, h => Memory.poke_wf t (a + 1) (sput_wf h a b)

theorem Memory.store_wf {m : Memory} (h : m.wf = true) (a : Nat) (bs : List Byte) : (m.store a bs).wf = true :=
  Memory.poke_wf bs a h

theorem Memory.storeMasked_wf {m : Memory} (a : Nat) (bs : List (Option Byte)) : m.wf = true → (m.storeMasked a bs).wf = true := by
  fun_induction Memory.storeMasked m a bs with
  | case1 m a b0 b1 b2 b3 t _ ih => exact fun h => ih (Memory.store_wf h a _)
  | case2 m a b0 b1 b2 b3 t _ ih => exact fun h => ih (Memory.poke_wf _ a h)
  | case3 m a b t _ ih => exact fun h => ih (Memory.poke_wf _ a h)
  | case4 m a t ih => exact ih
  | case5 => exact id

theorem Memory.byte_poke_outside : ∀ (bs : List Byte) (m : Memory) (a c : Nat), c < a ∨ a + bs.length ≤ c → (m.poke a bs).byte c = m.byte c
  | [], _, _, _, _ => rfl
  | b :: t, m, a, c, h => by
    simp only [List.length_cons] at h
    rw [Memory.poke, Memory.byte_poke_outside t _ (a + 1) c (by omega)]
    exact sget_sput_other (by omega)

theorem Memory.byte_poke_inside : ∀ (bs : List Byte) {m : Memory} (a i : Nat), m.wf = true → (h : i < bs.length) →
    (m.poke a bs).byte (a + i) = bs[i]
  | b :: t, m, a, 0, w, _ => by
    rw [Memory.poke, Memory.byte_poke_outside t _ (a + 1) (a + 0) (by omega)]
    exact sget_sput_self (lo := none) w
  | b :: t, m, a, i + 1, w, h => by
    have := Memory.byte_poke_inside t (m := { m with cells := sput Config.emptyByte m.cells a b }) (a + 1) i (sput_wf w a b)
      (by simpa using h)
    rw [Memory.poke, show a + (i + 1) = a + 1 + i by omega, this]
    simp

@[simp] theorem Memory.byte_store (m : Memory) (a : Nat) (bs : List Byte) (c : Nat) : (m.store a bs).byte c = (m.poke a bs).byte c := rfl

/-- A store leaves every byte outside its own alone. -/
theorem Memory.byte_store_outside (m : Memory) {a c : Nat} {bs : List Byte} (h : c < a ∨ a + bs.length ≤ c) :
    (m.store a bs).byte c = m.byte c := Memory.byte_poke_outside bs m a c h

/-- A byte stored is read back. -/
theorem Memory.byte_store_inside {m : Memory} (w : m.wf = true) {a i : Nat} {bs : List Byte} (h : i < bs.length) :
    (m.store a bs).byte (a + i) = bs[i] := Memory.byte_poke_inside bs a i w h

theorem leBytes_length : ∀ n x, (leBytes n x).length = n
  | 0, _ => rfl
  | n + 1, x => by simp [leBytes, leBytes_length n]

theorem leVal_leBytes : ∀ n x, leVal (leBytes n x) = x % 256 ^ n
  | 0, x => by simp [leBytes, leVal, Nat.mod_one]
  | n + 1, x => by
    have h : (BitVec.ofNat 8 x).toNat = x % 256 := BitVec.toNat_ofNat x 8
    rw [leBytes, leVal, leVal_leBytes n, h, Nat.pow_succ, Nat.mul_comm (256 ^ n) 256, Nat.mod_mul]

theorem Memory.bytes_length (m : Memory) : ∀ n a, (m.bytes a n).length = n
  | 0, _ => rfl
  | n + 1, a => by simp [Memory.bytes, Memory.bytes_length m n]

theorem Memory.bytes_congr {m m' : Memory} : ∀ (n a : Nat), (∀ i, i < n → m'.byte (a + i) = m.byte (a + i)) → m'.bytes a n = m.bytes a n
  | 0, _, _ => rfl
  | n + 1, a, h => by
    have h0 : m'.byte a = m.byte a := h 0 (by omega)
    have ht := Memory.bytes_congr (m := m) (m' := m') n (a + 1) fun i hi => by
      have := h (i + 1) (by omega)
      rwa [show a + (i + 1) = a + 1 + i by omega] at this
    rw [Memory.bytes, Memory.bytes, h0, ht]

/-- The bytes of a store, read back. -/
theorem Memory.bytes_store {m : Memory} (w : m.wf = true) (a : Nat) (bs : List Byte) : (m.store a bs).bytes a bs.length = bs := by
  have : ∀ (bs : List Byte) (m : Memory) (a : Nat), m.wf = true → (m.poke a bs).bytes a bs.length = bs := by
    intro bs
    induction bs with
    | nil => intro m a _; rfl
    | cons b t ih =>
      intro m a w
      have h0 := Memory.byte_poke_inside (b :: t) (m := m) a 0 w (by simp)
      simp only [List.length_cons, Memory.bytes, Memory.poke] at h0 ⊢
      rw [ih { m with cells := sput Config.emptyByte m.cells a b } (a + 1) (sput_wf w a b)]
      simp at h0
      rw [h0]
  have hb : ∀ n c, (m.store a bs).bytes c n = (m.poke a bs).bytes c n := by
    intro n
    induction n with
    | zero => intro c; rfl
    | succ n ih => intro c; simp only [Memory.bytes, ih]; rfl
  rw [hb]
  exact this bs m a w

end Sys2Proof.Machine
end

