-- ==== Sys2Proof/Laws/PerInstr.lean ====
section
/-!
SUPPORT. A law per instruction: whatever the instruction, V and S of its word are the scheduling fields it was encoded with (R57, R59);
an event has no word.
-/

namespace Sys2Proof.Laws.SchedulingKept

/-- The word of an instruction holds the scheduling fields it was given. -/
def Statement (i : Instr) : Prop := ∀ (sc : Sched) (w : Word), encode sc i = some w → schedOf w = sc

/-- A word joined from V, S and the rest. -/
theorem of_fields {sc : Sched} {w : Word} (hv : bits w 30 2 = sc.v) (hs : bits w 28 2 = sc.s) : schedOf w = sc := by
  simp [schedOf, hv, hs]

theorem iadd (d : BitVec 6) (a : BitVec 6) (b : BitVec 6) : Statement (.iadd d a b) := by
  rintro sc w ⟨⟩
  apply of_fields <;> simp [rrr, bits_cat_high, bits_cat_low]
theorem iaddi (d : BitVec 6) (a : BitVec 6) (i : BitVec 8) : Statement (.iaddi d a i) := by
  rintro sc w ⟨⟩
  apply of_fields <;> simp [rri, bits_cat_high, bits_cat_low]
theorem isub (d : BitVec 6) (a : BitVec 6) (b : BitVec 6) : Statement (.isub d a b) := by
  rintro sc w ⟨⟩
  apply of_fields <;> simp [rrr, bits_cat_high, bits_cat_low]
theorem iadds (d : BitVec 6) (a : BitVec 6) (b : BitVec 6) (t : BitVec 1) : Statement (.iadds d a b t) := by
  rintro sc w ⟨⟩
  apply of_fields <;> simp [rrr, bits_cat_high, bits_cat_low]
theorem imul (d : BitVec 6) (a : BitVec 6) (b : BitVec 6) : Statement (.imul d a b) := by
  rintro sc w ⟨⟩
  apply of_fields <;> simp [rrr, bits_cat_high, bits_cat_low]
theorem imulh (d : BitVec 6) (a : BitVec 6) (b : BitVec 6) (t : BitVec 1) : Statement (.imulh d a b t) := by
  rintro sc w ⟨⟩
  apply of_fields <;> simp [rrr, bits_cat_high, bits_cat_low]
theorem imad (d : BitVec 6) (a : BitVec 6) (b : BitVec 6) : Statement (.imad d a b) := by
  rintro sc w ⟨⟩
  apply of_fields <;> simp [rrr, bits_cat_high, bits_cat_low]
theorem imadw (d : BitVec 6) (a : BitVec 6) (b : BitVec 6) (t : BitVec 1) : Statement (.imadw d a b t) := by
  rintro sc w ⟨⟩
  apply of_fields <;> simp [rrr, bits_cat_high, bits_cat_low]
theorem idiv (d : BitVec 6) (a : BitVec 6) (b : BitVec 6) (t : BitVec 1) : Statement (.idiv d a b t) := by
  rintro sc w ⟨⟩
  apply of_fields <;> simp [rrr, bits_cat_high, bits_cat_low]
theorem irem (d : BitVec 6) (a : BitVec 6) (b : BitVec 6) (t : BitVec 1) : Statement (.irem d a b t) := by
  rintro sc w ⟨⟩
  apply of_fields <;> simp [rrr, bits_cat_high, bits_cat_low]
theorem imin (d : BitVec 6) (a : BitVec 6) (b : BitVec 6) (t : BitVec 1) : Statement (.imin d a b t) := by
  rintro sc w ⟨⟩
  apply of_fields <;> simp [rrr, bits_cat_high, bits_cat_low]
theorem imax (d : BitVec 6) (a : BitVec 6) (b : BitVec 6) (t : BitVec 1) : Statement (.imax d a b t) := by
  rintro sc w ⟨⟩
  apply of_fields <;> simp [rrr, bits_cat_high, bits_cat_low]
theorem iabs (d : BitVec 6) (a : BitVec 6) : Statement (.iabs d a) := by
  rintro sc w ⟨⟩
  apply of_fields <;> simp [rrr, bits_cat_high, bits_cat_low]
theorem ineg (d : BitVec 6) (a : BitVec 6) : Statement (.ineg d a) := by
  rintro sc w ⟨⟩
  apply of_fields <;> simp [rrr, bits_cat_high, bits_cat_low]
theorem lea (d : BitVec 6) (a : BitVec 6) (b : BitVec 6) (x : BitVec 2) : Statement (.lea d a b x) := by
  rintro sc w ⟨⟩
  apply of_fields <;> simp [rrr, bits_cat_high, bits_cat_low]
theorem and (d : BitVec 6) (a : BitVec 6) (b : BitVec 6) : Statement (.and d a b) := by
  rintro sc w ⟨⟩
  apply of_fields <;> simp [rrr, bits_cat_high, bits_cat_low]
theorem or (d : BitVec 6) (a : BitVec 6) (b : BitVec 6) : Statement (.or d a b) := by
  rintro sc w ⟨⟩
  apply of_fields <;> simp [rrr, bits_cat_high, bits_cat_low]
theorem xor (d : BitVec 6) (a : BitVec 6) (b : BitVec 6) : Statement (.xor d a b) := by
  rintro sc w ⟨⟩
  apply of_fields <;> simp [rrr, bits_cat_high, bits_cat_low]
theorem andn (d : BitVec 6) (a : BitVec 6) (b : BitVec 6) : Statement (.andn d a b) := by
  rintro sc w ⟨⟩
  apply of_fields <;> simp [rrr, bits_cat_high, bits_cat_low]
theorem not (d : BitVec 6) (a : BitVec 6) : Statement (.not d a) := by
  rintro sc w ⟨⟩
  apply of_fields <;> simp [rrr, bits_cat_high, bits_cat_low]
theorem andi (d : BitVec 6) (a : BitVec 6) (i : BitVec 8) : Statement (.andi d a i) := by
  rintro sc w ⟨⟩
  apply of_fields <;> simp [rri, bits_cat_high, bits_cat_low]
theorem ori (d : BitVec 6) (a : BitVec 6) (i : BitVec 8) : Statement (.ori d a i) := by
  rintro sc w ⟨⟩
  apply of_fields <;> simp [rri, bits_cat_high, bits_cat_low]
theorem xori (d : BitVec 6) (a : BitVec 6) (i : BitVec 8) : Statement (.xori d a i) := by
  rintro sc w ⟨⟩
  apply of_fields <;> simp [rri, bits_cat_high, bits_cat_low]
theorem shl (d : BitVec 6) (a : BitVec 6) (b : BitVec 6) : Statement (.shl d a b) := by
  rintro sc w ⟨⟩
  apply of_fields <;> simp [rrr, bits_cat_high, bits_cat_low]
theorem shrl (d : BitVec 6) (a : BitVec 6) (b : BitVec 6) : Statement (.shrl d a b) := by
  rintro sc w ⟨⟩
  apply of_fields <;> simp [rrr, bits_cat_high, bits_cat_low]
theorem shra (d : BitVec 6) (a : BitVec 6) (b : BitVec 6) : Statement (.shra d a b) := by
  rintro sc w ⟨⟩
  apply of_fields <;> simp [rrr, bits_cat_high, bits_cat_low]
theorem shli (d : BitVec 6) (a : BitVec 6) (n : BitVec 5) : Statement (.shli d a n) := by
  rintro sc w ⟨⟩
  apply of_fields <;> simp [rri, bits_cat_high, bits_cat_low]
theorem shrli (d : BitVec 6) (a : BitVec 6) (n : BitVec 5) : Statement (.shrli d a n) := by
  rintro sc w ⟨⟩
  apply of_fields <;> simp [rri, bits_cat_high, bits_cat_low]
theorem shrai (d : BitVec 6) (a : BitVec 6) (n : BitVec 5) : Statement (.shrai d a n) := by
  rintro sc w ⟨⟩
  apply of_fields <;> simp [rri, bits_cat_high, bits_cat_low]
theorem rotl (d : BitVec 6) (a : BitVec 6) (b : BitVec 6) : Statement (.rotl d a b) := by
  rintro sc w ⟨⟩
  apply of_fields <;> simp [rrr, bits_cat_high, bits_cat_low]
theorem bfx (d : BitVec 6) (a : BitVec 6) (b : BitVec 6) (t : BitVec 1) : Statement (.bfx d a b t) := by
  rintro sc w ⟨⟩
  apply of_fields <;> simp [rrr, bits_cat_high, bits_cat_low]
theorem bfi (d : BitVec 6) (a : BitVec 6) (b : BitVec 6) : Statement (.bfi d a b) := by
  rintro sc w ⟨⟩
  apply of_fields <;> simp [rrr, bits_cat_high, bits_cat_low]
theorem popc (d : BitVec 6) (a : BitVec 6) : Statement (.popc d a) := by
  rintro sc w ⟨⟩
  apply of_fields <;> simp [rrr, bits_cat_high, bits_cat_low]
theorem clz (d : BitVec 6) (a : BitVec 6) : Statement (.clz d a) := by
  rintro sc w ⟨⟩
  apply of_fields <;> simp [rrr, bits_cat_high, bits_cat_low]
theorem brev (d : BitVec 6) (a : BitVec 6) : Statement (.brev d a) := by
  rintro sc w ⟨⟩
  apply of_fields <;> simp [rrr, bits_cat_high, bits_cat_low]
theorem pdot4 (d : BitVec 6) (a : BitVec 6) (b : BitVec 6) (t : BitVec 1) : Statement (.pdot4 d a b t) := by
  rintro sc w ⟨⟩
  apply of_fields <;> simp [rrr, bits_cat_high, bits_cat_low]
theorem padd4 (d : BitVec 6) (a : BitVec 6) (b : BitVec 6) : Statement (.padd4 d a b) := by
  rintro sc w ⟨⟩
  apply of_fields <;> simp [rrr, bits_cat_high, bits_cat_low]
theorem padd4Ss (d : BitVec 6) (a : BitVec 6) (b : BitVec 6) : Statement (.padd4Ss d a b) := by
  rintro sc w ⟨⟩
  apply of_fields <;> simp [rrr, bits_cat_high, bits_cat_low]
theorem padd4Us (d : BitVec 6) (a : BitVec 6) (b : BitVec 6) : Statement (.padd4Us d a b) := by
  rintro sc w ⟨⟩
  apply of_fields <;> simp [rrr, bits_cat_high, bits_cat_low]
theorem ldi (d : BitVec 6) (i : BitVec 14) : Statement (.ldi d i) := by
  rintro sc w ⟨⟩
  apply of_fields <;> simp [ldiWord, bits_cat_high, bits_cat_low]
theorem mov (d : BitVec 6) (a : BitVec 6) : Statement (.mov d a) := by
  rintro sc w ⟨⟩
  apply of_fields <;> simp [rrr, bits_cat_high, bits_cat_low]
theorem sel (d : BitVec 6) (a : BitVec 6) (b : BitVec 6) (p : BitVec 2) : Statement (.sel d a b p) := by
  rintro sc w ⟨⟩
  apply of_fields <;> simp [rrr, bits_cat_high, bits_cat_low]
theorem icmp (p : BitVec 2) (c : BitVec 4) (a : BitVec 6) (b : BitVec 6) : Statement (.icmp p c a b) := by
  rintro sc w ⟨⟩
  apply of_fields <;> simp [rrr, bits_cat_high, bits_cat_low]
theorem icmpi (p : BitVec 2) (c : BitVec 4) (a : BitVec 6) (i : BitVec 8) : Statement (.icmpi p c a i) := by
  rintro sc w ⟨⟩
  apply of_fields <;> simp [rri, bits_cat_high, bits_cat_low]
theorem plog (p : BitVec 2) (x : BitVec 2) (y : BitVec 2) (z : BitVec 2) (t : BitVec 8) : Statement (.plog p x y z t) := by
  rintro sc w ⟨⟩
  apply of_fields <;> simp [rri, bits_cat_high, bits_cat_low]
theorem wredAdd (d : BitVec 6) (a : BitVec 6) : Statement (.wredAdd d a) := by
  rintro sc w ⟨⟩
  apply of_fields <;> simp [rrr, bits_cat_high, bits_cat_low]
theorem wredMin (d : BitVec 6) (a : BitVec 6) : Statement (.wredMin d a) := by
  rintro sc w ⟨⟩
  apply of_fields <;> simp [rrr, bits_cat_high, bits_cat_low]
theorem wredMax (d : BitVec 6) (a : BitVec 6) : Statement (.wredMax d a) := by
  rintro sc w ⟨⟩
  apply of_fields <;> simp [rrr, bits_cat_high, bits_cat_low]
theorem wredOr (d : BitVec 6) (a : BitVec 6) : Statement (.wredOr d a) := by
  rintro sc w ⟨⟩
  apply of_fields <;> simp [rrr, bits_cat_high, bits_cat_low]
theorem pmovToReg (d : BitVec 6) : Statement (.pmovToReg d) := by
  rintro sc w ⟨⟩
  apply of_fields <;> simp [rrr, bits_cat_high, bits_cat_low]
theorem pmovToPreds (a : BitVec 6) : Statement (.pmovToPreds a) := by
  rintro sc w ⟨⟩
  apply of_fields <;> simp [rrr, bits_cat_high, bits_cat_low]
theorem movs (d : BitVec 6) (i : BitVec 8) : Statement (.movs d i) := by
  rintro sc w ⟨⟩
  apply of_fields <;> simp [rri, bits_cat_high, bits_cat_low]
theorem movcRead (d : BitVec 6) (i : BitVec 7) : Statement (.movcRead d i) := by
  rintro sc w ⟨⟩
  apply of_fields <;> simp [rri, bits_cat_high, bits_cat_low]
theorem movcWrite (a : BitVec 6) (i : BitVec 7) : Statement (.movcWrite a i) := by
  rintro sc w ⟨⟩
  apply of_fields <;> simp [rri, bits_cat_high, bits_cat_low]
theorem bra (o : BitVec 20) : Statement (.bra o) := by
  rintro sc w ⟨⟩
  apply of_fields <;> simp [opWord, bits_cat_high, bits_cat_low]
theorem brp (p : BitVec 2) (n : BitVec 1) (o : BitVec 17) : Statement (.brp p n o) := by
  rintro sc w ⟨⟩
  apply of_fields <;> simp [brpWord, bits_cat_high, bits_cat_low]
theorem jmpi (a : BitVec 6) : Statement (.jmpi a) := by
  rintro sc w ⟨⟩
  apply of_fields <;> simp [rrr, bits_cat_high, bits_cat_low]
theorem call (o : BitVec 20) : Statement (.call o) := by
  rintro sc w ⟨⟩
  apply of_fields <;> simp [opWord, bits_cat_high, bits_cat_low]
theorem calli (a : BitVec 6) : Statement (.calli a) := by
  rintro sc w ⟨⟩
  apply of_fields <;> simp [rrr, bits_cat_high, bits_cat_low]
theorem ret : Statement .ret := by
  rintro sc w ⟨⟩
  apply of_fields <;> simp [opWord, bits_cat_high, bits_cat_low]
theorem exit : Statement .exit := by
  rintro sc w ⟨⟩
  apply of_fields <;> simp [opWord, bits_cat_high, bits_cat_low]
theorem jset (j : BitVec 3) : Statement (.jset j) := by
  rintro sc w ⟨⟩
  apply of_fields <;> simp [jWord, bits_cat_high, bits_cat_low]
theorem join (j : BitVec 3) : Statement (.join j) := by
  rintro sc w ⟨⟩
  apply of_fields <;> simp [jWord, bits_cat_high, bits_cat_low]
theorem jdrop (j : BitVec 3) : Statement (.jdrop j) := by
  rintro sc w ⟨⟩
  apply of_fields <;> simp [jWord, bits_cat_high, bits_cat_low]
theorem yield : Statement .yield := by
  rintro sc w ⟨⟩
  apply of_fields <;> simp [opWord, bits_cat_high, bits_cat_low]
theorem rgn : Statement .rgn := by
  rintro sc w ⟨⟩
  apply of_fields <;> simp [opWord, bits_cat_high, bits_cat_low]
theorem vgrow (n : BitVec 3) : Statement (.vgrow n) := by
  rintro sc w ⟨⟩
  apply of_fields <;> simp [rri, bits_cat_high, bits_cat_low]
theorem vshrink (n : BitVec 3) : Statement (.vshrink n) := by
  rintro sc w ⟨⟩
  apply of_fields <;> simp [rri, bits_cat_high, bits_cat_low]
theorem voteAny (d : BitVec 6) (a : BitVec 6) : Statement (.voteAny d a) := by
  rintro sc w ⟨⟩
  apply of_fields <;> simp [rrr, bits_cat_high, bits_cat_low]
theorem voteAll (d : BitVec 6) (a : BitVec 6) : Statement (.voteAll d a) := by
  rintro sc w ⟨⟩
  apply of_fields <;> simp [rrr, bits_cat_high, bits_cat_low]
theorem voteBallot (d : BitVec 6) (a : BitVec 6) : Statement (.voteBallot d a) := by
  rintro sc w ⟨⟩
  apply of_fields <;> simp [rrr, bits_cat_high, bits_cat_low]
theorem shflIdx (d : BitVec 6) (a : BitVec 6) (b : BitVec 6) : Statement (.shflIdx d a b) := by
  rintro sc w ⟨⟩
  apply of_fields <;> simp [rrr, bits_cat_high, bits_cat_low]
theorem shflUp (d : BitVec 6) (a : BitVec 6) (b : BitVec 6) : Statement (.shflUp d a b) := by
  rintro sc w ⟨⟩
  apply of_fields <;> simp [rrr, bits_cat_high, bits_cat_low]
theorem shflDown (d : BitVec 6) (a : BitVec 6) (b : BitVec 6) : Statement (.shflDown d a b) := by
  rintro sc w ⟨⟩
  apply of_fields <;> simp [rrr, bits_cat_high, bits_cat_low]
theorem shflXor (d : BitVec 6) (a : BitVec 6) (b : BitVec 6) : Statement (.shflXor d a b) := by
  rintro sc w ⟨⟩
  apply of_fields <;> simp [rrr, bits_cat_high, bits_cat_low]
theorem fadd (d : BitVec 6) (a : BitVec 6) (b : BitVec 6) : Statement (.fadd d a b) := by
  rintro sc w ⟨⟩
  apply of_fields <;> simp [rrr, bits_cat_high, bits_cat_low]
theorem fsub (d : BitVec 6) (a : BitVec 6) (b : BitVec 6) : Statement (.fsub d a b) := by
  rintro sc w ⟨⟩
  apply of_fields <;> simp [rrr, bits_cat_high, bits_cat_low]
theorem fmul (d : BitVec 6) (a : BitVec 6) (b : BitVec 6) : Statement (.fmul d a b) := by
  rintro sc w ⟨⟩
  apply of_fields <;> simp [rrr, bits_cat_high, bits_cat_low]
theorem ffma (d : BitVec 6) (a : BitVec 6) (b : BitVec 6) : Statement (.ffma d a b) := by
  rintro sc w ⟨⟩
  apply of_fields <;> simp [rrr, bits_cat_high, bits_cat_low]
theorem fmin (d : BitVec 6) (a : BitVec 6) (b : BitVec 6) : Statement (.fmin d a b) := by
  rintro sc w ⟨⟩
  apply of_fields <;> simp [rrr, bits_cat_high, bits_cat_low]
theorem fmax (d : BitVec 6) (a : BitVec 6) (b : BitVec 6) : Statement (.fmax d a b) := by
  rintro sc w ⟨⟩
  apply of_fields <;> simp [rrr, bits_cat_high, bits_cat_low]
theorem fabs (d : BitVec 6) (a : BitVec 6) : Statement (.fabs d a) := by
  rintro sc w ⟨⟩
  apply of_fields <;> simp [rrr, bits_cat_high, bits_cat_low]
theorem fneg (d : BitVec 6) (a : BitVec 6) : Statement (.fneg d a) := by
  rintro sc w ⟨⟩
  apply of_fields <;> simp [rrr, bits_cat_high, bits_cat_low]
theorem fcmp (p : BitVec 2) (c : BitVec 4) (a : BitVec 6) (b : BitVec 6) : Statement (.fcmp p c a b) := by
  rintro sc w ⟨⟩
  apply of_fields <;> simp [rrr, bits_cat_high, bits_cat_low]
theorem fclass (d : BitVec 6) (a : BitVec 6) : Statement (.fclass d a) := by
  rintro sc w ⟨⟩
  apply of_fields <;> simp [rrr, bits_cat_high, bits_cat_low]
theorem fdiv (d : BitVec 6) (a : BitVec 6) (b : BitVec 6) : Statement (.fdiv d a b) := by
  rintro sc w ⟨⟩
  apply of_fields <;> simp [rrr, bits_cat_high, bits_cat_low]
theorem fsqrt (d : BitVec 6) (a : BitVec 6) : Statement (.fsqrt d a) := by
  rintro sc w ⟨⟩
  apply of_fields <;> simp [rrr, bits_cat_high, bits_cat_low]
theorem frcp (d : BitVec 6) (a : BitVec 6) : Statement (.frcp d a) := by
  rintro sc w ⟨⟩
  apply of_fields <;> simp [rrr, bits_cat_high, bits_cat_low]
theorem frsq (d : BitVec 6) (a : BitVec 6) : Statement (.frsq d a) := by
  rintro sc w ⟨⟩
  apply of_fields <;> simp [rrr, bits_cat_high, bits_cat_low]
theorem fex2 (d : BitVec 6) (a : BitVec 6) : Statement (.fex2 d a) := by
  rintro sc w ⟨⟩
  apply of_fields <;> simp [rrr, bits_cat_high, bits_cat_low]
theorem flg2 (d : BitVec 6) (a : BitVec 6) : Statement (.flg2 d a) := by
  rintro sc w ⟨⟩
  apply of_fields <;> simp [rrr, bits_cat_high, bits_cat_low]
theorem fsinp (d : BitVec 6) (a : BitVec 6) : Statement (.fsinp d a) := by
  rintro sc w ⟨⟩
  apply of_fields <;> simp [rrr, bits_cat_high, bits_cat_low]
theorem fcosp (d : BitVec 6) (a : BitVec 6) : Statement (.fcosp d a) := by
  rintro sc w ⟨⟩
  apply of_fields <;> simp [rrr, bits_cat_high, bits_cat_low]
theorem ftanh (d : BitVec 6) (a : BitVec 6) : Statement (.ftanh d a) := by
  rintro sc w ⟨⟩
  apply of_fields <;> simp [rrr, bits_cat_high, bits_cat_low]
theorem fscale (d : BitVec 6) (a : BitVec 6) (b : BitVec 6) : Statement (.fscale d a b) := by
  rintro sc w ⟨⟩
  apply of_fields <;> simp [rrr, bits_cat_high, bits_cat_low]
theorem frnd (d : BitVec 6) (a : BitVec 6) : Statement (.frnd d a) := by
  rintro sc w ⟨⟩
  apply of_fields <;> simp [rrr, bits_cat_high, bits_cat_low]
theorem f2i (d : BitVec 6) (a : BitVec 6) (t : BitVec 1) : Statement (.f2i d a t) := by
  rintro sc w ⟨⟩
  apply of_fields <;> simp [rrr, bits_cat_high, bits_cat_low]
theorem i2f (d : BitVec 6) (a : BitVec 6) (t : BitVec 1) : Statement (.i2f d a t) := by
  rintro sc w ⟨⟩
  apply of_fields <;> simp [rrr, bits_cat_high, bits_cat_low]
theorem fcvto (d : BitVec 6) (a : BitVec 6) (f : BitVec 6) : Statement (.fcvto d a f) := by
  rintro sc w ⟨⟩
  apply of_fields <;> simp [rrr, bits_cat_high, bits_cat_low]
theorem fcvti (d : BitVec 6) (a : BitVec 6) (f : BitVec 6) : Statement (.fcvti d a f) := by
  rintro sc w ⟨⟩
  apply of_fields <;> simp [rrr, bits_cat_high, bits_cat_low]
theorem hadd2 (d : BitVec 6) (a : BitVec 6) (b : BitVec 6) : Statement (.hadd2 d a b) := by
  rintro sc w ⟨⟩
  apply of_fields <;> simp [rrr, bits_cat_high, bits_cat_low]
theorem hmul2 (d : BitVec 6) (a : BitVec 6) (b : BitVec 6) : Statement (.hmul2 d a b) := by
  rintro sc w ⟨⟩
  apply of_fields <;> simp [rrr, bits_cat_high, bits_cat_low]
theorem hfma2 (d : BitVec 6) (a : BitVec 6) (b : BitVec 6) : Statement (.hfma2 d a b) := by
  rintro sc w ⟨⟩
  apply of_fields <;> simp [rrr, bits_cat_high, bits_cat_low]
theorem badd2 (d : BitVec 6) (a : BitVec 6) (b : BitVec 6) : Statement (.badd2 d a b) := by
  rintro sc w ⟨⟩
  apply of_fields <;> simp [rrr, bits_cat_high, bits_cat_low]
theorem bmul2 (d : BitVec 6) (a : BitVec 6) (b : BitVec 6) : Statement (.bmul2 d a b) := by
  rintro sc w ⟨⟩
  apply of_fields <;> simp [rrr, bits_cat_high, bits_cat_low]
theorem bfma2 (d : BitVec 6) (a : BitVec 6) (b : BitVec 6) : Statement (.bfma2 d a b) := by
  rintro sc w ⟨⟩
  apply of_fields <;> simp [rrr, bits_cat_high, bits_cat_low]
theorem hdot2F16 (d : BitVec 6) (a : BitVec 6) (b : BitVec 6) : Statement (.hdot2F16 d a b) := by
  rintro sc w ⟨⟩
  apply of_fields <;> simp [rrr, bits_cat_high, bits_cat_low]
theorem hdot2Bf16 (d : BitVec 6) (a : BitVec 6) (b : BitVec 6) : Statement (.hdot2Bf16 d a b) := by
  rintro sc w ⟨⟩
  apply of_fields <;> simp [rrr, bits_cat_high, bits_cat_low]
theorem tld (d : BitVec 6) (a : BitVec 6) (o : BitVec 8) : Statement (.tld d a o) := by
  rintro sc w ⟨⟩
  apply of_fields <;> simp [rri, bits_cat_high, bits_cat_low]
theorem tldh (d : BitVec 6) (a : BitVec 6) (o : BitVec 8) : Statement (.tldh d a o) := by
  rintro sc w ⟨⟩
  apply of_fields <;> simp [rri, bits_cat_high, bits_cat_low]
theorem tstw (d : BitVec 6) (a : BitVec 6) (f : BitVec 6) (m : BitVec 2) : Statement (.tstw d a f m) := by
  rintro sc w ⟨⟩
  apply of_fields <;> simp [rrr, bits_cat_high, bits_cat_low]
theorem tscl (d : BitVec 6) (a : BitVec 6) (f : BitVec 6) : Statement (.tscl d a f) := by
  rintro sc w ⟨⟩
  apply of_fields <;> simp [rrr, bits_cat_high, bits_cat_low]
theorem tste (d : BitVec 6) (a : BitVec 6) (b : BitVec 6) : Statement (.tste d a b) := by
  rintro sc w ⟨⟩
  apply of_fields <;> simp [rrr, bits_cat_high, bits_cat_low]
theorem psnq (d : BitVec 6) (a : BitVec 6) : Statement (.psnq d a) := by
  rintro sc w ⟨⟩
  apply of_fields <;> simp [rrr, bits_cat_high, bits_cat_low]
theorem psns (d : BitVec 6) (a : BitVec 6) : Statement (.psns d a) := by
  rintro sc w ⟨⟩
  apply of_fields <;> simp [rrr, bits_cat_high, bits_cat_low]
theorem psnc (d : BitVec 6) (a : BitVec 6) : Statement (.psnc d a) := by
  rintro sc w ⟨⟩
  apply of_fields <;> simp [rrr, bits_cat_high, bits_cat_low]
theorem ldb (d : BitVec 6) (a : BitVec 6) (o : BitVec 8) : Statement (.ldb d a o) := by
  rintro sc w ⟨⟩
  apply of_fields <;> simp [rri, bits_cat_high, bits_cat_low]
theorem ldh (d : BitVec 6) (a : BitVec 6) (o : BitVec 8) : Statement (.ldh d a o) := by
  rintro sc w ⟨⟩
  apply of_fields <;> simp [rri, bits_cat_high, bits_cat_low]
theorem ldw (d : BitVec 6) (a : BitVec 6) (o : BitVec 8) : Statement (.ldw d a o) := by
  rintro sc w ⟨⟩
  apply of_fields <;> simp [rri, bits_cat_high, bits_cat_low]
theorem ldd (d : BitVec 6) (a : BitVec 6) (o : BitVec 8) : Statement (.ldd d a o) := by
  rintro sc w ⟨⟩
  apply of_fields <;> simp [rri, bits_cat_high, bits_cat_low]
theorem ldq (d : BitVec 6) (a : BitVec 6) (o : BitVec 8) : Statement (.ldq d a o) := by
  rintro sc w ⟨⟩
  apply of_fields <;> simp [rri, bits_cat_high, bits_cat_low]
theorem stb (d : BitVec 6) (a : BitVec 6) (o : BitVec 8) : Statement (.stb d a o) := by
  rintro sc w ⟨⟩
  apply of_fields <;> simp [rri, bits_cat_high, bits_cat_low]
theorem sth (d : BitVec 6) (a : BitVec 6) (o : BitVec 8) : Statement (.sth d a o) := by
  rintro sc w ⟨⟩
  apply of_fields <;> simp [rri, bits_cat_high, bits_cat_low]
theorem stw (d : BitVec 6) (a : BitVec 6) (o : BitVec 8) : Statement (.stw d a o) := by
  rintro sc w ⟨⟩
  apply of_fields <;> simp [rri, bits_cat_high, bits_cat_low]
theorem std (d : BitVec 6) (a : BitVec 6) (o : BitVec 8) : Statement (.std d a o) := by
  rintro sc w ⟨⟩
  apply of_fields <;> simp [rri, bits_cat_high, bits_cat_low]
theorem stq (d : BitVec 6) (a : BitVec 6) (o : BitVec 8) : Statement (.stq d a o) := by
  rintro sc w ⟨⟩
  apply of_fields <;> simp [rri, bits_cat_high, bits_cat_low]
theorem lda (d : BitVec 6) (a : BitVec 6) (w : BitVec 2) (c : BitVec 3) : Statement (.lda d a w c) := by
  rintro sc w ⟨⟩
  apply of_fields <;> simp [rri, bits_cat_high, bits_cat_low]
theorem stl (d : BitVec 6) (a : BitVec 6) (w : BitVec 2) (c : BitVec 3) : Statement (.stl d a w c) := by
  rintro sc w ⟨⟩
  apply of_fields <;> simp [rri, bits_cat_high, bits_cat_low]
theorem fenceFull (c : BitVec 3) : Statement (.fenceFull c) := by
  rintro sc w ⟨⟩
  apply of_fields <;> simp [rri, bits_cat_high, bits_cat_low]
theorem fenceAcq (c : BitVec 3) : Statement (.fenceAcq c) := by
  rintro sc w ⟨⟩
  apply of_fields <;> simp [rri, bits_cat_high, bits_cat_low]
theorem fenceRel (c : BitVec 3) : Statement (.fenceRel c) := by
  rintro sc w ⟨⟩
  apply of_fields <;> simp [rri, bits_cat_high, bits_cat_low]
theorem lds (d : BitVec 6) (a : BitVec 6) (w : BitVec 3) (o : BitVec 5) : Statement (.lds d a w o) := by
  rintro sc w ⟨⟩
  apply of_fields <;> simp [rri, bits_cat_high, bits_cat_low]
theorem sts (d : BitVec 6) (a : BitVec 6) (w : BitVec 3) (o : BitVec 5) : Statement (.sts d a w o) := by
  rintro sc w ⟨⟩
  apply of_fields <;> simp [rri, bits_cat_high, bits_cat_low]
theorem atadd (d : BitVec 6) (a : BitVec 6) (r : BitVec 1) (x : BitVec 1) (c : BitVec 3) : Statement (.atadd d a r x c) := by
  rintro sc w ⟨⟩
  apply of_fields <;> simp [rri, bits_cat_high, bits_cat_low]
theorem atsub (d : BitVec 6) (a : BitVec 6) (r : BitVec 1) (x : BitVec 1) (c : BitVec 3) : Statement (.atsub d a r x c) := by
  rintro sc w ⟨⟩
  apply of_fields <;> simp [rri, bits_cat_high, bits_cat_low]
theorem atmins (d : BitVec 6) (a : BitVec 6) (r : BitVec 1) (x : BitVec 1) (c : BitVec 3) : Statement (.atmins d a r x c) := by
  rintro sc w ⟨⟩
  apply of_fields <;> simp [rri, bits_cat_high, bits_cat_low]
theorem atminz (d : BitVec 6) (a : BitVec 6) (r : BitVec 1) (x : BitVec 1) (c : BitVec 3) : Statement (.atminz d a r x c) := by
  rintro sc w ⟨⟩
  apply of_fields <;> simp [rri, bits_cat_high, bits_cat_low]
theorem atmaxs (d : BitVec 6) (a : BitVec 6) (r : BitVec 1) (x : BitVec 1) (c : BitVec 3) : Statement (.atmaxs d a r x c) := by
  rintro sc w ⟨⟩
  apply of_fields <;> simp [rri, bits_cat_high, bits_cat_low]
theorem atmaxz (d : BitVec 6) (a : BitVec 6) (r : BitVec 1) (x : BitVec 1) (c : BitVec 3) : Statement (.atmaxz d a r x c) := by
  rintro sc w ⟨⟩
  apply of_fields <;> simp [rri, bits_cat_high, bits_cat_low]
theorem atand (d : BitVec 6) (a : BitVec 6) (r : BitVec 1) (x : BitVec 1) (c : BitVec 3) : Statement (.atand d a r x c) := by
  rintro sc w ⟨⟩
  apply of_fields <;> simp [rri, bits_cat_high, bits_cat_low]
theorem ator (d : BitVec 6) (a : BitVec 6) (r : BitVec 1) (x : BitVec 1) (c : BitVec 3) : Statement (.ator d a r x c) := by
  rintro sc w ⟨⟩
  apply of_fields <;> simp [rri, bits_cat_high, bits_cat_low]
theorem atxor (d : BitVec 6) (a : BitVec 6) (r : BitVec 1) (x : BitVec 1) (c : BitVec 3) : Statement (.atxor d a r x c) := by
  rintro sc w ⟨⟩
  apply of_fields <;> simp [rri, bits_cat_high, bits_cat_low]
theorem atxch (d : BitVec 6) (a : BitVec 6) (r : BitVec 1) (x : BitVec 1) (c : BitVec 3) : Statement (.atxch d a r x c) := by
  rintro sc w ⟨⟩
  apply of_fields <;> simp [rri, bits_cat_high, bits_cat_low]
theorem atinc (d : BitVec 6) (a : BitVec 6) (r : BitVec 1) (x : BitVec 1) (c : BitVec 3) : Statement (.atinc d a r x c) := by
  rintro sc w ⟨⟩
  apply of_fields <;> simp [rri, bits_cat_high, bits_cat_low]
theorem atfadd (d : BitVec 6) (a : BitVec 6) (r : BitVec 1) (c : BitVec 3) : Statement (.atfadd d a r c) := by
  rintro sc w ⟨⟩
  apply of_fields <;> simp [rri, bits_cat_high, bits_cat_low]
theorem atfmin (d : BitVec 6) (a : BitVec 6) (r : BitVec 1) (c : BitVec 3) : Statement (.atfmin d a r c) := by
  rintro sc w ⟨⟩
  apply of_fields <;> simp [rri, bits_cat_high, bits_cat_low]
theorem atfmax (d : BitVec 6) (a : BitVec 6) (r : BitVec 1) (c : BitVec 3) : Statement (.atfmax d a r c) := by
  rintro sc w ⟨⟩
  apply of_fields <;> simp [rri, bits_cat_high, bits_cat_low]
theorem atcas (d : BitVec 6) (a : BitVec 6) (r : BitVec 1) (c : BitVec 3) : Statement (.atcas d a r c) := by
  rintro sc w ⟨⟩
  apply of_fields <;> simp [rri, bits_cat_high, bits_cat_low]
theorem atcas64 (d : BitVec 6) (a : BitVec 6) (r : BitVec 1) (c : BitVec 3) : Statement (.atcas64 d a r c) := by
  rintro sc w ⟨⟩
  apply of_fields <;> simp [rri, bits_cat_high, bits_cat_low]
theorem bar (a : BitVec 6) (n : BitVec 4) : Statement (.bar a n) := by
  rintro sc w ⟨⟩
  apply of_fields <;> simp [rri, bits_cat_high, bits_cat_low]
theorem bara (a : BitVec 6) (n : BitVec 4) : Statement (.bara a n) := by
  rintro sc w ⟨⟩
  apply of_fields <;> simp [rri, bits_cat_high, bits_cat_low]
theorem barw (n : BitVec 4) : Statement (.barw n) := by
  rintro sc w ⟨⟩
  apply of_fields <;> simp [rri, bits_cat_high, bits_cat_low]
theorem waitm (d : BitVec 6) (a : BitVec 6) (b : BitVec 6) (c : BitVec 2) : Statement (.waitm d a b c) := by
  rintro sc w ⟨⟩
  apply of_fields <;> simp [rrr, bits_cat_high, bits_cat_low]
theorem pref (a : BitVec 6) (o : BitVec 8) : Statement (.pref a o) := by
  rintro sc w ⟨⟩
  apply of_fields <;> simp [rri, bits_cat_high, bits_cat_low]
theorem rget (d : BitVec 6) (r : BitVec 3) : Statement (.rget d r) := by
  rintro sc w ⟨⟩
  apply of_fields <;> simp [rri, bits_cat_high, bits_cat_low]
theorem rput (r : BitVec 3) : Statement (.rput r) := by
  rintro sc w ⟨⟩
  apply of_fields <;> simp [rri, bits_cat_high, bits_cat_low]
theorem rfree (r : BitVec 3) : Statement (.rfree r) := by
  rintro sc w ⟨⟩
  apply of_fields <;> simp [rri, bits_cat_high, bits_cat_low]
theorem rtake (d : BitVec 6) (r : BitVec 3) : Statement (.rtake d r) := by
  rintro sc w ⟨⟩
  apply of_fields <;> simp [rri, bits_cat_high, bits_cat_low]
theorem invl1 : Statement .invl1 := by
  rintro sc w ⟨⟩
  apply of_fields <;> simp [opWord, bits_cat_high, bits_cat_low]
theorem waitf (a : BitVec 6) : Statement (.waitf a) := by
  rintro sc w ⟨⟩
  apply of_fields <;> simp [rrr, bits_cat_high, bits_cat_low]
theorem ackq (d : BitVec 6) : Statement (.ackq d) := by
  rintro sc w ⟨⟩
  apply of_fields <;> simp [rrr, bits_cat_high, bits_cat_low]
theorem opinst (d : BitVec 6) (a : BitVec 6) (o : BitVec 8) : Statement (.opinst d a o) := by
  rintro sc w ⟨⟩
  apply of_fields <;> simp [rri, bits_cat_high, bits_cat_low]
theorem opfree (a : BitVec 6) : Statement (.opfree a) := by
  rintro sc w ⟨⟩
  apply of_fields <;> simp [rrr, bits_cat_high, bits_cat_low]
theorem opswap (a : BitVec 6) : Statement (.opswap a) := by
  rintro sc w ⟨⟩
  apply of_fields <;> simp [rrr, bits_cat_high, bits_cat_low]
theorem opqry (d : BitVec 6) (a : BitVec 6) (b : BitVec 6) : Statement (.opqry d a b) := by
  rintro sc w ⟨⟩
  apply of_fields <;> simp [rrr, bits_cat_high, bits_cat_low]
theorem opfire (a : BitVec 6) (b : BitVec 6) : Statement (.opfire a b) := by
  rintro sc w ⟨⟩
  apply of_fields <;> simp [rrr, bits_cat_high, bits_cat_low]
theorem opdrop (a : BitVec 6) (b : BitVec 6) : Statement (.opdrop a b) := by
  rintro sc w ⟨⟩
  apply of_fields <;> simp [rrr, bits_cat_high, bits_cat_low]
theorem opfence : Statement .opfence := by
  rintro sc w ⟨⟩
  apply of_fields <;> simp [opWord, bits_cat_high, bits_cat_low]
theorem opgrant (d : BitVec 6) (a : BitVec 6) (b : BitVec 6) : Statement (.opgrant d a b) := by
  rintro sc w ⟨⟩
  apply of_fields <;> simp [rrr, bits_cat_high, bits_cat_low]
theorem opwait (d : BitVec 6) (a : BitVec 6) (b : BitVec 6) : Statement (.opwait d a b) := by
  rintro sc w ⟨⟩
  apply of_fields <;> simp [rrr, bits_cat_high, bits_cat_low]
theorem opseq (a : BitVec 6) : Statement (.opseq a) := by
  rintro sc w ⟨⟩
  apply of_fields <;> simp [rrr, bits_cat_high, bits_cat_low]
theorem tmul (p : BitVec 4) (q : BitVec 4) (x : BitVec 6) (y : BitVec 6) : Statement (.tmul p q x y) := by
  rintro sc w ⟨⟩
  apply of_fields <;> simp [tileWord, bits_cat_high, bits_cat_low]
theorem tmac (p : BitVec 4) (q : BitVec 4) (x : BitVec 6) (y : BitVec 6) : Statement (.tmac p q x y) := by
  rintro sc w ⟨⟩
  apply of_fields <;> simp [tileWord, bits_cat_high, bits_cat_low]
theorem tzero (p : BitVec 4) (q : BitVec 4) (x : BitVec 6) (y : BitVec 6) : Statement (.tzero p q x y) := by
  rintro sc w ⟨⟩
  apply of_fields <;> simp [tileWord, bits_cat_high, bits_cat_low]
theorem tacopy (p : BitVec 4) (q : BitVec 4) (x : BitVec 6) (y : BitVec 6) : Statement (.tacopy p q x y) := by
  rintro sc w ⟨⟩
  apply of_fields <;> simp [tileWord, bits_cat_high, bits_cat_low]
theorem taload (p : BitVec 4) (q : BitVec 4) (x : BitVec 6) (y : BitVec 6) : Statement (.taload p q x y) := by
  rintro sc w ⟨⟩
  apply of_fields <;> simp [tileWord, bits_cat_high, bits_cat_low]
theorem tring (p : BitVec 4) (q : BitVec 4) (x : BitVec 6) (y : BitVec 6) : Statement (.tring p q x y) := by
  rintro sc w ⟨⟩
  apply of_fields <;> simp [tileWord, bits_cat_high, bits_cat_low]
theorem tsig (p : BitVec 4) (q : BitVec 4) (x : BitVec 6) (y : BitVec 6) : Statement (.tsig p q x y) := by
  rintro sc w ⟨⟩
  apply of_fields <;> simp [tileWord, bits_cat_high, bits_cat_low]
theorem tset (p : BitVec 4) (q : BitVec 4) (x : BitVec 6) (y : BitVec 6) : Statement (.tset p q x y) := by
  rintro sc w ⟨⟩
  apply of_fields <;> simp [tileWord, bits_cat_high, bits_cat_low]
theorem taddq (p : BitVec 4) (q : BitVec 4) (x : BitVec 6) (y : BitVec 6) : Statement (.taddq p q x y) := by
  rintro sc w ⟨⟩
  apply of_fields <;> simp [tileWord, bits_cat_high, bits_cat_low]
theorem tloop (p : BitVec 4) (q : BitVec 4) (x : BitVec 6) (y : BitVec 6) : Statement (.tloop p q x y) := by
  rintro sc w ⟨⟩
  apply of_fields <;> simp [tileWord, bits_cat_high, bits_cat_low]
theorem tjmp (p : BitVec 4) (q : BitVec 4) (x : BitVec 6) (y : BitVec 6) : Statement (.tjmp p q x y) := by
  rintro sc w ⟨⟩
  apply of_fields <;> simp [tileWord, bits_cat_high, bits_cat_low]
theorem twaitc (p : BitVec 4) (q : BitVec 4) (x : BitVec 6) (y : BitVec 6) : Statement (.twaitc p q x y) := by
  rintro sc w ⟨⟩
  apply of_fields <;> simp [tileWord, bits_cat_high, bits_cat_low]
theorem tend (p : BitVec 4) (q : BitVec 4) (x : BitVec 6) (y : BitVec 6) : Statement (.tend p q x y) := by
  rintro sc w ⟨⟩
  apply of_fields <;> simp [tileWord, bits_cat_high, bits_cat_low]
theorem tswap (p : BitVec 4) (q : BitVec 4) (x : BitVec 6) (y : BitVec 6) : Statement (.tswap p q x y) := by
  rintro sc w ⟨⟩
  apply of_fields <;> simp [tileWord, bits_cat_high, bits_cat_low]
theorem cpy (d : BitVec 6) (a : BitVec 6) (k : BitVec 2) (l : BitVec 6) : Statement (.cpy d a k l) := by
  rintro sc w ⟨⟩
  apply of_fields <;> simp [rri, bits_cat_high, bits_cat_low]
theorem gath (a : BitVec 6) : Statement (.gath a) := by
  rintro sc w ⟨⟩
  apply of_fields <;> simp [rrr, bits_cat_high, bits_cat_low]
theorem scat (a : BitVec 6) : Statement (.scat a) := by
  rintro sc w ⟨⟩
  apply of_fields <;> simp [rrr, bits_cat_high, bits_cat_low]
theorem cpyw (a : BitVec 6) : Statement (.cpyw a) := by
  rintro sc w ⟨⟩
  apply of_fields <;> simp [rrr, bits_cat_high, bits_cat_low]
theorem shdwBind (d : BitVec 6) (a : BitVec 6) : Statement (.shdwBind d a) := by
  rintro sc w ⟨⟩
  apply of_fields <;> simp [rrr, bits_cat_high, bits_cat_low]
theorem shdwFree (a : BitVec 6) : Statement (.shdwFree a) := by
  rintro sc w ⟨⟩
  apply of_fields <;> simp [rrr, bits_cat_high, bits_cat_low]
theorem shdwGen (d : BitVec 6) (a : BitVec 6) : Statement (.shdwGen d a) := by
  rintro sc w ⟨⟩
  apply of_fields <;> simp [rrr, bits_cat_high, bits_cat_low]
theorem publish (a : BitVec 6) (c : BitVec 3) : Statement (.publish a c) := by
  rintro sc w ⟨⟩
  apply of_fields <;> simp [rri, bits_cat_high, bits_cat_low]
theorem shadowFlip : Statement .shadowFlip := by rintro _ _ ⟨⟩
theorem coll (d : BitVec 6) (a : BitVec 6) : Statement (.coll d a) := by
  rintro sc w ⟨⟩
  apply of_fields <;> simp [rrr, bits_cat_high, bits_cat_low]
theorem collw (d : BitVec 6) (a : BitVec 6) : Statement (.collw d a) := by
  rintro sc w ⟨⟩
  apply of_fields <;> simp [rrr, bits_cat_high, bits_cat_low]
theorem mcast (a : BitVec 6) : Statement (.mcast a) := by
  rintro sc w ⟨⟩
  apply of_fields <;> simp [rrr, bits_cat_high, bits_cat_low]
theorem launch (d : BitVec 6) (a : BitVec 6) (b : BitVec 6) : Statement (.launch d a b) := by
  rintro sc w ⟨⟩
  apply of_fields <;> simp [rrr, bits_cat_high, bits_cat_low]
theorem lwait (d : BitVec 6) (a : BitVec 6) : Statement (.lwait d a) := by
  rintro sc w ⟨⟩
  apply of_fields <;> simp [rrr, bits_cat_high, bits_cat_low]
theorem svc (d : BitVec 6) (a : BitVec 6) (i : BitVec 8) : Statement (.svc d a i) := by
  rintro sc w ⟨⟩
  apply of_fields <;> simp [rri, bits_cat_high, bits_cat_low]
theorem trap (a : BitVec 6) (i : BitVec 8) : Statement (.trap a i) := by
  rintro sc w ⟨⟩
  apply of_fields <;> simp [rri, bits_cat_high, bits_cat_low]
theorem notify (a : BitVec 6) (b : BitVec 6) : Statement (.notify a b) := by
  rintro sc w ⟨⟩
  apply of_fields <;> simp [rrr, bits_cat_high, bits_cat_low]
theorem errpop (d : BitVec 6) (a : BitVec 6) : Statement (.errpop d a) := by
  rintro sc w ⟨⟩
  apply of_fields <;> simp [rrr, bits_cat_high, bits_cat_low]
theorem slotqDirect (d : BitVec 6) (a : BitVec 6) (b : BitVec 6) : Statement (.slotqDirect d a b) := by
  rintro sc w ⟨⟩
  apply of_fields <;> simp [rrr, bits_cat_high, bits_cat_low]
theorem slotqRoute (d : BitVec 6) (a : BitVec 6) (b : BitVec 6) : Statement (.slotqRoute d a b) := by
  rintro sc w ⟨⟩
  apply of_fields <;> simp [rrr, bits_cat_high, bits_cat_low]
theorem svcreply (d : BitVec 6) (a : BitVec 6) (b : BitVec 6) : Statement (.svcreply d a b) := by
  rintro sc w ⟨⟩
  apply of_fields <;> simp [rrr, bits_cat_high, bits_cat_low]
theorem rtt : Statement .rtt := by
  rintro sc w ⟨⟩
  apply of_fields <;> simp [opWord, bits_cat_high, bits_cat_low]
theorem tlbinvPage (a : BitVec 6) (b : BitVec 6) : Statement (.tlbinvPage a b) := by
  rintro sc w ⟨⟩
  apply of_fields <;> simp [rrr, bits_cat_high, bits_cat_low]
theorem tlbinvContext (a : BitVec 6) (b : BitVec 6) : Statement (.tlbinvContext a b) := by
  rintro sc w ⟨⟩
  apply of_fields <;> simp [rrr, bits_cat_high, bits_cat_low]
theorem tlbinvVd (a : BitVec 6) (b : BitVec 6) : Statement (.tlbinvVd a b) := by
  rintro sc w ⟨⟩
  apply of_fields <;> simp [rrr, bits_cat_high, bits_cat_low]
theorem tfence (c : BitVec 3) : Statement (.tfence c) := by
  rintro sc w ⟨⟩
  apply of_fields <;> simp [rri, bits_cat_high, bits_cat_low]
theorem keyload (d : BitVec 6) (a : BitVec 6) (b : BitVec 6) : Statement (.keyload d a b) := by
  rintro sc w ⟨⟩
  apply of_fields <;> simp [rrr, bits_cat_high, bits_cat_low]
theorem keyrevoke (d : BitVec 6) (a : BitVec 6) : Statement (.keyrevoke d a) := by
  rintro sc w ⟨⟩
  apply of_fields <;> simp [rrr, bits_cat_high, bits_cat_low]
theorem qosset (d : BitVec 6) (a : BitVec 6) (b : BitVec 6) : Statement (.qosset d a b) := by
  rintro sc w ⟨⟩
  apply of_fields <;> simp [rrr, bits_cat_high, bits_cat_low]
theorem ctxsave (d : BitVec 6) (a : BitVec 6) (b : BitVec 6) : Statement (.ctxsave d a b) := by
  rintro sc w ⟨⟩
  apply of_fields <;> simp [rrr, bits_cat_high, bits_cat_low]
theorem ctxrest (d : BitVec 6) (a : BitVec 6) (b : BitVec 6) : Statement (.ctxrest d a b) := by
  rintro sc w ⟨⟩
  apply of_fields <;> simp [rrr, bits_cat_high, bits_cat_low]
theorem ctxkill (d : BitVec 6) (a : BitVec 6) (b : BitVec 6) : Statement (.ctxkill d a b) := by
  rintro sc w ⟨⟩
  apply of_fields <;> simp [rrr, bits_cat_high, bits_cat_low]
theorem pgsplit (d : BitVec 6) (a : BitVec 6) (b : BitVec 6) : Statement (.pgsplit d a b) := by
  rintro sc w ⟨⟩
  apply of_fields <;> simp [rrr, bits_cat_high, bits_cat_low]
theorem wfi : Statement .wfi := by
  rintro sc w ⟨⟩
  apply of_fields <;> simp [opWord, bits_cat_high, bits_cat_low]
theorem partctlAssign (d : BitVec 6) (a : BitVec 6) (b : BitVec 6) : Statement (.partctlAssign d a b) := by
  rintro sc w ⟨⟩
  apply of_fields <;> simp [rrr, bits_cat_high, bits_cat_low]
theorem partctlReset (d : BitVec 6) (a : BitVec 6) (b : BitVec 6) : Statement (.partctlReset d a b) := by
  rintro sc w ⟨⟩
  apply of_fields <;> simp [rrr, bits_cat_high, bits_cat_low]
theorem partctlStop (d : BitVec 6) (a : BitVec 6) (b : BitVec 6) : Statement (.partctlStop d a b) := by
  rintro sc w ⟨⟩
  apply of_fields <;> simp [rrr, bits_cat_high, bits_cat_low]
theorem quadsRetired : Statement .quadsRetired := by rintro _ _ ⟨⟩
theorem sleep (a : BitVec 6) : Statement (.sleep a) := by
  rintro sc w ⟨⟩
  apply of_fields <;> simp [rrr, bits_cat_high, bits_cat_low]
theorem halt : Statement .halt := by
  rintro sc w ⟨⟩
  apply of_fields <;> simp [opWord, bits_cat_high, bits_cat_low]
theorem himm (p : BitVec 22) : Statement (.himm p) := by
  rintro sc w ⟨⟩
  apply of_fields <;> simp [himmWord, bits_cat_high, bits_cat_low]
theorem hcls (m : BitVec 12) (a : BitVec 4) (b : BitVec 4) : Statement (.hcls m a b) := by
  rintro sc w ⟨⟩
  apply of_fields <;> simp [hclsWord, bits_cat_high, bits_cat_low]
theorem hmod (r : BitVec 3) (t : BitVec 2) (c : BitVec 2) : Statement (.hmod r t c) := by
  rintro sc w ⟨⟩
  apply of_fields <;> simp [hmodWord, bits_cat_high, bits_cat_low]
theorem hintReservedF6 (h : BitVec 1) (x : BitVec 20) : Statement (.hintReservedF6 h x) := by
  rintro sc w ⟨⟩
  apply of_fields <;> simp [opWord, bits_cat_high, bits_cat_low]
theorem hintReservedF8 (h : BitVec 3) (x : BitVec 20) : Statement (.hintReservedF8 h x) := by
  rintro sc w ⟨⟩
  apply of_fields <;> simp [opWord, bits_cat_high, bits_cat_low]
theorem loadDataArrival : Statement .loadDataArrival := by rintro _ _ ⟨⟩
theorem storeAck : Statement .storeAck := by rintro _ _ ⟨⟩
theorem atomicReply : Statement .atomicReply := by rintro _ _ ⟨⟩
theorem waitmReply : Statement .waitmReply := by rintro _ _ ⟨⟩
theorem watchReevaluate : Statement .watchReevaluate := by rintro _ _ ⟨⟩
theorem homeAccess : Statement .homeAccess := by rintro _ _ ⟨⟩
theorem engineCommandComplete : Statement .engineCommandComplete := by rintro _ _ ⟨⟩
theorem opinstComplete : Statement .opinstComplete := by rintro _ _ ⟨⟩
theorem iwStoreArrival : Statement .iwStoreArrival := by rintro _ _ ⟨⟩
theorem owLoadArrival : Statement .owLoadArrival := by rintro _ _ ⟨⟩
theorem fireStart : Statement .fireStart := by rintro _ _ ⟨⟩
theorem fireComplete : Statement .fireComplete := by rintro _ _ ⟨⟩
theorem claimLimitExpiry : Statement .claimLimitExpiry := by rintro _ _ ⟨⟩
theorem unreadyLimitExpiry : Statement .unreadyLimitExpiry := by rintro _ _ ⟨⟩
theorem opwaitLimitExpiry : Statement .opwaitLimitExpiry := by rintro _ _ ⟨⟩
theorem joinRelease : Statement .joinRelease := by rintro _ _ ⟨⟩
theorem jointoExpiry : Statement .jointoExpiry := by rintro _ _ ⟨⟩
theorem bartoExpiry : Statement .bartoExpiry := by rintro _ _ ⟨⟩
theorem vgrowGrant : Statement .vgrowGrant := by rintro _ _ ⟨⟩
theorem vshrinkFree : Statement .vshrinkFree := by rintro _ _ ⟨⟩
theorem pageWalkComplete : Statement .pageWalkComplete := by rintro _ _ ⟨⟩
theorem faultRequestPost : Statement .faultRequestPost := by rintro _ _ ⟨⟩
theorem faultDone : Statement .faultDone := by rintro _ _ ⟨⟩
theorem logfullWake : Statement .logfullWake := by rintro _ _ ⟨⟩
theorem takeTraps : Statement .takeTraps := by rintro _ _ ⟨⟩
theorem trapRecordAppend : Statement .trapRecordAppend := by rintro _ _ ⟨⟩
theorem tqtailWrite : Statement .tqtailWrite := by rintro _ _ ⟨⟩
theorem waveSave : Statement .waveSave := by rintro _ _ ⟨⟩
theorem waittoExpiry : Statement .waittoExpiry := by rintro _ _ ⟨⟩
theorem preempttoExpiry : Statement .preempttoExpiry := by rintro _ _ ⟨⟩
theorem waveRestore : Statement .waveRestore := by rintro _ _ ⟨⟩
theorem fumaroleEntry : Statement .fumaroleEntry := by rintro _ _ ⟨⟩
theorem fumaroleExit : Statement .fumaroleExit := by rintro _ _ ⟨⟩
theorem waveEnd : Statement .waveEnd := by rintro _ _ ⟨⟩
theorem blockComplete : Statement .blockComplete := by rintro _ _ ⟨⟩
theorem launchDispatch : Statement .launchDispatch := by rintro _ _ ⟨⟩
theorem blockPlace : Statement .blockPlace := by rintro _ _ ⟨⟩
theorem priorityPreempt : Statement .priorityPreempt := by rintro _ _ ⟨⟩
theorem launchComplete : Statement .launchComplete := by rintro _ _ ⟨⟩
theorem reclaimNotice : Statement .reclaimNotice := by rintro _ _ ⟨⟩
theorem reclaimtoExpiry : Statement .reclaimtoExpiry := by rintro _ _ ⟨⟩
theorem coopPark : Statement .coopPark := by rintro _ _ ⟨⟩
theorem thermalSample : Statement .thermalSample := by rintro _ _ ⟨⟩
theorem voltageDroop : Statement .voltageDroop := by rintro _ _ ⟨⟩
theorem clusterSpareTakeover : Statement .clusterSpareTakeover := by rintro _ _ ⟨⟩
theorem ventFailure : Statement .ventFailure := by rintro _ _ ⟨⟩
theorem collMatch : Statement .collMatch := by rintro _ _ ⟨⟩
theorem collCombine : Statement .collCombine := by rintro _ _ ⟨⟩
theorem worldRetire : Statement .worldRetire := by rintro _ _ ⟨⟩
theorem slotStart : Statement .slotStart := by rintro _ _ ⟨⟩
theorem slotMark : Statement .slotMark := by rintro _ _ ⟨⟩
theorem calendarLockLoss : Statement .calendarLockLoss := by rintro _ _ ⟨⟩
theorem peerAbsent : Statement .peerAbsent := by rintro _ _ ⟨⟩
theorem peerPresent : Statement .peerPresent := by rintro _ _ ⟨⟩
theorem read : Statement .read := by rintro _ _ ⟨⟩
theorem data : Statement .data := by rintro _ _ ⟨⟩
theorem write : Statement .write := by rintro _ _ ⟨⟩
theorem wack : Statement .wack := by rintro _ _ ⟨⟩
theorem atom : Statement .atom := by rintro _ _ ⟨⟩
theorem areply : Statement .areply := by rintro _ _ ⟨⟩
theorem watch : Statement .watch := by rintro _ _ ⟨⟩
theorem wreply : Statement .wreply := by rintro _ _ ⟨⟩
theorem bulk : Statement .bulk := by rintro _ _ ⟨⟩
theorem back : Statement .back := by rintro _ _ ⟨⟩
theorem abort : Statement .abort := by rintro _ _ ⟨⟩
theorem dack : Statement .dack := by rintro _ _ ⟨⟩
theorem retry : Statement .retry := by rintro _ _ ⟨⟩
theorem credit : Statement .credit := by rintro _ _ ⟨⟩
theorem idle : Statement .idle := by rintro _ _ ⟨⟩
theorem relayForward : Statement .relayForward := by rintro _ _ ⟨⟩
theorem wavelengthRetrain : Statement .wavelengthRetrain := by rintro _ _ ⟨⟩
theorem wavelengthSpare : Statement .wavelengthSpare := by rintro _ _ ⟨⟩
theorem pcieInboundRead : Statement .pcieInboundRead := by rintro _ _ ⟨⟩
theorem pcieInboundWrite : Statement .pcieInboundWrite := by rintro _ _ ⟨⟩
theorem pcieLinkDown : Statement .pcieLinkDown := by rintro _ _ ⟨⟩
theorem pcieAerEvent : Statement .pcieAerEvent := by rintro _ _ ⟨⟩
theorem getVersion : Statement .getVersion := by rintro _ _ ⟨⟩
theorem getCapabilities : Statement .getCapabilities := by rintro _ _ ⟨⟩
theorem negotiateAlgorithms : Statement .negotiateAlgorithms := by rintro _ _ ⟨⟩
theorem getDigests : Statement .getDigests := by rintro _ _ ⟨⟩
theorem getCertificate : Statement .getCertificate := by rintro _ _ ⟨⟩
theorem challenge : Statement .challenge := by rintro _ _ ⟨⟩
theorem getMeasurements : Statement .getMeasurements := by rintro _ _ ⟨⟩
theorem spdmUnsupportedRequest : Statement .spdmUnsupportedRequest := by rintro _ _ ⟨⟩
theorem sidebandPackageReset : Statement .sidebandPackageReset := by rintro _ _ ⟨⟩
theorem sidebandPartitionReset : Statement .sidebandPartitionReset := by rintro _ _ ⟨⟩
theorem sidebandOtherMessage : Statement .sidebandOtherMessage := by rintro _ _ ⟨⟩
theorem packageReset : Statement .packageReset := by rintro _ _ ⟨⟩
theorem powerStateEntry : Statement .powerStateEntry := by rintro _ _ ⟨⟩
theorem powerStateExit : Statement .powerStateExit := by rintro _ _ ⟨⟩
theorem powerExitComplete : Statement .powerExitComplete := by rintro _ _ ⟨⟩
theorem wakeatExpiry : Statement .wakeatExpiry := by rintro _ _ ⟨⟩
theorem lattolWrite : Statement .lattolWrite := by rintro _ _ ⟨⟩
theorem vtrefWrite : Statement .vtrefWrite := by rintro _ _ ⟨⟩
theorem qpendWrite : Statement .qpendWrite := by rintro _ _ ⟨⟩
theorem qnextRead : Statement .qnextRead := by rintro _ _ ⟨⟩
theorem qdoneWrite : Statement .qdoneWrite := by rintro _ _ ⟨⟩
theorem uestaWrite : Statement .uestaWrite := by rintro _ _ ⟨⟩
theorem gCounterRead : Statement .gCounterRead := by rintro _ _ ⟨⟩
theorem clguarWrite : Statement .clguarWrite := by rintro _ _ ⟨⟩
theorem rfmlockWrite : Statement .rfmlockWrite := by rintro _ _ ⟨⟩
theorem kcmdGo : Statement .kcmdGo := by rintro _ _ ⟨⟩
theorem registerWrite : Statement .registerWrite := by rintro _ _ ⟨⟩
theorem bucketRefill : Statement .bucketRefill := by rintro _ _ ⟨⟩
theorem discardedFlit : Statement .discardedFlit := by rintro _ _ ⟨⟩
theorem planeRestored : Statement .planeRestored := by rintro _ _ ⟨⟩
theorem memoryScrub : Statement .memoryScrub := by rintro _ _ ⟨⟩
theorem powerRemoved : Statement .powerRemoved := by rintro _ _ ⟨⟩
theorem pcieLinkUp : Statement .pcieLinkUp := by rintro _ _ ⟨⟩
theorem keyUnitDone : Statement .keyUnitDone := by rintro _ _ ⟨⟩
theorem operatorCommandArrival : Statement .operatorCommandArrival := by rintro _ _ ⟨⟩
theorem tileCommandRetire : Statement .tileCommandRetire := by rintro _ _ ⟨⟩
theorem privilegedCompletion : Statement .privilegedCompletion := by rintro _ _ ⟨⟩

end Sys2Proof.Laws.SchedulingKept
end

