-- ==== Sys2Proof/Laws/State.lean ====
section
/-!
SUPPORT. What each update of the state leaves of each field, and what it makes of its own.
-/

namespace Sys2Proof.Machine

variable (s : State)

/-! ## mapWave -/

@[simp] theorem State.mapWave_waves (n : Nat) (f : Wave → Wave) : (s.mapWave n f).waves = mapIf (fun w => w.id == n) f s.waves := rfl
@[simp] theorem State.mapWave_blocks (n : Nat) (f : Wave → Wave) : (s.mapWave n f).blocks = s.blocks := rfl
@[simp] theorem State.mapWave_launches (n : Nat) (f : Wave → Wave) : (s.mapWave n f).launches = s.launches := rfl
@[simp] theorem State.mapWave_mem (n : Nat) (f : Wave → Wave) : (s.mapWave n f).mem = s.mem := rfl
@[simp] theorem State.mapWave_caches (n : Nat) (f : Wave → Wave) : (s.mapWave n f).caches = s.caches := rfl
@[simp] theorem State.mapWave_l2 (n : Nat) (f : Wave → Wave) : (s.mapWave n f).l2 = s.l2 := rfl
@[simp] theorem State.mapWave_ways (n : Nat) (f : Wave → Wave) : (s.mapWave n f).ways = s.ways := rfl
@[simp] theorem State.mapWave_pins (n : Nat) (f : Wave → Wave) : (s.mapWave n f).pins = s.pins := rfl
@[simp] theorem State.mapWave_refusals (n : Nat) (f : Wave → Wave) : (s.mapWave n f).refusals = s.refusals := rfl
@[simp] theorem State.mapWave_sysCache (n : Nat) (f : Wave → Wave) : (s.mapWave n f).sysCache = s.sysCache := rfl
@[simp] theorem State.mapWave_badLines (n : Nat) (f : Wave → Wave) : (s.mapWave n f).badLines = s.badLines := rfl
@[simp] theorem State.mapWave_tlb (n : Nat) (f : Wave → Wave) : (s.mapWave n f).tlb = s.tlb := rfl
@[simp] theorem State.mapWave_wcache (n : Nat) (f : Wave → Wave) : (s.mapWave n f).wcache = s.wcache := rfl
@[simp] theorem State.mapWave_walks (n : Nat) (f : Wave → Wave) : (s.mapWave n f).walks = s.walks := rfl
@[simp] theorem State.mapWave_faults (n : Nat) (f : Wave → Wave) : (s.mapWave n f).faults = s.faults := rfl
@[simp] theorem State.mapWave_faultSeq (n : Nat) (f : Wave → Wave) : (s.mapWave n f).faultSeq = s.faultSeq := rfl
@[simp] theorem State.mapWave_accs (n : Nat) (f : Wave → Wave) : (s.mapWave n f).accs = s.accs := rfl
@[simp] theorem State.mapWave_cmds (n : Nat) (f : Wave → Wave) : (s.mapWave n f).cmds = s.cmds := rfl
@[simp] theorem State.mapWave_shadows (n : Nat) (f : Wave → Wave) : (s.mapWave n f).shadows = s.shadows := rfl
@[simp] theorem State.mapWave_colls (n : Nat) (f : Wave → Wave) : (s.mapWave n f).colls = s.colls := rfl
@[simp] theorem State.mapWave_collNo (n : Nat) (f : Wave → Wave) : (s.mapWave n f).collNo = s.collNo := rfl
@[simp] theorem State.mapWave_collCount (n : Nat) (f : Wave → Wave) : (s.mapWave n f).collCount = s.collCount := rfl
@[simp] theorem State.mapWave_sysNo (n : Nat) (f : Wave → Wave) : (s.mapWave n f).sysNo = s.sysNo := rfl
@[simp] theorem State.mapWave_aborts (n : Nat) (f : Wave → Wave) : (s.mapWave n f).aborts = s.aborts := rfl
@[simp] theorem State.mapWave_ops (n : Nat) (f : Wave → Wave) : (s.mapWave n f).ops = s.ops := rfl
@[simp] theorem State.mapWave_freed (n : Nat) (f : Wave → Wave) : (s.mapWave n f).freed = s.freed := rfl
@[simp] theorem State.mapWave_fires (n : Nat) (f : Wave → Wave) : (s.mapWave n f).fires = s.fires := rfl
@[simp] theorem State.mapWave_vds (n : Nat) (f : Wave → Wave) : (s.mapWave n f).vds = s.vds := rfl
@[simp] theorem State.mapWave_parts (n : Nat) (f : Wave → Wave) : (s.mapWave n f).parts = s.parts := rfl
@[simp] theorem State.mapWave_queues (n : Nat) (f : Wave → Wave) : (s.mapWave n f).queues = s.queues := rfl
@[simp] theorem State.mapWave_keys (n : Nat) (f : Wave → Wave) : (s.mapWave n f).keys = s.keys := rfl
@[simp] theorem State.mapWave_clusters (n : Nat) (f : Wave → Wave) : (s.mapWave n f).clusters = s.clusters := rfl
@[simp] theorem State.mapWave_arb (n : Nat) (f : Wave → Wave) : (s.mapWave n f).arb = s.arb := rfl
@[simp] theorem State.mapWave_fab (n : Nat) (f : Wave → Wave) : (s.mapWave n f).fab = s.fab := rfl
@[simp] theorem State.mapWave_mgmt (n : Nat) (f : Wave → Wave) : (s.mapWave n f).mgmt = s.mgmt := rfl
@[simp] theorem State.mapWave_plat (n : Nat) (f : Wave → Wave) : (s.mapWave n f).plat = s.plat := rfl
@[simp] theorem State.mapWave_cycle (n : Nat) (f : Wave → Wave) : (s.mapWave n f).cycle = s.cycle := rfl
@[simp] theorem State.mapWave_agenda (n : Nat) (f : Wave → Wave) : (s.mapWave n f).agenda = s.agenda := rfl
@[simp] theorem State.mapWave_ev (n : Nat) (f : Wave → Wave) : (s.mapWave n f).ev = s.ev := rfl
@[simp] theorem State.mapWave_sel (n : Nat) (f : Wave → Wave) : (s.mapWave n f).sel = s.sel := rfl
@[simp] theorem State.mapWave_issue (n : Nat) (f : Wave → Wave) : (s.mapWave n f).issue = s.issue := rfl
@[simp] theorem State.mapWave_nextId (n : Nat) (f : Wave → Wave) : (s.mapWave n f).nextId = s.nextId := rfl
@[simp] theorem State.mapWave_freeCtr (n : Nat) (f : Wave → Wave) : (s.mapWave n f).freeCtr = s.freeCtr := rfl

/-! ## mapBlock -/

@[simp] theorem State.mapBlock_waves (n : Nat) (f : Block → Block) : (s.mapBlock n f).waves = s.waves := rfl
@[simp] theorem State.mapBlock_blocks (n : Nat) (f : Block → Block) : (s.mapBlock n f).blocks = mapIf (fun b => b.id == n) f s.blocks := rfl
@[simp] theorem State.mapBlock_launches (n : Nat) (f : Block → Block) : (s.mapBlock n f).launches = s.launches := rfl
@[simp] theorem State.mapBlock_mem (n : Nat) (f : Block → Block) : (s.mapBlock n f).mem = s.mem := rfl
@[simp] theorem State.mapBlock_caches (n : Nat) (f : Block → Block) : (s.mapBlock n f).caches = s.caches := rfl
@[simp] theorem State.mapBlock_l2 (n : Nat) (f : Block → Block) : (s.mapBlock n f).l2 = s.l2 := rfl
@[simp] theorem State.mapBlock_ways (n : Nat) (f : Block → Block) : (s.mapBlock n f).ways = s.ways := rfl
@[simp] theorem State.mapBlock_pins (n : Nat) (f : Block → Block) : (s.mapBlock n f).pins = s.pins := rfl
@[simp] theorem State.mapBlock_refusals (n : Nat) (f : Block → Block) : (s.mapBlock n f).refusals = s.refusals := rfl
@[simp] theorem State.mapBlock_sysCache (n : Nat) (f : Block → Block) : (s.mapBlock n f).sysCache = s.sysCache := rfl
@[simp] theorem State.mapBlock_badLines (n : Nat) (f : Block → Block) : (s.mapBlock n f).badLines = s.badLines := rfl
@[simp] theorem State.mapBlock_tlb (n : Nat) (f : Block → Block) : (s.mapBlock n f).tlb = s.tlb := rfl
@[simp] theorem State.mapBlock_wcache (n : Nat) (f : Block → Block) : (s.mapBlock n f).wcache = s.wcache := rfl
@[simp] theorem State.mapBlock_walks (n : Nat) (f : Block → Block) : (s.mapBlock n f).walks = s.walks := rfl
@[simp] theorem State.mapBlock_faults (n : Nat) (f : Block → Block) : (s.mapBlock n f).faults = s.faults := rfl
@[simp] theorem State.mapBlock_faultSeq (n : Nat) (f : Block → Block) : (s.mapBlock n f).faultSeq = s.faultSeq := rfl
@[simp] theorem State.mapBlock_accs (n : Nat) (f : Block → Block) : (s.mapBlock n f).accs = s.accs := rfl
@[simp] theorem State.mapBlock_cmds (n : Nat) (f : Block → Block) : (s.mapBlock n f).cmds = s.cmds := rfl
@[simp] theorem State.mapBlock_shadows (n : Nat) (f : Block → Block) : (s.mapBlock n f).shadows = s.shadows := rfl
@[simp] theorem State.mapBlock_colls (n : Nat) (f : Block → Block) : (s.mapBlock n f).colls = s.colls := rfl
@[simp] theorem State.mapBlock_collNo (n : Nat) (f : Block → Block) : (s.mapBlock n f).collNo = s.collNo := rfl
@[simp] theorem State.mapBlock_collCount (n : Nat) (f : Block → Block) : (s.mapBlock n f).collCount = s.collCount := rfl
@[simp] theorem State.mapBlock_sysNo (n : Nat) (f : Block → Block) : (s.mapBlock n f).sysNo = s.sysNo := rfl
@[simp] theorem State.mapBlock_aborts (n : Nat) (f : Block → Block) : (s.mapBlock n f).aborts = s.aborts := rfl
@[simp] theorem State.mapBlock_ops (n : Nat) (f : Block → Block) : (s.mapBlock n f).ops = s.ops := rfl
@[simp] theorem State.mapBlock_freed (n : Nat) (f : Block → Block) : (s.mapBlock n f).freed = s.freed := rfl
@[simp] theorem State.mapBlock_fires (n : Nat) (f : Block → Block) : (s.mapBlock n f).fires = s.fires := rfl
@[simp] theorem State.mapBlock_vds (n : Nat) (f : Block → Block) : (s.mapBlock n f).vds = s.vds := rfl
@[simp] theorem State.mapBlock_parts (n : Nat) (f : Block → Block) : (s.mapBlock n f).parts = s.parts := rfl
@[simp] theorem State.mapBlock_queues (n : Nat) (f : Block → Block) : (s.mapBlock n f).queues = s.queues := rfl
@[simp] theorem State.mapBlock_keys (n : Nat) (f : Block → Block) : (s.mapBlock n f).keys = s.keys := rfl
@[simp] theorem State.mapBlock_clusters (n : Nat) (f : Block → Block) : (s.mapBlock n f).clusters = s.clusters := rfl
@[simp] theorem State.mapBlock_arb (n : Nat) (f : Block → Block) : (s.mapBlock n f).arb = s.arb := rfl
@[simp] theorem State.mapBlock_fab (n : Nat) (f : Block → Block) : (s.mapBlock n f).fab = s.fab := rfl
@[simp] theorem State.mapBlock_mgmt (n : Nat) (f : Block → Block) : (s.mapBlock n f).mgmt = s.mgmt := rfl
@[simp] theorem State.mapBlock_plat (n : Nat) (f : Block → Block) : (s.mapBlock n f).plat = s.plat := rfl
@[simp] theorem State.mapBlock_cycle (n : Nat) (f : Block → Block) : (s.mapBlock n f).cycle = s.cycle := rfl
@[simp] theorem State.mapBlock_agenda (n : Nat) (f : Block → Block) : (s.mapBlock n f).agenda = s.agenda := rfl
@[simp] theorem State.mapBlock_ev (n : Nat) (f : Block → Block) : (s.mapBlock n f).ev = s.ev := rfl
@[simp] theorem State.mapBlock_sel (n : Nat) (f : Block → Block) : (s.mapBlock n f).sel = s.sel := rfl
@[simp] theorem State.mapBlock_issue (n : Nat) (f : Block → Block) : (s.mapBlock n f).issue = s.issue := rfl
@[simp] theorem State.mapBlock_nextId (n : Nat) (f : Block → Block) : (s.mapBlock n f).nextId = s.nextId := rfl
@[simp] theorem State.mapBlock_freeCtr (n : Nat) (f : Block → Block) : (s.mapBlock n f).freeCtr = s.freeCtr := rfl

/-! ## mapLaunch -/

@[simp] theorem State.mapLaunch_waves (n : Nat) (f : Launch → Launch) : (s.mapLaunch n f).waves = s.waves := rfl
@[simp] theorem State.mapLaunch_blocks (n : Nat) (f : Launch → Launch) : (s.mapLaunch n f).blocks = s.blocks := rfl
@[simp] theorem State.mapLaunch_launches (n : Nat) (f : Launch → Launch) : (s.mapLaunch n f).launches = mapIf (fun l => l.uid == n) f s.launches := rfl
@[simp] theorem State.mapLaunch_mem (n : Nat) (f : Launch → Launch) : (s.mapLaunch n f).mem = s.mem := rfl
@[simp] theorem State.mapLaunch_caches (n : Nat) (f : Launch → Launch) : (s.mapLaunch n f).caches = s.caches := rfl
@[simp] theorem State.mapLaunch_l2 (n : Nat) (f : Launch → Launch) : (s.mapLaunch n f).l2 = s.l2 := rfl
@[simp] theorem State.mapLaunch_ways (n : Nat) (f : Launch → Launch) : (s.mapLaunch n f).ways = s.ways := rfl
@[simp] theorem State.mapLaunch_pins (n : Nat) (f : Launch → Launch) : (s.mapLaunch n f).pins = s.pins := rfl
@[simp] theorem State.mapLaunch_refusals (n : Nat) (f : Launch → Launch) : (s.mapLaunch n f).refusals = s.refusals := rfl
@[simp] theorem State.mapLaunch_sysCache (n : Nat) (f : Launch → Launch) : (s.mapLaunch n f).sysCache = s.sysCache := rfl
@[simp] theorem State.mapLaunch_badLines (n : Nat) (f : Launch → Launch) : (s.mapLaunch n f).badLines = s.badLines := rfl
@[simp] theorem State.mapLaunch_tlb (n : Nat) (f : Launch → Launch) : (s.mapLaunch n f).tlb = s.tlb := rfl
@[simp] theorem State.mapLaunch_wcache (n : Nat) (f : Launch → Launch) : (s.mapLaunch n f).wcache = s.wcache := rfl
@[simp] theorem State.mapLaunch_walks (n : Nat) (f : Launch → Launch) : (s.mapLaunch n f).walks = s.walks := rfl
@[simp] theorem State.mapLaunch_faults (n : Nat) (f : Launch → Launch) : (s.mapLaunch n f).faults = s.faults := rfl
@[simp] theorem State.mapLaunch_faultSeq (n : Nat) (f : Launch → Launch) : (s.mapLaunch n f).faultSeq = s.faultSeq := rfl
@[simp] theorem State.mapLaunch_accs (n : Nat) (f : Launch → Launch) : (s.mapLaunch n f).accs = s.accs := rfl
@[simp] theorem State.mapLaunch_cmds (n : Nat) (f : Launch → Launch) : (s.mapLaunch n f).cmds = s.cmds := rfl
@[simp] theorem State.mapLaunch_shadows (n : Nat) (f : Launch → Launch) : (s.mapLaunch n f).shadows = s.shadows := rfl
@[simp] theorem State.mapLaunch_colls (n : Nat) (f : Launch → Launch) : (s.mapLaunch n f).colls = s.colls := rfl
@[simp] theorem State.mapLaunch_collNo (n : Nat) (f : Launch → Launch) : (s.mapLaunch n f).collNo = s.collNo := rfl
@[simp] theorem State.mapLaunch_collCount (n : Nat) (f : Launch → Launch) : (s.mapLaunch n f).collCount = s.collCount := rfl
@[simp] theorem State.mapLaunch_sysNo (n : Nat) (f : Launch → Launch) : (s.mapLaunch n f).sysNo = s.sysNo := rfl
@[simp] theorem State.mapLaunch_aborts (n : Nat) (f : Launch → Launch) : (s.mapLaunch n f).aborts = s.aborts := rfl
@[simp] theorem State.mapLaunch_ops (n : Nat) (f : Launch → Launch) : (s.mapLaunch n f).ops = s.ops := rfl
@[simp] theorem State.mapLaunch_freed (n : Nat) (f : Launch → Launch) : (s.mapLaunch n f).freed = s.freed := rfl
@[simp] theorem State.mapLaunch_fires (n : Nat) (f : Launch → Launch) : (s.mapLaunch n f).fires = s.fires := rfl
@[simp] theorem State.mapLaunch_vds (n : Nat) (f : Launch → Launch) : (s.mapLaunch n f).vds = s.vds := rfl
@[simp] theorem State.mapLaunch_parts (n : Nat) (f : Launch → Launch) : (s.mapLaunch n f).parts = s.parts := rfl
@[simp] theorem State.mapLaunch_queues (n : Nat) (f : Launch → Launch) : (s.mapLaunch n f).queues = s.queues := rfl
@[simp] theorem State.mapLaunch_keys (n : Nat) (f : Launch → Launch) : (s.mapLaunch n f).keys = s.keys := rfl
@[simp] theorem State.mapLaunch_clusters (n : Nat) (f : Launch → Launch) : (s.mapLaunch n f).clusters = s.clusters := rfl
@[simp] theorem State.mapLaunch_arb (n : Nat) (f : Launch → Launch) : (s.mapLaunch n f).arb = s.arb := rfl
@[simp] theorem State.mapLaunch_fab (n : Nat) (f : Launch → Launch) : (s.mapLaunch n f).fab = s.fab := rfl
@[simp] theorem State.mapLaunch_mgmt (n : Nat) (f : Launch → Launch) : (s.mapLaunch n f).mgmt = s.mgmt := rfl
@[simp] theorem State.mapLaunch_plat (n : Nat) (f : Launch → Launch) : (s.mapLaunch n f).plat = s.plat := rfl
@[simp] theorem State.mapLaunch_cycle (n : Nat) (f : Launch → Launch) : (s.mapLaunch n f).cycle = s.cycle := rfl
@[simp] theorem State.mapLaunch_agenda (n : Nat) (f : Launch → Launch) : (s.mapLaunch n f).agenda = s.agenda := rfl
@[simp] theorem State.mapLaunch_ev (n : Nat) (f : Launch → Launch) : (s.mapLaunch n f).ev = s.ev := rfl
@[simp] theorem State.mapLaunch_sel (n : Nat) (f : Launch → Launch) : (s.mapLaunch n f).sel = s.sel := rfl
@[simp] theorem State.mapLaunch_issue (n : Nat) (f : Launch → Launch) : (s.mapLaunch n f).issue = s.issue := rfl
@[simp] theorem State.mapLaunch_nextId (n : Nat) (f : Launch → Launch) : (s.mapLaunch n f).nextId = s.nextId := rfl
@[simp] theorem State.mapLaunch_freeCtr (n : Nat) (f : Launch → Launch) : (s.mapLaunch n f).freeCtr = s.freeCtr := rfl

/-! ## mapAcc -/

@[simp] theorem State.mapAcc_waves (n : Nat) (f : Access → Access) : (s.mapAcc n f).waves = s.waves := rfl
@[simp] theorem State.mapAcc_blocks (n : Nat) (f : Access → Access) : (s.mapAcc n f).blocks = s.blocks := rfl
@[simp] theorem State.mapAcc_launches (n : Nat) (f : Access → Access) : (s.mapAcc n f).launches = s.launches := rfl
@[simp] theorem State.mapAcc_mem (n : Nat) (f : Access → Access) : (s.mapAcc n f).mem = s.mem := rfl
@[simp] theorem State.mapAcc_caches (n : Nat) (f : Access → Access) : (s.mapAcc n f).caches = s.caches := rfl
@[simp] theorem State.mapAcc_l2 (n : Nat) (f : Access → Access) : (s.mapAcc n f).l2 = s.l2 := rfl
@[simp] theorem State.mapAcc_ways (n : Nat) (f : Access → Access) : (s.mapAcc n f).ways = s.ways := rfl
@[simp] theorem State.mapAcc_pins (n : Nat) (f : Access → Access) : (s.mapAcc n f).pins = s.pins := rfl
@[simp] theorem State.mapAcc_refusals (n : Nat) (f : Access → Access) : (s.mapAcc n f).refusals = s.refusals := rfl
@[simp] theorem State.mapAcc_sysCache (n : Nat) (f : Access → Access) : (s.mapAcc n f).sysCache = s.sysCache := rfl
@[simp] theorem State.mapAcc_badLines (n : Nat) (f : Access → Access) : (s.mapAcc n f).badLines = s.badLines := rfl
@[simp] theorem State.mapAcc_tlb (n : Nat) (f : Access → Access) : (s.mapAcc n f).tlb = s.tlb := rfl
@[simp] theorem State.mapAcc_wcache (n : Nat) (f : Access → Access) : (s.mapAcc n f).wcache = s.wcache := rfl
@[simp] theorem State.mapAcc_walks (n : Nat) (f : Access → Access) : (s.mapAcc n f).walks = s.walks := rfl
@[simp] theorem State.mapAcc_faults (n : Nat) (f : Access → Access) : (s.mapAcc n f).faults = s.faults := rfl
@[simp] theorem State.mapAcc_faultSeq (n : Nat) (f : Access → Access) : (s.mapAcc n f).faultSeq = s.faultSeq := rfl
@[simp] theorem State.mapAcc_accs (n : Nat) (f : Access → Access) : (s.mapAcc n f).accs = mapIf (fun a => a.id == n) f s.accs := rfl
@[simp] theorem State.mapAcc_cmds (n : Nat) (f : Access → Access) : (s.mapAcc n f).cmds = s.cmds := rfl
@[simp] theorem State.mapAcc_shadows (n : Nat) (f : Access → Access) : (s.mapAcc n f).shadows = s.shadows := rfl
@[simp] theorem State.mapAcc_colls (n : Nat) (f : Access → Access) : (s.mapAcc n f).colls = s.colls := rfl
@[simp] theorem State.mapAcc_collNo (n : Nat) (f : Access → Access) : (s.mapAcc n f).collNo = s.collNo := rfl
@[simp] theorem State.mapAcc_collCount (n : Nat) (f : Access → Access) : (s.mapAcc n f).collCount = s.collCount := rfl
@[simp] theorem State.mapAcc_sysNo (n : Nat) (f : Access → Access) : (s.mapAcc n f).sysNo = s.sysNo := rfl
@[simp] theorem State.mapAcc_aborts (n : Nat) (f : Access → Access) : (s.mapAcc n f).aborts = s.aborts := rfl
@[simp] theorem State.mapAcc_ops (n : Nat) (f : Access → Access) : (s.mapAcc n f).ops = s.ops := rfl
@[simp] theorem State.mapAcc_freed (n : Nat) (f : Access → Access) : (s.mapAcc n f).freed = s.freed := rfl
@[simp] theorem State.mapAcc_fires (n : Nat) (f : Access → Access) : (s.mapAcc n f).fires = s.fires := rfl
@[simp] theorem State.mapAcc_vds (n : Nat) (f : Access → Access) : (s.mapAcc n f).vds = s.vds := rfl
@[simp] theorem State.mapAcc_parts (n : Nat) (f : Access → Access) : (s.mapAcc n f).parts = s.parts := rfl
@[simp] theorem State.mapAcc_queues (n : Nat) (f : Access → Access) : (s.mapAcc n f).queues = s.queues := rfl
@[simp] theorem State.mapAcc_keys (n : Nat) (f : Access → Access) : (s.mapAcc n f).keys = s.keys := rfl
@[simp] theorem State.mapAcc_clusters (n : Nat) (f : Access → Access) : (s.mapAcc n f).clusters = s.clusters := rfl
@[simp] theorem State.mapAcc_arb (n : Nat) (f : Access → Access) : (s.mapAcc n f).arb = s.arb := rfl
@[simp] theorem State.mapAcc_fab (n : Nat) (f : Access → Access) : (s.mapAcc n f).fab = s.fab := rfl
@[simp] theorem State.mapAcc_mgmt (n : Nat) (f : Access → Access) : (s.mapAcc n f).mgmt = s.mgmt := rfl
@[simp] theorem State.mapAcc_plat (n : Nat) (f : Access → Access) : (s.mapAcc n f).plat = s.plat := rfl
@[simp] theorem State.mapAcc_cycle (n : Nat) (f : Access → Access) : (s.mapAcc n f).cycle = s.cycle := rfl
@[simp] theorem State.mapAcc_agenda (n : Nat) (f : Access → Access) : (s.mapAcc n f).agenda = s.agenda := rfl
@[simp] theorem State.mapAcc_ev (n : Nat) (f : Access → Access) : (s.mapAcc n f).ev = s.ev := rfl
@[simp] theorem State.mapAcc_sel (n : Nat) (f : Access → Access) : (s.mapAcc n f).sel = s.sel := rfl
@[simp] theorem State.mapAcc_issue (n : Nat) (f : Access → Access) : (s.mapAcc n f).issue = s.issue := rfl
@[simp] theorem State.mapAcc_nextId (n : Nat) (f : Access → Access) : (s.mapAcc n f).nextId = s.nextId := rfl
@[simp] theorem State.mapAcc_freeCtr (n : Nat) (f : Access → Access) : (s.mapAcc n f).freeCtr = s.freeCtr := rfl

/-! ## dropAcc -/

@[simp] theorem State.dropAcc_waves (n : Nat) : (s.dropAcc n).waves = s.waves := rfl
@[simp] theorem State.dropAcc_blocks (n : Nat) : (s.dropAcc n).blocks = s.blocks := rfl
@[simp] theorem State.dropAcc_launches (n : Nat) : (s.dropAcc n).launches = s.launches := rfl
@[simp] theorem State.dropAcc_mem (n : Nat) : (s.dropAcc n).mem = s.mem := rfl
@[simp] theorem State.dropAcc_caches (n : Nat) : (s.dropAcc n).caches = s.caches := rfl
@[simp] theorem State.dropAcc_l2 (n : Nat) : (s.dropAcc n).l2 = s.l2 := rfl
@[simp] theorem State.dropAcc_ways (n : Nat) : (s.dropAcc n).ways = s.ways := rfl
@[simp] theorem State.dropAcc_pins (n : Nat) : (s.dropAcc n).pins = s.pins := rfl
@[simp] theorem State.dropAcc_refusals (n : Nat) : (s.dropAcc n).refusals = s.refusals := rfl
@[simp] theorem State.dropAcc_sysCache (n : Nat) : (s.dropAcc n).sysCache = s.sysCache := rfl
@[simp] theorem State.dropAcc_badLines (n : Nat) : (s.dropAcc n).badLines = s.badLines := rfl
@[simp] theorem State.dropAcc_tlb (n : Nat) : (s.dropAcc n).tlb = s.tlb := rfl
@[simp] theorem State.dropAcc_wcache (n : Nat) : (s.dropAcc n).wcache = s.wcache := rfl
@[simp] theorem State.dropAcc_walks (n : Nat) : (s.dropAcc n).walks = s.walks := rfl
@[simp] theorem State.dropAcc_faults (n : Nat) : (s.dropAcc n).faults = s.faults := rfl
@[simp] theorem State.dropAcc_faultSeq (n : Nat) : (s.dropAcc n).faultSeq = s.faultSeq := rfl
@[simp] theorem State.dropAcc_accs (n : Nat) : (s.dropAcc n).accs = s.accs.filter fun a => a.id != n := rfl
@[simp] theorem State.dropAcc_cmds (n : Nat) : (s.dropAcc n).cmds = s.cmds := rfl
@[simp] theorem State.dropAcc_shadows (n : Nat) : (s.dropAcc n).shadows = s.shadows := rfl
@[simp] theorem State.dropAcc_colls (n : Nat) : (s.dropAcc n).colls = s.colls := rfl
@[simp] theorem State.dropAcc_collNo (n : Nat) : (s.dropAcc n).collNo = s.collNo := rfl
@[simp] theorem State.dropAcc_collCount (n : Nat) : (s.dropAcc n).collCount = s.collCount := rfl
@[simp] theorem State.dropAcc_sysNo (n : Nat) : (s.dropAcc n).sysNo = s.sysNo := rfl
@[simp] theorem State.dropAcc_aborts (n : Nat) : (s.dropAcc n).aborts = s.aborts := rfl
@[simp] theorem State.dropAcc_ops (n : Nat) : (s.dropAcc n).ops = s.ops := rfl
@[simp] theorem State.dropAcc_freed (n : Nat) : (s.dropAcc n).freed = s.freed := rfl
@[simp] theorem State.dropAcc_fires (n : Nat) : (s.dropAcc n).fires = s.fires := rfl
@[simp] theorem State.dropAcc_vds (n : Nat) : (s.dropAcc n).vds = s.vds := rfl
@[simp] theorem State.dropAcc_parts (n : Nat) : (s.dropAcc n).parts = s.parts := rfl
@[simp] theorem State.dropAcc_queues (n : Nat) : (s.dropAcc n).queues = s.queues := rfl
@[simp] theorem State.dropAcc_keys (n : Nat) : (s.dropAcc n).keys = s.keys := rfl
@[simp] theorem State.dropAcc_clusters (n : Nat) : (s.dropAcc n).clusters = s.clusters := rfl
@[simp] theorem State.dropAcc_arb (n : Nat) : (s.dropAcc n).arb = s.arb := rfl
@[simp] theorem State.dropAcc_fab (n : Nat) : (s.dropAcc n).fab = s.fab := rfl
@[simp] theorem State.dropAcc_mgmt (n : Nat) : (s.dropAcc n).mgmt = s.mgmt := rfl
@[simp] theorem State.dropAcc_plat (n : Nat) : (s.dropAcc n).plat = s.plat := rfl
@[simp] theorem State.dropAcc_cycle (n : Nat) : (s.dropAcc n).cycle = s.cycle := rfl
@[simp] theorem State.dropAcc_agenda (n : Nat) : (s.dropAcc n).agenda = s.agenda := rfl
@[simp] theorem State.dropAcc_ev (n : Nat) : (s.dropAcc n).ev = s.ev := rfl
@[simp] theorem State.dropAcc_sel (n : Nat) : (s.dropAcc n).sel = s.sel := rfl
@[simp] theorem State.dropAcc_issue (n : Nat) : (s.dropAcc n).issue = s.issue := rfl
@[simp] theorem State.dropAcc_nextId (n : Nat) : (s.dropAcc n).nextId = s.nextId := rfl
@[simp] theorem State.dropAcc_freeCtr (n : Nat) : (s.dropAcc n).freeCtr = s.freeCtr := rfl

/-! ## mapCmd -/

@[simp] theorem State.mapCmd_waves (n : Nat) (f : Cmd → Cmd) : (s.mapCmd n f).waves = s.waves := rfl
@[simp] theorem State.mapCmd_blocks (n : Nat) (f : Cmd → Cmd) : (s.mapCmd n f).blocks = s.blocks := rfl
@[simp] theorem State.mapCmd_launches (n : Nat) (f : Cmd → Cmd) : (s.mapCmd n f).launches = s.launches := rfl
@[simp] theorem State.mapCmd_mem (n : Nat) (f : Cmd → Cmd) : (s.mapCmd n f).mem = s.mem := rfl
@[simp] theorem State.mapCmd_caches (n : Nat) (f : Cmd → Cmd) : (s.mapCmd n f).caches = s.caches := rfl
@[simp] theorem State.mapCmd_l2 (n : Nat) (f : Cmd → Cmd) : (s.mapCmd n f).l2 = s.l2 := rfl
@[simp] theorem State.mapCmd_ways (n : Nat) (f : Cmd → Cmd) : (s.mapCmd n f).ways = s.ways := rfl
@[simp] theorem State.mapCmd_pins (n : Nat) (f : Cmd → Cmd) : (s.mapCmd n f).pins = s.pins := rfl
@[simp] theorem State.mapCmd_refusals (n : Nat) (f : Cmd → Cmd) : (s.mapCmd n f).refusals = s.refusals := rfl
@[simp] theorem State.mapCmd_sysCache (n : Nat) (f : Cmd → Cmd) : (s.mapCmd n f).sysCache = s.sysCache := rfl
@[simp] theorem State.mapCmd_badLines (n : Nat) (f : Cmd → Cmd) : (s.mapCmd n f).badLines = s.badLines := rfl
@[simp] theorem State.mapCmd_tlb (n : Nat) (f : Cmd → Cmd) : (s.mapCmd n f).tlb = s.tlb := rfl
@[simp] theorem State.mapCmd_wcache (n : Nat) (f : Cmd → Cmd) : (s.mapCmd n f).wcache = s.wcache := rfl
@[simp] theorem State.mapCmd_walks (n : Nat) (f : Cmd → Cmd) : (s.mapCmd n f).walks = s.walks := rfl
@[simp] theorem State.mapCmd_faults (n : Nat) (f : Cmd → Cmd) : (s.mapCmd n f).faults = s.faults := rfl
@[simp] theorem State.mapCmd_faultSeq (n : Nat) (f : Cmd → Cmd) : (s.mapCmd n f).faultSeq = s.faultSeq := rfl
@[simp] theorem State.mapCmd_accs (n : Nat) (f : Cmd → Cmd) : (s.mapCmd n f).accs = s.accs := rfl
@[simp] theorem State.mapCmd_cmds (n : Nat) (f : Cmd → Cmd) : (s.mapCmd n f).cmds = mapIf (fun c => c.id == n) f s.cmds := rfl
@[simp] theorem State.mapCmd_shadows (n : Nat) (f : Cmd → Cmd) : (s.mapCmd n f).shadows = s.shadows := rfl
@[simp] theorem State.mapCmd_colls (n : Nat) (f : Cmd → Cmd) : (s.mapCmd n f).colls = s.colls := rfl
@[simp] theorem State.mapCmd_collNo (n : Nat) (f : Cmd → Cmd) : (s.mapCmd n f).collNo = s.collNo := rfl
@[simp] theorem State.mapCmd_collCount (n : Nat) (f : Cmd → Cmd) : (s.mapCmd n f).collCount = s.collCount := rfl
@[simp] theorem State.mapCmd_sysNo (n : Nat) (f : Cmd → Cmd) : (s.mapCmd n f).sysNo = s.sysNo := rfl
@[simp] theorem State.mapCmd_aborts (n : Nat) (f : Cmd → Cmd) : (s.mapCmd n f).aborts = s.aborts := rfl
@[simp] theorem State.mapCmd_ops (n : Nat) (f : Cmd → Cmd) : (s.mapCmd n f).ops = s.ops := rfl
@[simp] theorem State.mapCmd_freed (n : Nat) (f : Cmd → Cmd) : (s.mapCmd n f).freed = s.freed := rfl
@[simp] theorem State.mapCmd_fires (n : Nat) (f : Cmd → Cmd) : (s.mapCmd n f).fires = s.fires := rfl
@[simp] theorem State.mapCmd_vds (n : Nat) (f : Cmd → Cmd) : (s.mapCmd n f).vds = s.vds := rfl
@[simp] theorem State.mapCmd_parts (n : Nat) (f : Cmd → Cmd) : (s.mapCmd n f).parts = s.parts := rfl
@[simp] theorem State.mapCmd_queues (n : Nat) (f : Cmd → Cmd) : (s.mapCmd n f).queues = s.queues := rfl
@[simp] theorem State.mapCmd_keys (n : Nat) (f : Cmd → Cmd) : (s.mapCmd n f).keys = s.keys := rfl
@[simp] theorem State.mapCmd_clusters (n : Nat) (f : Cmd → Cmd) : (s.mapCmd n f).clusters = s.clusters := rfl
@[simp] theorem State.mapCmd_arb (n : Nat) (f : Cmd → Cmd) : (s.mapCmd n f).arb = s.arb := rfl
@[simp] theorem State.mapCmd_fab (n : Nat) (f : Cmd → Cmd) : (s.mapCmd n f).fab = s.fab := rfl
@[simp] theorem State.mapCmd_mgmt (n : Nat) (f : Cmd → Cmd) : (s.mapCmd n f).mgmt = s.mgmt := rfl
@[simp] theorem State.mapCmd_plat (n : Nat) (f : Cmd → Cmd) : (s.mapCmd n f).plat = s.plat := rfl
@[simp] theorem State.mapCmd_cycle (n : Nat) (f : Cmd → Cmd) : (s.mapCmd n f).cycle = s.cycle := rfl
@[simp] theorem State.mapCmd_agenda (n : Nat) (f : Cmd → Cmd) : (s.mapCmd n f).agenda = s.agenda := rfl
@[simp] theorem State.mapCmd_ev (n : Nat) (f : Cmd → Cmd) : (s.mapCmd n f).ev = s.ev := rfl
@[simp] theorem State.mapCmd_sel (n : Nat) (f : Cmd → Cmd) : (s.mapCmd n f).sel = s.sel := rfl
@[simp] theorem State.mapCmd_issue (n : Nat) (f : Cmd → Cmd) : (s.mapCmd n f).issue = s.issue := rfl
@[simp] theorem State.mapCmd_nextId (n : Nat) (f : Cmd → Cmd) : (s.mapCmd n f).nextId = s.nextId := rfl
@[simp] theorem State.mapCmd_freeCtr (n : Nat) (f : Cmd → Cmd) : (s.mapCmd n f).freeCtr = s.freeCtr := rfl

/-! ## dropCmd -/

@[simp] theorem State.dropCmd_waves (n : Nat) : (s.dropCmd n).waves = s.waves := rfl
@[simp] theorem State.dropCmd_blocks (n : Nat) : (s.dropCmd n).blocks = s.blocks := rfl
@[simp] theorem State.dropCmd_launches (n : Nat) : (s.dropCmd n).launches = s.launches := rfl
@[simp] theorem State.dropCmd_mem (n : Nat) : (s.dropCmd n).mem = s.mem := rfl
@[simp] theorem State.dropCmd_caches (n : Nat) : (s.dropCmd n).caches = s.caches := rfl
@[simp] theorem State.dropCmd_l2 (n : Nat) : (s.dropCmd n).l2 = s.l2 := rfl
@[simp] theorem State.dropCmd_ways (n : Nat) : (s.dropCmd n).ways = s.ways := rfl
@[simp] theorem State.dropCmd_pins (n : Nat) : (s.dropCmd n).pins = s.pins.filter fun x => x.1 != n := rfl
@[simp] theorem State.dropCmd_refusals (n : Nat) : (s.dropCmd n).refusals = s.refusals := rfl
@[simp] theorem State.dropCmd_sysCache (n : Nat) : (s.dropCmd n).sysCache = s.sysCache := rfl
@[simp] theorem State.dropCmd_badLines (n : Nat) : (s.dropCmd n).badLines = s.badLines := rfl
@[simp] theorem State.dropCmd_tlb (n : Nat) : (s.dropCmd n).tlb = s.tlb := rfl
@[simp] theorem State.dropCmd_wcache (n : Nat) : (s.dropCmd n).wcache = s.wcache := rfl
@[simp] theorem State.dropCmd_walks (n : Nat) : (s.dropCmd n).walks = s.walks := rfl
@[simp] theorem State.dropCmd_faults (n : Nat) : (s.dropCmd n).faults = s.faults := rfl
@[simp] theorem State.dropCmd_faultSeq (n : Nat) : (s.dropCmd n).faultSeq = s.faultSeq := rfl
@[simp] theorem State.dropCmd_accs (n : Nat) : (s.dropCmd n).accs = s.accs := rfl
@[simp] theorem State.dropCmd_cmds (n : Nat) : (s.dropCmd n).cmds = s.cmds.filter fun c => c.id != n := rfl
@[simp] theorem State.dropCmd_shadows (n : Nat) : (s.dropCmd n).shadows = s.shadows := rfl
@[simp] theorem State.dropCmd_colls (n : Nat) : (s.dropCmd n).colls = s.colls := rfl
@[simp] theorem State.dropCmd_collNo (n : Nat) : (s.dropCmd n).collNo = s.collNo := rfl
@[simp] theorem State.dropCmd_collCount (n : Nat) : (s.dropCmd n).collCount = s.collCount := rfl
@[simp] theorem State.dropCmd_sysNo (n : Nat) : (s.dropCmd n).sysNo = s.sysNo := rfl
@[simp] theorem State.dropCmd_aborts (n : Nat) : (s.dropCmd n).aborts = s.aborts := rfl
@[simp] theorem State.dropCmd_ops (n : Nat) : (s.dropCmd n).ops = s.ops := rfl
@[simp] theorem State.dropCmd_freed (n : Nat) : (s.dropCmd n).freed = s.freed := rfl
@[simp] theorem State.dropCmd_fires (n : Nat) : (s.dropCmd n).fires = s.fires := rfl
@[simp] theorem State.dropCmd_vds (n : Nat) : (s.dropCmd n).vds = s.vds := rfl
@[simp] theorem State.dropCmd_parts (n : Nat) : (s.dropCmd n).parts = s.parts := rfl
@[simp] theorem State.dropCmd_queues (n : Nat) : (s.dropCmd n).queues = s.queues := rfl
@[simp] theorem State.dropCmd_keys (n : Nat) : (s.dropCmd n).keys = s.keys := rfl
@[simp] theorem State.dropCmd_clusters (n : Nat) : (s.dropCmd n).clusters = s.clusters := rfl
@[simp] theorem State.dropCmd_arb (n : Nat) : (s.dropCmd n).arb = s.arb := rfl
@[simp] theorem State.dropCmd_fab (n : Nat) : (s.dropCmd n).fab = s.fab := rfl
@[simp] theorem State.dropCmd_mgmt (n : Nat) : (s.dropCmd n).mgmt = s.mgmt := rfl
@[simp] theorem State.dropCmd_plat (n : Nat) : (s.dropCmd n).plat = s.plat := rfl
@[simp] theorem State.dropCmd_cycle (n : Nat) : (s.dropCmd n).cycle = s.cycle := rfl
@[simp] theorem State.dropCmd_agenda (n : Nat) : (s.dropCmd n).agenda = s.agenda := rfl
@[simp] theorem State.dropCmd_ev (n : Nat) : (s.dropCmd n).ev = s.ev := rfl
@[simp] theorem State.dropCmd_sel (n : Nat) : (s.dropCmd n).sel = s.sel := rfl
@[simp] theorem State.dropCmd_issue (n : Nat) : (s.dropCmd n).issue = s.issue := rfl
@[simp] theorem State.dropCmd_nextId (n : Nat) : (s.dropCmd n).nextId = s.nextId := rfl
@[simp] theorem State.dropCmd_freeCtr (n : Nat) : (s.dropCmd n).freeCtr = s.freeCtr := rfl

/-! ## mapVd -/

@[simp] theorem State.mapVd_waves (n : Nat) (f : VD → VD) : (s.mapVd n f).waves = s.waves := rfl
@[simp] theorem State.mapVd_blocks (n : Nat) (f : VD → VD) : (s.mapVd n f).blocks = s.blocks := rfl
@[simp] theorem State.mapVd_launches (n : Nat) (f : VD → VD) : (s.mapVd n f).launches = s.launches := rfl
@[simp] theorem State.mapVd_mem (n : Nat) (f : VD → VD) : (s.mapVd n f).mem = s.mem := rfl
@[simp] theorem State.mapVd_caches (n : Nat) (f : VD → VD) : (s.mapVd n f).caches = s.caches := rfl
@[simp] theorem State.mapVd_l2 (n : Nat) (f : VD → VD) : (s.mapVd n f).l2 = s.l2 := rfl
@[simp] theorem State.mapVd_ways (n : Nat) (f : VD → VD) : (s.mapVd n f).ways = s.ways := rfl
@[simp] theorem State.mapVd_pins (n : Nat) (f : VD → VD) : (s.mapVd n f).pins = s.pins := rfl
@[simp] theorem State.mapVd_refusals (n : Nat) (f : VD → VD) : (s.mapVd n f).refusals = s.refusals := rfl
@[simp] theorem State.mapVd_sysCache (n : Nat) (f : VD → VD) : (s.mapVd n f).sysCache = s.sysCache := rfl
@[simp] theorem State.mapVd_badLines (n : Nat) (f : VD → VD) : (s.mapVd n f).badLines = s.badLines := rfl
@[simp] theorem State.mapVd_tlb (n : Nat) (f : VD → VD) : (s.mapVd n f).tlb = s.tlb := rfl
@[simp] theorem State.mapVd_wcache (n : Nat) (f : VD → VD) : (s.mapVd n f).wcache = s.wcache := rfl
@[simp] theorem State.mapVd_walks (n : Nat) (f : VD → VD) : (s.mapVd n f).walks = s.walks := rfl
@[simp] theorem State.mapVd_faults (n : Nat) (f : VD → VD) : (s.mapVd n f).faults = s.faults := rfl
@[simp] theorem State.mapVd_faultSeq (n : Nat) (f : VD → VD) : (s.mapVd n f).faultSeq = s.faultSeq := rfl
@[simp] theorem State.mapVd_accs (n : Nat) (f : VD → VD) : (s.mapVd n f).accs = s.accs := rfl
@[simp] theorem State.mapVd_cmds (n : Nat) (f : VD → VD) : (s.mapVd n f).cmds = s.cmds := rfl
@[simp] theorem State.mapVd_shadows (n : Nat) (f : VD → VD) : (s.mapVd n f).shadows = s.shadows := rfl
@[simp] theorem State.mapVd_colls (n : Nat) (f : VD → VD) : (s.mapVd n f).colls = s.colls := rfl
@[simp] theorem State.mapVd_collNo (n : Nat) (f : VD → VD) : (s.mapVd n f).collNo = s.collNo := rfl
@[simp] theorem State.mapVd_collCount (n : Nat) (f : VD → VD) : (s.mapVd n f).collCount = s.collCount := rfl
@[simp] theorem State.mapVd_sysNo (n : Nat) (f : VD → VD) : (s.mapVd n f).sysNo = s.sysNo := rfl
@[simp] theorem State.mapVd_aborts (n : Nat) (f : VD → VD) : (s.mapVd n f).aborts = s.aborts := rfl
@[simp] theorem State.mapVd_ops (n : Nat) (f : VD → VD) : (s.mapVd n f).ops = s.ops := rfl
@[simp] theorem State.mapVd_freed (n : Nat) (f : VD → VD) : (s.mapVd n f).freed = s.freed := rfl
@[simp] theorem State.mapVd_fires (n : Nat) (f : VD → VD) : (s.mapVd n f).fires = s.fires := rfl
@[simp] theorem State.mapVd_vds (n : Nat) (f : VD → VD) : (s.mapVd n f).vds = s.vds.set! n (f (s.vd n)) := rfl
@[simp] theorem State.mapVd_parts (n : Nat) (f : VD → VD) : (s.mapVd n f).parts = s.parts := rfl
@[simp] theorem State.mapVd_queues (n : Nat) (f : VD → VD) : (s.mapVd n f).queues = s.queues := rfl
@[simp] theorem State.mapVd_keys (n : Nat) (f : VD → VD) : (s.mapVd n f).keys = s.keys := rfl
@[simp] theorem State.mapVd_clusters (n : Nat) (f : VD → VD) : (s.mapVd n f).clusters = s.clusters := rfl
@[simp] theorem State.mapVd_arb (n : Nat) (f : VD → VD) : (s.mapVd n f).arb = s.arb := rfl
@[simp] theorem State.mapVd_fab (n : Nat) (f : VD → VD) : (s.mapVd n f).fab = s.fab := rfl
@[simp] theorem State.mapVd_mgmt (n : Nat) (f : VD → VD) : (s.mapVd n f).mgmt = s.mgmt := rfl
@[simp] theorem State.mapVd_plat (n : Nat) (f : VD → VD) : (s.mapVd n f).plat = s.plat := rfl
@[simp] theorem State.mapVd_cycle (n : Nat) (f : VD → VD) : (s.mapVd n f).cycle = s.cycle := rfl
@[simp] theorem State.mapVd_agenda (n : Nat) (f : VD → VD) : (s.mapVd n f).agenda = s.agenda := rfl
@[simp] theorem State.mapVd_ev (n : Nat) (f : VD → VD) : (s.mapVd n f).ev = s.ev := rfl
@[simp] theorem State.mapVd_sel (n : Nat) (f : VD → VD) : (s.mapVd n f).sel = s.sel := rfl
@[simp] theorem State.mapVd_issue (n : Nat) (f : VD → VD) : (s.mapVd n f).issue = s.issue := rfl
@[simp] theorem State.mapVd_nextId (n : Nat) (f : VD → VD) : (s.mapVd n f).nextId = s.nextId := rfl
@[simp] theorem State.mapVd_freeCtr (n : Nat) (f : VD → VD) : (s.mapVd n f).freeCtr = s.freeCtr := rfl

/-! ## mapPart -/

@[simp] theorem State.mapPart_waves (n : Nat) (f : Partition → Partition) : (s.mapPart n f).waves = s.waves := rfl
@[simp] theorem State.mapPart_blocks (n : Nat) (f : Partition → Partition) : (s.mapPart n f).blocks = s.blocks := rfl
@[simp] theorem State.mapPart_launches (n : Nat) (f : Partition → Partition) : (s.mapPart n f).launches = s.launches := rfl
@[simp] theorem State.mapPart_mem (n : Nat) (f : Partition → Partition) : (s.mapPart n f).mem = s.mem := rfl
@[simp] theorem State.mapPart_caches (n : Nat) (f : Partition → Partition) : (s.mapPart n f).caches = s.caches := rfl
@[simp] theorem State.mapPart_l2 (n : Nat) (f : Partition → Partition) : (s.mapPart n f).l2 = s.l2 := rfl
@[simp] theorem State.mapPart_ways (n : Nat) (f : Partition → Partition) : (s.mapPart n f).ways = s.ways := rfl
@[simp] theorem State.mapPart_pins (n : Nat) (f : Partition → Partition) : (s.mapPart n f).pins = s.pins := rfl
@[simp] theorem State.mapPart_refusals (n : Nat) (f : Partition → Partition) : (s.mapPart n f).refusals = s.refusals := rfl
@[simp] theorem State.mapPart_sysCache (n : Nat) (f : Partition → Partition) : (s.mapPart n f).sysCache = s.sysCache := rfl
@[simp] theorem State.mapPart_badLines (n : Nat) (f : Partition → Partition) : (s.mapPart n f).badLines = s.badLines := rfl
@[simp] theorem State.mapPart_tlb (n : Nat) (f : Partition → Partition) : (s.mapPart n f).tlb = s.tlb := rfl
@[simp] theorem State.mapPart_wcache (n : Nat) (f : Partition → Partition) : (s.mapPart n f).wcache = s.wcache := rfl
@[simp] theorem State.mapPart_walks (n : Nat) (f : Partition → Partition) : (s.mapPart n f).walks = s.walks := rfl
@[simp] theorem State.mapPart_faults (n : Nat) (f : Partition → Partition) : (s.mapPart n f).faults = s.faults := rfl
@[simp] theorem State.mapPart_faultSeq (n : Nat) (f : Partition → Partition) : (s.mapPart n f).faultSeq = s.faultSeq := rfl
@[simp] theorem State.mapPart_accs (n : Nat) (f : Partition → Partition) : (s.mapPart n f).accs = s.accs := rfl
@[simp] theorem State.mapPart_cmds (n : Nat) (f : Partition → Partition) : (s.mapPart n f).cmds = s.cmds := rfl
@[simp] theorem State.mapPart_shadows (n : Nat) (f : Partition → Partition) : (s.mapPart n f).shadows = s.shadows := rfl
@[simp] theorem State.mapPart_colls (n : Nat) (f : Partition → Partition) : (s.mapPart n f).colls = s.colls := rfl
@[simp] theorem State.mapPart_collNo (n : Nat) (f : Partition → Partition) : (s.mapPart n f).collNo = s.collNo := rfl
@[simp] theorem State.mapPart_collCount (n : Nat) (f : Partition → Partition) : (s.mapPart n f).collCount = s.collCount := rfl
@[simp] theorem State.mapPart_sysNo (n : Nat) (f : Partition → Partition) : (s.mapPart n f).sysNo = s.sysNo := rfl
@[simp] theorem State.mapPart_aborts (n : Nat) (f : Partition → Partition) : (s.mapPart n f).aborts = s.aborts := rfl
@[simp] theorem State.mapPart_ops (n : Nat) (f : Partition → Partition) : (s.mapPart n f).ops = s.ops := rfl
@[simp] theorem State.mapPart_freed (n : Nat) (f : Partition → Partition) : (s.mapPart n f).freed = s.freed := rfl
@[simp] theorem State.mapPart_fires (n : Nat) (f : Partition → Partition) : (s.mapPart n f).fires = s.fires := rfl
@[simp] theorem State.mapPart_vds (n : Nat) (f : Partition → Partition) : (s.mapPart n f).vds = s.vds := rfl
@[simp] theorem State.mapPart_parts (n : Nat) (f : Partition → Partition) : (s.mapPart n f).parts = s.parts.set! n (f (s.part n)) := rfl
@[simp] theorem State.mapPart_queues (n : Nat) (f : Partition → Partition) : (s.mapPart n f).queues = s.queues := rfl
@[simp] theorem State.mapPart_keys (n : Nat) (f : Partition → Partition) : (s.mapPart n f).keys = s.keys := rfl
@[simp] theorem State.mapPart_clusters (n : Nat) (f : Partition → Partition) : (s.mapPart n f).clusters = s.clusters := rfl
@[simp] theorem State.mapPart_arb (n : Nat) (f : Partition → Partition) : (s.mapPart n f).arb = s.arb := rfl
@[simp] theorem State.mapPart_fab (n : Nat) (f : Partition → Partition) : (s.mapPart n f).fab = s.fab := rfl
@[simp] theorem State.mapPart_mgmt (n : Nat) (f : Partition → Partition) : (s.mapPart n f).mgmt = s.mgmt := rfl
@[simp] theorem State.mapPart_plat (n : Nat) (f : Partition → Partition) : (s.mapPart n f).plat = s.plat := rfl
@[simp] theorem State.mapPart_cycle (n : Nat) (f : Partition → Partition) : (s.mapPart n f).cycle = s.cycle := rfl
@[simp] theorem State.mapPart_agenda (n : Nat) (f : Partition → Partition) : (s.mapPart n f).agenda = s.agenda := rfl
@[simp] theorem State.mapPart_ev (n : Nat) (f : Partition → Partition) : (s.mapPart n f).ev = s.ev := rfl
@[simp] theorem State.mapPart_sel (n : Nat) (f : Partition → Partition) : (s.mapPart n f).sel = s.sel := rfl
@[simp] theorem State.mapPart_issue (n : Nat) (f : Partition → Partition) : (s.mapPart n f).issue = s.issue := rfl
@[simp] theorem State.mapPart_nextId (n : Nat) (f : Partition → Partition) : (s.mapPart n f).nextId = s.nextId := rfl
@[simp] theorem State.mapPart_freeCtr (n : Nat) (f : Partition → Partition) : (s.mapPart n f).freeCtr = s.freeCtr := rfl

/-! ## mapQueue -/

@[simp] theorem State.mapQueue_waves (n : Nat) (f : SvcQueue → SvcQueue) : (s.mapQueue n f).waves = s.waves := rfl
@[simp] theorem State.mapQueue_blocks (n : Nat) (f : SvcQueue → SvcQueue) : (s.mapQueue n f).blocks = s.blocks := rfl
@[simp] theorem State.mapQueue_launches (n : Nat) (f : SvcQueue → SvcQueue) : (s.mapQueue n f).launches = s.launches := rfl
@[simp] theorem State.mapQueue_mem (n : Nat) (f : SvcQueue → SvcQueue) : (s.mapQueue n f).mem = s.mem := rfl
@[simp] theorem State.mapQueue_caches (n : Nat) (f : SvcQueue → SvcQueue) : (s.mapQueue n f).caches = s.caches := rfl
@[simp] theorem State.mapQueue_l2 (n : Nat) (f : SvcQueue → SvcQueue) : (s.mapQueue n f).l2 = s.l2 := rfl
@[simp] theorem State.mapQueue_ways (n : Nat) (f : SvcQueue → SvcQueue) : (s.mapQueue n f).ways = s.ways := rfl
@[simp] theorem State.mapQueue_pins (n : Nat) (f : SvcQueue → SvcQueue) : (s.mapQueue n f).pins = s.pins := rfl
@[simp] theorem State.mapQueue_refusals (n : Nat) (f : SvcQueue → SvcQueue) : (s.mapQueue n f).refusals = s.refusals := rfl
@[simp] theorem State.mapQueue_sysCache (n : Nat) (f : SvcQueue → SvcQueue) : (s.mapQueue n f).sysCache = s.sysCache := rfl
@[simp] theorem State.mapQueue_badLines (n : Nat) (f : SvcQueue → SvcQueue) : (s.mapQueue n f).badLines = s.badLines := rfl
@[simp] theorem State.mapQueue_tlb (n : Nat) (f : SvcQueue → SvcQueue) : (s.mapQueue n f).tlb = s.tlb := rfl
@[simp] theorem State.mapQueue_wcache (n : Nat) (f : SvcQueue → SvcQueue) : (s.mapQueue n f).wcache = s.wcache := rfl
@[simp] theorem State.mapQueue_walks (n : Nat) (f : SvcQueue → SvcQueue) : (s.mapQueue n f).walks = s.walks := rfl
@[simp] theorem State.mapQueue_faults (n : Nat) (f : SvcQueue → SvcQueue) : (s.mapQueue n f).faults = s.faults := rfl
@[simp] theorem State.mapQueue_faultSeq (n : Nat) (f : SvcQueue → SvcQueue) : (s.mapQueue n f).faultSeq = s.faultSeq := rfl
@[simp] theorem State.mapQueue_accs (n : Nat) (f : SvcQueue → SvcQueue) : (s.mapQueue n f).accs = s.accs := rfl
@[simp] theorem State.mapQueue_cmds (n : Nat) (f : SvcQueue → SvcQueue) : (s.mapQueue n f).cmds = s.cmds := rfl
@[simp] theorem State.mapQueue_shadows (n : Nat) (f : SvcQueue → SvcQueue) : (s.mapQueue n f).shadows = s.shadows := rfl
@[simp] theorem State.mapQueue_colls (n : Nat) (f : SvcQueue → SvcQueue) : (s.mapQueue n f).colls = s.colls := rfl
@[simp] theorem State.mapQueue_collNo (n : Nat) (f : SvcQueue → SvcQueue) : (s.mapQueue n f).collNo = s.collNo := rfl
@[simp] theorem State.mapQueue_collCount (n : Nat) (f : SvcQueue → SvcQueue) : (s.mapQueue n f).collCount = s.collCount := rfl
@[simp] theorem State.mapQueue_sysNo (n : Nat) (f : SvcQueue → SvcQueue) : (s.mapQueue n f).sysNo = s.sysNo := rfl
@[simp] theorem State.mapQueue_aborts (n : Nat) (f : SvcQueue → SvcQueue) : (s.mapQueue n f).aborts = s.aborts := rfl
@[simp] theorem State.mapQueue_ops (n : Nat) (f : SvcQueue → SvcQueue) : (s.mapQueue n f).ops = s.ops := rfl
@[simp] theorem State.mapQueue_freed (n : Nat) (f : SvcQueue → SvcQueue) : (s.mapQueue n f).freed = s.freed := rfl
@[simp] theorem State.mapQueue_fires (n : Nat) (f : SvcQueue → SvcQueue) : (s.mapQueue n f).fires = s.fires := rfl
@[simp] theorem State.mapQueue_vds (n : Nat) (f : SvcQueue → SvcQueue) : (s.mapQueue n f).vds = s.vds := rfl
@[simp] theorem State.mapQueue_parts (n : Nat) (f : SvcQueue → SvcQueue) : (s.mapQueue n f).parts = s.parts := rfl
@[simp] theorem State.mapQueue_queues (n : Nat) (f : SvcQueue → SvcQueue) : (s.mapQueue n f).queues = s.queues.set! n (f (s.queue n)) := rfl
@[simp] theorem State.mapQueue_keys (n : Nat) (f : SvcQueue → SvcQueue) : (s.mapQueue n f).keys = s.keys := rfl
@[simp] theorem State.mapQueue_clusters (n : Nat) (f : SvcQueue → SvcQueue) : (s.mapQueue n f).clusters = s.clusters := rfl
@[simp] theorem State.mapQueue_arb (n : Nat) (f : SvcQueue → SvcQueue) : (s.mapQueue n f).arb = s.arb := rfl
@[simp] theorem State.mapQueue_fab (n : Nat) (f : SvcQueue → SvcQueue) : (s.mapQueue n f).fab = s.fab := rfl
@[simp] theorem State.mapQueue_mgmt (n : Nat) (f : SvcQueue → SvcQueue) : (s.mapQueue n f).mgmt = s.mgmt := rfl
@[simp] theorem State.mapQueue_plat (n : Nat) (f : SvcQueue → SvcQueue) : (s.mapQueue n f).plat = s.plat := rfl
@[simp] theorem State.mapQueue_cycle (n : Nat) (f : SvcQueue → SvcQueue) : (s.mapQueue n f).cycle = s.cycle := rfl
@[simp] theorem State.mapQueue_agenda (n : Nat) (f : SvcQueue → SvcQueue) : (s.mapQueue n f).agenda = s.agenda := rfl
@[simp] theorem State.mapQueue_ev (n : Nat) (f : SvcQueue → SvcQueue) : (s.mapQueue n f).ev = s.ev := rfl
@[simp] theorem State.mapQueue_sel (n : Nat) (f : SvcQueue → SvcQueue) : (s.mapQueue n f).sel = s.sel := rfl
@[simp] theorem State.mapQueue_issue (n : Nat) (f : SvcQueue → SvcQueue) : (s.mapQueue n f).issue = s.issue := rfl
@[simp] theorem State.mapQueue_nextId (n : Nat) (f : SvcQueue → SvcQueue) : (s.mapQueue n f).nextId = s.nextId := rfl
@[simp] theorem State.mapQueue_freeCtr (n : Nat) (f : SvcQueue → SvcQueue) : (s.mapQueue n f).freeCtr = s.freeCtr := rfl

/-! ## mapCluster -/

@[simp] theorem State.mapCluster_waves (n : Nat) (f : Cluster → Cluster) : (s.mapCluster n f).waves = s.waves := rfl
@[simp] theorem State.mapCluster_blocks (n : Nat) (f : Cluster → Cluster) : (s.mapCluster n f).blocks = s.blocks := rfl
@[simp] theorem State.mapCluster_launches (n : Nat) (f : Cluster → Cluster) : (s.mapCluster n f).launches = s.launches := rfl
@[simp] theorem State.mapCluster_mem (n : Nat) (f : Cluster → Cluster) : (s.mapCluster n f).mem = s.mem := rfl
@[simp] theorem State.mapCluster_caches (n : Nat) (f : Cluster → Cluster) : (s.mapCluster n f).caches = s.caches := rfl
@[simp] theorem State.mapCluster_l2 (n : Nat) (f : Cluster → Cluster) : (s.mapCluster n f).l2 = s.l2 := rfl
@[simp] theorem State.mapCluster_ways (n : Nat) (f : Cluster → Cluster) : (s.mapCluster n f).ways = s.ways := rfl
@[simp] theorem State.mapCluster_pins (n : Nat) (f : Cluster → Cluster) : (s.mapCluster n f).pins = s.pins := rfl
@[simp] theorem State.mapCluster_refusals (n : Nat) (f : Cluster → Cluster) : (s.mapCluster n f).refusals = s.refusals := rfl
@[simp] theorem State.mapCluster_sysCache (n : Nat) (f : Cluster → Cluster) : (s.mapCluster n f).sysCache = s.sysCache := rfl
@[simp] theorem State.mapCluster_badLines (n : Nat) (f : Cluster → Cluster) : (s.mapCluster n f).badLines = s.badLines := rfl
@[simp] theorem State.mapCluster_tlb (n : Nat) (f : Cluster → Cluster) : (s.mapCluster n f).tlb = s.tlb := rfl
@[simp] theorem State.mapCluster_wcache (n : Nat) (f : Cluster → Cluster) : (s.mapCluster n f).wcache = s.wcache := rfl
@[simp] theorem State.mapCluster_walks (n : Nat) (f : Cluster → Cluster) : (s.mapCluster n f).walks = s.walks := rfl
@[simp] theorem State.mapCluster_faults (n : Nat) (f : Cluster → Cluster) : (s.mapCluster n f).faults = s.faults := rfl
@[simp] theorem State.mapCluster_faultSeq (n : Nat) (f : Cluster → Cluster) : (s.mapCluster n f).faultSeq = s.faultSeq := rfl
@[simp] theorem State.mapCluster_accs (n : Nat) (f : Cluster → Cluster) : (s.mapCluster n f).accs = s.accs := rfl
@[simp] theorem State.mapCluster_cmds (n : Nat) (f : Cluster → Cluster) : (s.mapCluster n f).cmds = s.cmds := rfl
@[simp] theorem State.mapCluster_shadows (n : Nat) (f : Cluster → Cluster) : (s.mapCluster n f).shadows = s.shadows := rfl
@[simp] theorem State.mapCluster_colls (n : Nat) (f : Cluster → Cluster) : (s.mapCluster n f).colls = s.colls := rfl
@[simp] theorem State.mapCluster_collNo (n : Nat) (f : Cluster → Cluster) : (s.mapCluster n f).collNo = s.collNo := rfl
@[simp] theorem State.mapCluster_collCount (n : Nat) (f : Cluster → Cluster) : (s.mapCluster n f).collCount = s.collCount := rfl
@[simp] theorem State.mapCluster_sysNo (n : Nat) (f : Cluster → Cluster) : (s.mapCluster n f).sysNo = s.sysNo := rfl
@[simp] theorem State.mapCluster_aborts (n : Nat) (f : Cluster → Cluster) : (s.mapCluster n f).aborts = s.aborts := rfl
@[simp] theorem State.mapCluster_ops (n : Nat) (f : Cluster → Cluster) : (s.mapCluster n f).ops = s.ops := rfl
@[simp] theorem State.mapCluster_freed (n : Nat) (f : Cluster → Cluster) : (s.mapCluster n f).freed = s.freed := rfl
@[simp] theorem State.mapCluster_fires (n : Nat) (f : Cluster → Cluster) : (s.mapCluster n f).fires = s.fires := rfl
@[simp] theorem State.mapCluster_vds (n : Nat) (f : Cluster → Cluster) : (s.mapCluster n f).vds = s.vds := rfl
@[simp] theorem State.mapCluster_parts (n : Nat) (f : Cluster → Cluster) : (s.mapCluster n f).parts = s.parts := rfl
@[simp] theorem State.mapCluster_queues (n : Nat) (f : Cluster → Cluster) : (s.mapCluster n f).queues = s.queues := rfl
@[simp] theorem State.mapCluster_keys (n : Nat) (f : Cluster → Cluster) : (s.mapCluster n f).keys = s.keys := rfl
@[simp] theorem State.mapCluster_clusters (n : Nat) (f : Cluster → Cluster) : (s.mapCluster n f).clusters = s.clusters.set! n (f (s.cluster n)) := rfl
@[simp] theorem State.mapCluster_arb (n : Nat) (f : Cluster → Cluster) : (s.mapCluster n f).arb = s.arb := rfl
@[simp] theorem State.mapCluster_fab (n : Nat) (f : Cluster → Cluster) : (s.mapCluster n f).fab = s.fab := rfl
@[simp] theorem State.mapCluster_mgmt (n : Nat) (f : Cluster → Cluster) : (s.mapCluster n f).mgmt = s.mgmt := rfl
@[simp] theorem State.mapCluster_plat (n : Nat) (f : Cluster → Cluster) : (s.mapCluster n f).plat = s.plat := rfl
@[simp] theorem State.mapCluster_cycle (n : Nat) (f : Cluster → Cluster) : (s.mapCluster n f).cycle = s.cycle := rfl
@[simp] theorem State.mapCluster_agenda (n : Nat) (f : Cluster → Cluster) : (s.mapCluster n f).agenda = s.agenda := rfl
@[simp] theorem State.mapCluster_ev (n : Nat) (f : Cluster → Cluster) : (s.mapCluster n f).ev = s.ev := rfl
@[simp] theorem State.mapCluster_sel (n : Nat) (f : Cluster → Cluster) : (s.mapCluster n f).sel = s.sel := rfl
@[simp] theorem State.mapCluster_issue (n : Nat) (f : Cluster → Cluster) : (s.mapCluster n f).issue = s.issue := rfl
@[simp] theorem State.mapCluster_nextId (n : Nat) (f : Cluster → Cluster) : (s.mapCluster n f).nextId = s.nextId := rfl
@[simp] theorem State.mapCluster_freeCtr (n : Nat) (f : Cluster → Cluster) : (s.mapCluster n f).freeCtr = s.freeCtr := rfl

/-! ## due -/

@[simp] theorem State.due_waves (evs : List Event) : (s.due evs).waves = s.waves := rfl
@[simp] theorem State.due_blocks (evs : List Event) : (s.due evs).blocks = s.blocks := rfl
@[simp] theorem State.due_launches (evs : List Event) : (s.due evs).launches = s.launches := rfl
@[simp] theorem State.due_mem (evs : List Event) : (s.due evs).mem = s.mem := rfl
@[simp] theorem State.due_caches (evs : List Event) : (s.due evs).caches = s.caches := rfl
@[simp] theorem State.due_l2 (evs : List Event) : (s.due evs).l2 = s.l2 := rfl
@[simp] theorem State.due_ways (evs : List Event) : (s.due evs).ways = s.ways := rfl
@[simp] theorem State.due_pins (evs : List Event) : (s.due evs).pins = s.pins := rfl
@[simp] theorem State.due_refusals (evs : List Event) : (s.due evs).refusals = s.refusals := rfl
@[simp] theorem State.due_sysCache (evs : List Event) : (s.due evs).sysCache = s.sysCache := rfl
@[simp] theorem State.due_badLines (evs : List Event) : (s.due evs).badLines = s.badLines := rfl
@[simp] theorem State.due_tlb (evs : List Event) : (s.due evs).tlb = s.tlb := rfl
@[simp] theorem State.due_wcache (evs : List Event) : (s.due evs).wcache = s.wcache := rfl
@[simp] theorem State.due_walks (evs : List Event) : (s.due evs).walks = s.walks := rfl
@[simp] theorem State.due_faults (evs : List Event) : (s.due evs).faults = s.faults := rfl
@[simp] theorem State.due_faultSeq (evs : List Event) : (s.due evs).faultSeq = s.faultSeq := rfl
@[simp] theorem State.due_accs (evs : List Event) : (s.due evs).accs = s.accs := rfl
@[simp] theorem State.due_cmds (evs : List Event) : (s.due evs).cmds = s.cmds := rfl
@[simp] theorem State.due_shadows (evs : List Event) : (s.due evs).shadows = s.shadows := rfl
@[simp] theorem State.due_colls (evs : List Event) : (s.due evs).colls = s.colls := rfl
@[simp] theorem State.due_collNo (evs : List Event) : (s.due evs).collNo = s.collNo := rfl
@[simp] theorem State.due_collCount (evs : List Event) : (s.due evs).collCount = s.collCount := rfl
@[simp] theorem State.due_sysNo (evs : List Event) : (s.due evs).sysNo = s.sysNo := rfl
@[simp] theorem State.due_aborts (evs : List Event) : (s.due evs).aborts = s.aborts := rfl
@[simp] theorem State.due_ops (evs : List Event) : (s.due evs).ops = s.ops := rfl
@[simp] theorem State.due_freed (evs : List Event) : (s.due evs).freed = s.freed := rfl
@[simp] theorem State.due_fires (evs : List Event) : (s.due evs).fires = s.fires := rfl
@[simp] theorem State.due_vds (evs : List Event) : (s.due evs).vds = s.vds := rfl
@[simp] theorem State.due_parts (evs : List Event) : (s.due evs).parts = s.parts := rfl
@[simp] theorem State.due_queues (evs : List Event) : (s.due evs).queues = s.queues := rfl
@[simp] theorem State.due_keys (evs : List Event) : (s.due evs).keys = s.keys := rfl
@[simp] theorem State.due_clusters (evs : List Event) : (s.due evs).clusters = s.clusters := rfl
@[simp] theorem State.due_arb (evs : List Event) : (s.due evs).arb = s.arb := rfl
@[simp] theorem State.due_fab (evs : List Event) : (s.due evs).fab = s.fab := rfl
@[simp] theorem State.due_mgmt (evs : List Event) : (s.due evs).mgmt = s.mgmt := rfl
@[simp] theorem State.due_plat (evs : List Event) : (s.due evs).plat = s.plat := rfl
@[simp] theorem State.due_cycle (evs : List Event) : (s.due evs).cycle = s.cycle := rfl
@[simp] theorem State.due_agenda (evs : List Event) : (s.due evs).agenda = s.agenda ++ evs := rfl
@[simp] theorem State.due_ev (evs : List Event) : (s.due evs).ev = s.ev := rfl
@[simp] theorem State.due_sel (evs : List Event) : (s.due evs).sel = s.sel := rfl
@[simp] theorem State.due_issue (evs : List Event) : (s.due evs).issue = s.issue := rfl
@[simp] theorem State.due_nextId (evs : List Event) : (s.due evs).nextId = s.nextId := rfl
@[simp] theorem State.due_freeCtr (evs : List Event) : (s.due evs).freeCtr = s.freeCtr := rfl

end Sys2Proof.Machine
end

