-- ==== Sys2Proof/Laws/Simt.lean ====
section
/-!
SUPPORT. What an instruction that acts on registers only can do: it writes the active threads and the scalar registers of its wave, or
it raises traps in some of them (R21, R62).
-/

namespace Sys2Proof.Machine

/-! ## Masks and lists -/

theorem mapIf_mapIf {α : Type} (p : α → Bool) (f g : α → α) (l : List α) (h : ∀ x, p x = true → p (f x) = p x) :
    mapIf p g (mapIf p f l) = mapIf p (fun x => g (f x)) l := by
  simp only [mapIf, List.map_map]
  apply List.map_congr_left
  intro x _
  simp only [Function.comp]
  by_cases hx : p x <;> simp [hx, h]

theorem mem_tids {m : BitVec 32} {t : Nat} : t ∈ tids m ↔ m.getLsbD t = true := by
  simp only [tids, List.mem_filter, List.mem_range, and_iff_right_iff_imp]
  exact fun h => BitVec.lt_of_getLsbD h

/-- An active thread exists, and the lowest is one. -/
theorem lowest_active {m : BitVec 32} (h : m ≠ 0) : m.getLsbD (lowest m) = true := by
  cases hl : tids m with
  | nil =>
    exfalso
    apply h
    apply BitVec.eq_of_getLsbD_eq
    intro t _
    cases ht : m.getLsbD t with
    | false => simp
    | true => rw [← mem_tids, hl] at ht; simp at ht
  | cons x xs =>
    have : x ∈ tids m := by rw [hl]; simp
    simpa [lowest, hl] using mem_tids.mp this

theorem mapFrom_congr {α : Type} {f g : Nat → α → α} : ∀ {l : List α} {n : Nat}, (∀ i x, l[i]? = some x → f (n + i) x = g (n + i) x) →
    mapFrom f n l = mapFrom g n l
  | [], _, _ => rfl
  | x :: xs, n, h => by
    have h0 := h 0 x rfl
    have ht := mapFrom_congr (f := f) (g := g) (l := xs) (n := n + 1) fun i y hy => by
      have := h (i + 1) y (by simpa using hy)
      rwa [show n + (i + 1) = n + 1 + i by omega] at this
    simp only [mapFrom, ht, Nat.add_zero] at h0 ⊢
    rw [h0]

theorem mapFrom_length {α : Type} (f : Nat → α → α) : ∀ (l : List α) (n : Nat), (mapFrom f n l).length = l.length
  | [], _ => rfl
  | x :: xs, n => by simp [mapFrom, mapFrom_length f xs]

theorem mapFrom_get? {α : Type} (f : Nat → α → α) : ∀ (l : List α) (n i : Nat), (mapFrom f n l)[i]? = (l[i]?).map (f (n + i))
  | [], _, _ => by simp [mapFrom]
  | x :: xs, n, 0 => by simp [mapFrom]
  | x :: xs, n, i + 1 => by
    simp only [mapFrom, List.getElem?_cons_succ, mapFrom_get? f xs]
    rw [show n + 1 + i = n + (i + 1) by omega]

theorem Wave.th_of_get {w : Wave} {t : Nat} {x : Thread} (h : w.threads[t]? = some x) : w.th t = x := by simp [Wave.th, h]

/-! ## Waves by name -/

theorem State.wave?_id {s : State} {n : Nat} {w : Wave} (h : s.wave? n = some w) : w.id = n := by
  have := List.find?_some h
  simpa using this

/-- A keyed list after a change of the entries under one key: the first of them is the first changed, and every other key finds what it
found. -/
theorem find_mapIf {α : Type} {key : α → Nat} {n : Nat} {f : α → α} (hf : ∀ x, key x = n → key (f x) = n) (m : Nat) (l : List α) :
    (mapIf (fun x => key x == n) f l).find? (fun x => key x == m) =
      if m = n then (l.find? fun x => key x == n).map f else l.find? fun x => key x == m := by
  induction l with
  | nil => simp [mapIf]
  | cons x xs ih =>
    have step : mapIf (fun x => key x == n) f (x :: xs) = (if key x == n then f x else x) :: mapIf (fun x => key x == n) f xs := rfl
    rw [step, List.find?_cons, ih]
    by_cases hx : key x = n
    · by_cases hm : m = n
      · subst hm; simp [hx, hf x hx]
      · have h1 : (n == m) = false := by simpa using fun e => hm (Eq.symm e)
        simp [hx, hf x hx, hm, h1]
    · have h1 : (key x == n) = false := by simpa using hx
      by_cases hm : m = n
      · subst hm; simp [h1]
      · cases hxm : key x == m <;> simp [h1, hm, hxm]

/-- Reading back the wave an update has changed. -/
theorem State.wave?_mapWave {s : State} {n : Nat} {w : Wave} {f : Wave → Wave} (h : s.wave? n = some w) (hf : ∀ w, w.id = n → (f w).id = n) :
    (s.mapWave n f).wave? n = some (f w) := by
  have := find_mapIf (key := Wave.id) hf n s.waves
  rw [if_pos rfl] at this
  simpa [State.wave?] using this.trans (by rw [show s.waves.find? (fun x => x.id == n) = some w from h]; rfl)

/-- An update of one wave leaves the others. -/
theorem State.wave?_mapWave_other {s : State} {n m : Nat} {f : Wave → Wave} (hm : m ≠ n) (hf : ∀ w, w.id = n → (f w).id = n) :
    (s.mapWave n f).wave? m = s.wave? m := by
  have := find_mapIf (key := Wave.id) hf m s.waves
  rwa [if_neg hm] at this

/-! ## The shared operation -/

theorem raiseAll_done {is : Issue} {res : Nat → Res} : ∀ {ts : List Nat} (s : State),
    (∀ t ∈ ts, ∃ th kw fp iz, res t = .done th kw fp iz) → State.raiseAll s is res ts = s
  | [], _, _ => rfl
  | t :: ts, s, h => by
    obtain ⟨th, kw, fp, iz, ht⟩ := h t (by simp)
    simp only [State.raiseAll, ht]
    exact raiseAll_done s fun u hu => h u (by simp [hu])

/-- An instruction none of whose active threads traps replaces its wave and changes nothing else. -/
theorem simt_done {i : Instr} {body : Ctx → Res} {s : State} {w : Wave} (h : s.Running w)
    (hd : ∀ t, s.issue.mask.getLsbD t = true → ∃ th kw fp iz, resOf i body s w t = .done th kw fp iz) :
    simt i body s = .next (s.mapWave w.id fun _ => w.after s.issue (resOf i body s w)) := by
  simp only [simt, State.simt, h.wave, h.calm, Option.isSome_none]
  simp only [Bool.false_eq_true, if_false]
  rw [raiseAll_done _ fun t ht => hd t (mem_tids.mp ht)]

/-- The same with what the body gives: in each active thread the thread of its own body, or under a uniform instruction the lowest
thread's PC and sticky bits; the scalar writes of the lowest. -/
theorem simt_gives {i : Instr} {body : Ctx → Res} {s : State} {w : Wave} (h : s.Running w) {th : Nat → Thread}
    {kw : Nat → List (Nat × Reg)} {fp : Nat → BitVec 5} {iz : Nat → Bool}
    (hd : ∀ t, s.issue.mask.getLsbD t = true → body ⟨s, w, t, w.th t, s.issue⟩ = .done (th t) (kw t) (fp t) (iz t)) :
    simt i body s = .next (s.mapWave w.id fun _ =>
      { w with
        threads := mapFrom (fun t x => if s.issue.mask.getLsbD t then
          (if s.source i t = t then th t else { x with pc := (th (s.source i t)).pc }).sticky (fp (s.source i t)) (iz (s.source i t)) else x) 0
          w.threads,
        k := (kw (lowest s.issue.mask)).foldl (fun k x => setK k x.1 x.2) w.k }) := by
  have hlo := lowest_active h.active
  have hr : ∀ t, s.issue.mask.getLsbD t = true → resOf i body s w t =
      .done (if s.source i t = t then th t else { w.th t with pc := (th (s.source i t)).pc })
        (if s.source i t = t then kw t else []) (fp (s.source i t)) (iz (s.source i t)) := by
    intro t ht
    by_cases hu : (i.uniform && !Instr.jumpsAll i) = true
    · by_cases htl : t = lowest s.issue.mask
      · simp [resOf, State.source, hu, htl, hd _ hlo]
      · have : lowest s.issue.mask ≠ t := fun e => htl e.symm
        simp [resOf, State.source, hu, htl, this, hd _ hlo, Res.follow]
    · simp [resOf, State.source, hu, hd _ ht]
  rw [simt_done h fun t ht => ⟨_, _, _, _, hr t ht⟩]
  have hth : mapFrom (fun t x => if s.issue.mask.getLsbD t then (resOf i body s w t).thread x else x) 0 w.threads =
      mapFrom (fun t x => if s.issue.mask.getLsbD t then
          (if s.source i t = t then th t else { x with pc := (th (s.source i t)).pc }).sticky (fp (s.source i t)) (iz (s.source i t)) else x) 0
          w.threads := by
    apply mapFrom_congr
    intro t x hx
    by_cases ht : s.issue.mask.getLsbD t = true
    · simp [ht, hr t ht, Res.thread, Wave.th_of_get hx]
    · simp [ht]
  have hk : s.source i (lowest s.issue.mask) = lowest s.issue.mask := by simp [State.source]
  simp only [Wave.after, hth, hr _ hlo, hk, if_true]

/-! ## Traps of a compute wave -/

/-- A thread with a trap of its effect raised; any other effect leaves it. -/
def Thread.raised (th : Thread) (is : Issue) (now : Nat) : Res → Thread
  | .trap cls reason info addr => th.raise cls reason info is.repPc addr now
  | .done .. => th

theorem mapWave_mapWave (s : State) (n : Nat) (f g : Wave → Wave) (hf : ∀ w, w.id = n → (f w).id = n) :
    (s.mapWave n f).mapWave n g = s.mapWave n fun w => g (f w) := by
  simp only [State.mapWave]
  rw [mapIf_mapIf]
  intro w hw
  have hw : w.id = n := by simpa using hw
  simp [hw, hf w hw]

theorem mapFrom_id {α : Type} : ∀ (l : List α) (n : Nat), mapFrom (fun _ x => x) n l = l
  | [], _ => rfl
  | x :: xs, n => by simp [mapFrom, mapFrom_id xs]

theorem mapFrom_mapFrom {α : Type} (f g : Nat → α → α) : ∀ (l : List α) (n : Nat),
    mapFrom g n (mapFrom f n l) = mapFrom (fun i x => g i (f i x)) n l
  | [], _ => rfl
  | x :: xs, n => by simp [mapFrom, mapFrom_mapFrom f g xs]

/-- Traps raised thread by thread in a compute wave outside an episode set those threads aside and change nothing else. -/
theorem raiseAll_compute {is : Issue} {res : Nat → Res} {s : State} {w : Wave} (hw : s.wave? is.wave = some w) :
    ∀ {ts : List Nat} (w' : Wave), ts.Nodup → w'.id = w.id → w'.role ≠ .vent → w'.episode = none →
      State.raiseAll (s.mapWave w.id fun _ => w') is res ts = s.mapWave w.id fun _ =>
        { w' with threads := mapFrom (fun t th => if t ∈ ts then th.raised is s.cycle (res t) else th) 0 w'.threads }
  | [], w', _, _, _, _ => by
    have : mapFrom (fun (t : Nat) (th : Thread) => if t ∈ ([] : List Nat) then th.raised is s.cycle (res t) else th) 0 w'.threads = w'.threads :=
      (mapFrom_congr fun i x _ => by simp).trans (mapFrom_id _ _)
    simp only [State.raiseAll, this]
  | t :: ts, w', hn, hi, hr, he => by
    obtain ⟨ht, hn⟩ := List.nodup_cons.mp hn
    have hid := State.wave?_id hw
    cases hres : res t with
    | done th kw fp iz =>
      simp only [State.raiseAll, hres]
      rw [raiseAll_compute hw w' hn hi hr he]
      congr 1
      funext _
      congr 1
      apply mapFrom_congr
      intro u x _
      simp only [Nat.zero_add]
      by_cases hu : u = t
      · simp [hu, ht, hres, Thread.raised]
      · simp [hu]
    | trap cls reason info addr =>
      simp only [State.raiseAll, hres]
      have hw' : (s.mapWave w.id fun _ => w').wave? is.wave = some w' := by
        rw [← hid]
        exact State.wave?_mapWave (hid ▸ hw) (fun _ _ => hi)
      have hv : w'.isVent = false := by
        unfold Wave.isVent
        cases hrole : w'.role <;> simp_all
      have : (s.mapWave w.id fun _ => w').raise is.wave t cls reason info is.repPc addr =
          s.mapWave w.id fun _ => w'.mapTh t fun th => th.raise cls reason info is.repPc addr s.cycle := by
        simp only [State.raise, hw', he, hv]
        simp only [Option.isSome_none, Bool.false_eq_true, if_false, State.mapWave_cycle]
        rw [← hid, mapWave_mapWave _ _ _ _ (fun _ _ => hi)]
      rw [this, raiseAll_compute hw (w'.mapTh t _) hn hi hr he]
      congr 1
      funext _
      simp only [Wave.mapTh, mapFrom_mapFrom]
      congr 1
      apply mapFrom_congr
      intro u x _
      simp only [Nat.zero_add]
      by_cases hu : u = t
      · simp [hu, ht, hres, Thread.raised]
      · simp [hu]

theorem tids_nodup (m : BitVec 32) : (tids m).Nodup := List.Pairwise.filter _ List.nodup_range

/-- What an instruction that acts on registers only does in a compute wave outside an episode: each active thread has its effect, or its trap. -/
theorem simt_compute {i : Instr} {body : Ctx → Res} {s : State} {w : Wave} (h : s.Running w) (hr : w.role ≠ .vent) :
    simt i body s = .next (s.mapWave w.id fun _ =>
      { w.after s.issue (resOf i body s w) with
        threads := mapFrom (fun t th => if s.issue.mask.getLsbD t then
          ((resOf i body s w t).thread th).raised s.issue s.cycle (resOf i body s w t) else th) 0 w.threads }) := by
  simp only [simt, State.simt, h.wave, h.calm, Option.isSome_none]
  simp only [Bool.false_eq_true, if_false]
  rw [raiseAll_compute h.wave (w.after s.issue (resOf i body s w)) (tids_nodup _) rfl hr h.calm]
  congr 2
  funext _
  congr 1
  simp only [Wave.after, mapFrom_mapFrom]
  apply mapFrom_congr
  intro t x _
  by_cases ht : s.issue.mask.getLsbD t = true <;> simp [ht, mem_tids]

/-! ## Results in a register -/

/-- What one thread's run of an instruction sees. -/
def State.ctx (s : State) (w : Wave) (t : Nat) : Ctx := ⟨s, w, t, w.th t, s.issue⟩

theorem write_done {th : Thread} {kw : List (Nat × Reg)} {fp : BitVec 5} {iz : Bool} (d : Nat) (r : Reg) :
    (Res.done th kw fp iz).write d r =
      .done { th with v := if d < 48 then th.v.setIfInBounds d r else th.v }
        (if 48 ≤ d ∧ d < 63 then kw ++ [(d - 48, r)] else kw) fp iz := by
  simp only [Res.write]
  by_cases h1 : d < 48
  · simp [h1, setV, show ¬ 48 ≤ d by omega]
  · by_cases h2 : d < 63 <;> simp [h1, h2, show 48 ≤ d by omega]

/-- An instruction whose body writes one register and sets sticky bits. -/
theorem gives_reg {i : Instr} {body : Ctx → Res} {s : State} {w : Wave} {d : BitVec 6} {val : Nat → Reg} {fp : Nat → BitVec 5}
    {iz : Nat → Bool} (h : s.Running w) (he : exec i s = simt i body s) (hu : i.uniform = true → 48 ≤ d.toNat)
    (hb : ∀ t, s.issue.mask.getLsbD t = true → body (s.ctx w t) =
      (Res.done { w.th t with pc := s.issue.pc + 4 } [] (fp t) (iz t)).write d.toNat (val t)) :
    GivesReg i s w d val fp iz := by
  unfold GivesReg Gives
  rw [he, simt_gives h fun t ht => (hb t ht).trans (write_done _ _)]
  congr 2
  funext _
  congr 1
  · apply mapFrom_congr
    intro t x hx
    simp only [Nat.zero_add]
    by_cases ht : s.issue.mask.getLsbD t = true
    · simp only [ht, if_true, Wave.th_of_get hx, Thread.got]
      by_cases hs : s.source i t = t
      · rw [if_pos hs, hs]
      · have hun : i.uniform = true := by
          by_cases hun : i.uniform = true
          · exact hun
          · exact absurd (by simp [State.source, hun]) hs
        have := hu hun
        rw [if_neg hs, if_neg (by omega)]
    · simp [ht]
  · simp only [scalarGot]
    split <;> simp [setK]

theorem ret_ite (c : Ctx) (d : BitVec 6) (p : Bool) (x y : Word) :
    (if p then c.ret d x true else c.ret d y false) = c.next.write d.toNat (if p then ⟨x, true⟩ else ⟨y, false⟩) := by cases p <;> rfl

/-- The destination of a uniform instruction is a scalar register, or the discard. -/
theorem uniform_scalar {f : BitVec 6} {i : Instr} (h : f ∈ i.regs.map (·.f)) (hu : i.uniform = true) : 48 ≤ f.toNat := by
  obtain ⟨u, hr, rfl⟩ := List.mem_map.mp h
  simp only [Instr.uniform, Bool.and_eq_true, List.all_eq_true, decide_eq_true_eq] at hu
  exact hu.2 u hr

@[simp] theorem Thread.sticky_none (th : Thread) : th.sticky 0 false = th := by simp [Thread.sticky]

/-- The threads of a bundle under a uniform instruction, and under any other: each effect is that of its source. -/
theorem source_cases (s : State) (i : Instr) (t : Nat) : s.source i t = t ∨ i.uniform = true ∧ s.source i t = lowest s.issue.mask := by
  by_cases hu : i.uniform = true <;> cases hj : Instr.jumpsAll i <;> simp [State.source, hu, hj]

/-- An instruction whose body changes its thread only. -/
theorem gives_threads {i : Instr} {body : Ctx → Res} {s : State} {w : Wave} {th : Nat → Thread} (h : s.Running w)
    (he : exec i s = simt i body s)
    (hb : ∀ t, s.issue.mask.getLsbD t = true → body (s.ctx w t) = .done (th t) [] 0 false)
    (hu : ∀ t, i.uniform = true → s.issue.mask.getLsbD t = true → th t = { w.th t with pc := (th (lowest s.issue.mask)).pc }) :
    GivesThreads i s w th := by
  unfold GivesThreads Gives
  rw [he, simt_gives h fun t ht => (hb t ht)]
  congr 2
  funext _
  congr 1
  apply mapFrom_congr
  intro t x hx
  simp only [Nat.zero_add]
  by_cases ht : s.issue.mask.getLsbD t = true
  · simp only [ht, if_true, Thread.sticky_none]
    obtain hs | ⟨hun, hs⟩ := source_cases s i t
    · rw [if_pos hs]
    · by_cases he : s.source i t = t
      · rw [if_pos he]
      · rw [if_neg he, hs, hu t hun ht, Wave.th_of_get hx]
  · simp [ht]

/-- An instruction whose body writes a doubleword to a pair. -/
theorem gives_pair {i : Instr} {body : Ctx → Res} {s : State} {w : Wave} {d : BitVec 6} {lo hi : Nat → Reg} (h : s.Running w)
    (he : exec i s = simt i body s) (hu : i.uniform = true → 48 ≤ d.toNat)
    (hb : ∀ t, s.issue.mask.getLsbD t = true → body (s.ctx w t) =
      ((Res.done { w.th t with pc := s.issue.pc + 4 } [] 0 false).write d.toNat (lo t)).write (d.toNat + 1) (hi t)) :
    GivesPair i s w d lo hi := by
  unfold GivesPair Gives
  rw [he, simt_gives h fun t ht => (hb t ht).trans (by rw [write_done, write_done])]
  congr 2
  funext _
  congr 1
  · apply mapFrom_congr
    intro t x hx
    simp only [Nat.zero_add]
    by_cases ht : s.issue.mask.getLsbD t = true
    · simp only [ht, if_true, Wave.th_of_get hx, Thread.got, Thread.sticky_none]
      obtain hs | ⟨hun, _⟩ := source_cases s i t
      · rw [if_pos hs]
      · have := hu hun
        by_cases he : s.source i t = t
        · rw [if_pos he]
        · rw [if_neg he, if_neg (by omega), if_neg (by omega)]
    · simp [ht]
  · simp only [scalarGot]
    split <;> split <;> simp_all [setK]

/-- Integer results of one, two and three operands (R114). -/
theorem gives_int1 {i : Instr} {s : State} {w : Wave} {d a : BitVec 6} {f : Word → Word} (h : s.Running w)
    (he : exec i s = simt i (int1 d a f) s) (hu : i.uniform = true → 48 ≤ d.toNat) :
    GivesReg i s w d fun t => res1 poisonInt (w.opnd t a) f := by
  refine gives_reg h he hu fun t _ => ret_ite (s.ctx w t) d _ _ _

theorem gives_int2 {i : Instr} {s : State} {w : Wave} {d a b : BitVec 6} {f : Word → Word → Word} (h : s.Running w)
    (he : exec i s = simt i (int2 d a b f) s) (hu : i.uniform = true → 48 ≤ d.toNat) :
    GivesReg i s w d fun t => res2 poisonInt (w.opnd t a) (w.opnd t b) f := by
  refine gives_reg h he hu fun t _ => ret_ite (s.ctx w t) d _ _ _

theorem gives_int3 {i : Instr} {s : State} {w : Wave} {d a b : BitVec 6} {f : Word → Word → Word → Word} (h : s.Running w)
    (he : exec i s = simt i (int3 d a b f) s) (hu : i.uniform = true → 48 ≤ d.toNat) :
    GivesReg i s w d fun t => res3 poisonInt (w.opnd t d) (w.opnd t a) (w.opnd t b) f := by
  refine gives_reg h he hu fun t _ => ret_ite (s.ctx w t) d _ _ _

end Sys2Proof.Machine
end

