-- ==== Sys2Proof/Tests/Slice0.lean ====
section
/-!
SUPPORT. Tests: ill-formed terms and words that the checks refuse, words written out from the encodings of chapter 03, one step of
each family with results worked out from the spec, and for each obligation a state and operands that meet its hypotheses.
-/

set_option Elab.async false

open Sys2Proof Sys2Proof.Machine

namespace Sys2Proof.Tests

/-! ## Ill-formed terms (R47, R63 to R68, R70, R137, R157) and registers (R61) -/

theorem smoke_condition : Instr.fieldsOk (.icmp 1 6 0 0) = false ∧ Instr.fieldsOk (.icmpi 1 15 0 0) = false ∧
    Instr.fieldsOk (.fcmp 1 14 0 0) = false := by decide
theorem smoke_selector : Instr.fieldsOk (.movs 0 0x0E) = false ∧ Instr.fieldsOk (.movcRead 0 0x1F) = false ∧
    Instr.fieldsOk (.movcRead 0 0x27) = false ∧ Instr.fieldsOk (.movcWrite 0 0x21) = false ∧ Instr.fieldsOk (.movcWrite 0 0x22) = false := by decide
theorem smoke_granules : Instr.fieldsOk (.vgrow 0) = false ∧ Instr.fieldsOk (.vshrink 7) = false := by decide
theorem smoke_formats : Instr.fieldsOk (.fcvto 0 0 6) = false ∧ Instr.fieldsOk (.fcvti 0 0 0) = false ∧ Instr.fieldsOk (.tscl 0 0 8) = false ∧
    Instr.fieldsOk (.tstw 0 0 5 2) = false ∧ Instr.fieldsOk (.tstw 0 0 6 3) = false := by decide
theorem smoke_hmod : Instr.fieldsOk (.hmod 0 3 0) = false ∧ Instr.fieldsOk (.hmod 1 0 0) = false ∧ Instr.fieldsOk (.hmod 3 0 0) = false ∧ Instr.fieldsOk (.hmod 5 0 0) = true := by decide
theorem smoke_scope : Instr.fieldsOk (.fenceFull 6) = false ∧ Instr.fieldsOk (.atadd 0 0 0 0 7) = false ∧ Instr.fieldsOk (.stl 0 0 0 6) = false := by decide
theorem smoke_registers : (Instr.ldd 3 4 0).regCheck 48 = some .misaligned ∧ (Instr.iadd 8 0 0).regCheck 8 = some .beyondAlloc ∧
    (Instr.iadd 7 0 0).regCheck 8 = none := by decide

/-! ## Words (chapter 03) -/

/-- The worked encodings of chapter 03. -/
theorem decode_worked : decodeWord 0x0F400012 = .ok (.hcls 0 1 2) ∧ decodeWord 0x0870C400 = .ok (.stw 3 4 0) ∧
    decodeWord 0x18214600 = .ok (.ldw 5 6 0) ∧ schedOf 0x18214600 = ⟨0, 1⟩ ∧ decodeWord 0x0F4002FF = .ok (.hcls 2 15 15) ∧
    decodeWord 0x0F000003 = .ok (.himm 3) ∧ decodeWord 0x0020C3E8 = .ok (.iaddi 3 3 0xE8) ∧ decodeWord 0x0F3FFFFC = .ok (.himm 0x3FFFFC) ∧
    decodeWord 0x0F5A0000 = .ok (.hmod 5 0 0) ∧ decodeWord 0x05714404 = .ok (.fcvto 5 4 1) ∧ decodeWord 0x02A44000 = .ok (.icmpi 1 1 0 0) ∧
    decodeWord 0x03140003 = .ok (.brp 1 0 3) ∧ decodeWord 0x08D10140 = .ok (.lds 4 1 2 0) ∧ decodeWord 0x08E14221 = .ok (.sts 5 2 1 1) ∧
    decodeWord 0x09018212 = .ok (.atadd 6 2 1 0 2) ∧ decodeWord 0x0D0EB241 = .ok (.cpy 58 50 1 1) ∧
    decodeWord 0x0C112043 = .ok (.tmac 1 2 1 3) ∧ decodeWord 0x03820000 = .ok (.join 1) := by
  refine ⟨rfl, ?_⟩; repeat (first | exact rfl | refine ⟨rfl, ?_⟩)

/-- The other fates of chapter 03. -/
theorem decode_fates : decodeWord 0 = .error .allZero ∧ decodeWord 0x07000000 = .error .unassigned ∧ decodeWord 0x08F00000 = .error .unassigned ∧
    decodeWord 0x0C200000 = .ok (.tzero 0 0 0 0) ∧ decodeWord 0x0E100000 = .ok .rtt ∧ decodeWord 0x09018217 = .error .reservedScope ∧
    decodeWord 0x0830C401 = .ok (.ldd 3 4 1) ∧ decodeWord 0x0F601234 = .ok (.hintReservedF6 0 0x1234) ∧ decodeWord 0x442104E4 = .ok (.fmul 4 4 57) ∧
    (schedOf 0x442104E4).eff = 0 := by
  refine ⟨rfl, ?_⟩; repeat (first | exact rfl | refine ⟨rfl, ?_⟩)

/-- One word of each further family, bit by bit from its format; PLOG's, SHFL's and the like have their sub-fields where their rules put them. -/
theorem decode_families :
    decodeWord (0b00#2 ++ 0b00#2 ++ 0x1A#8 ++ 0b000101#6 ++ 0b000110#6 ++ 0b000111#6 ++ 0b00#2) = .ok (.shra 5 6 7) ∧
    decodeWord (0b00#2 ++ 0b00#2 ++ 0x2E#8 ++ 0b000011#6 ++ 0b000000#6 ++ 0x0C#8) = .ok (.movs 3 0x0C) ∧
    decodeWord (0b00#2 ++ 0b00#2 ++ 0x32#8 ++ 0b000000#6 ++ 0b001000#6 ++ 0b000000#6 ++ 0b00#2) = .ok (.jmpi 8) ∧
    decodeWord (0b00#2 ++ 0b00#2 ++ 0x37#8 ++ 0b110#3 ++ 0#17) = .ok (.jset 6) ∧
    decodeWord (0b00#2 ++ 0b00#2 ++ 0x3F#8 ++ 0b000001#6 ++ 0b000010#6 ++ 0b000011#6 ++ 0b10#2) = .ok (.shflDown 1 2 3) ∧
    decodeWord (0b00#2 ++ 0b00#2 ++ 0x43#8 ++ 0b000001#6 ++ 0b110000#6 ++ 0b000011#6 ++ 0b00#2) = .ok (.ffma 1 48 3) ∧
    decodeWord (0b00#2 ++ 0b00#2 ++ 0x5F#8 ++ 0b000001#6 ++ 0b000010#6 ++ 0b000011#6 ++ 0b01#2) = .ok (.hdot2Bf16 1 2 3) ∧
    decodeWord (0b00#2 ++ 0b00#2 ++ 0x60#8 ++ 0b000001#6 ++ 0b000010#6 ++ 0xFF#8) = .ok (.tld 1 2 0xFF) ∧
    decodeWord (0b00#2 ++ 0b00#2 ++ 0xA0#8 ++ 0b000000#6 ++ 0b110000#6 ++ 0x0F#8) = .ok (.bar 48 15) ∧
    decodeWord (0b00#2 ++ 0b00#2 ++ 0xB3#8 ++ 0b000001#6 ++ 0b000010#6 ++ 0b000011#6 ++ 0b00#2) = .ok (.opqry 1 2 3) ∧
    decodeWord (0b00#2 ++ 0b00#2 ++ 0xC9#8 ++ 0b0011#4 ++ 0b0100#4 ++ 0b000101#6 ++ 0b000110#6) = .ok (.tloop 3 4 5 6) ∧
    decodeWord (0b00#2 ++ 0b00#2 ++ 0xD9#8 ++ 0b000001#6 ++ 0b000010#6 ++ 0b000011#6 ++ 0b00#2) = .ok (.launch 1 2 3) ∧
    decodeWord (0b00#2 ++ 0b00#2 ++ 0xED#8 ++ 0b000001#6 ++ 0b000010#6 ++ 0b000100#6 ++ 0b01#2) = .ok (.partctlReset 1 2 4) ∧
    decodeWord (0b00#2 ++ 0b00#2 ++ 0xFF#8 ++ 0xABCDE#20) = .ok (.hintReservedF8 7 0xABCDE) := by
  refine ⟨rfl, ?_⟩; repeat (first | exact rfl | refine ⟨rfl, ?_⟩)

/-! ## Small machines -/

/-- Registers from number n on. -/
def put : Nat → List Word → Vector Reg 48 → Vector Reg 48
  | _, [], v => v
  | n, x :: l, v => put (n + 1) l (v.setIfInBounds n ⟨x, false⟩)

/-- A thread at the placed word with v0, v1 … as given. -/
def th0 (l : List Word) : Thread := { Thread.init 0x1000 with v := put 0 l (Vector.replicate 48 Reg.zero) }

/-- A compute wave with the threads given, and a machine in which it runs an instruction with all of one or two of them. -/
def waveOf (l : List Thread) : Wave := { placedWave 1 with threads := l }
def bundle (w : Wave) : State :=
  let is : Issue := { Issue.none with wave := w.id, mask := BitVec.ofNat 32 (2 ^ w.threads.length - 1), pc := 0x1000, repPc := 0x1000 }
  { State.reset with waves := [w], blocks := [placedBlock 1 false], tlb := [placedPage 0], nextId := 2, issue := is }

/-- Register f of thread t after an instruction. -/
def got (i : Instr) (s : State) (t f : Nat) : Option Reg := match exec i s with
  | .next u => (u.wave? s.issue.wave).map fun w => readReg w (w.th t) f
  | _ => none

/-- v2 after an instruction of one thread whose v0, v1 … are given. -/
def v2 (i : Instr) (l : List Word) : Option Word := (got i (bundle (waveOf [th0 l])) 0 2).map (·.val)

/-- A property of the state after an instruction or an event. -/
def after (i : Instr) (s : State) (p : State → Bool) : Bool := match exec i s with
  | .next u => p u
  | _ => false

/-- A property of the first thread after an instruction. -/
def thread (i : Instr) (w : Wave) (p : Thread → Bool) : Bool := after i (bundle w) fun u => match u.wave? w.id with
  | some w' => p (w'.th 0)
  | none => false

/-! ## One step of each family; results worked out from the rules named -/

/-- R117, R85: wrap, saturation, high half, division corners. -/
theorem test_integer : v2 (.iadd 2 0 1) [0xFFFFFFFF, 2] = some 1 ∧ v2 (.isub 2 0 1) [1, 2] = some 0xFFFFFFFF ∧
    v2 (.iadds 2 0 1 0) [0x7FFFFFFF, 1] = some 0x7FFFFFFF ∧ v2 (.iadds 2 0 1 1) [0xFFFFFFFF, 1] = some 0xFFFFFFFF ∧
    v2 (.imulh 2 0 1 0) [0x80000000, 2] = some 0xFFFFFFFF ∧ v2 (.imulh 2 0 1 1) [0x80000000, 2] = some 1 ∧
    v2 (.imad 2 0 1) [3, 5, 7] = some 22 ∧ v2 (.idiv 2 0 1 0) [0xFFFFFFF9, 2] = some 0xFFFFFFFD ∧ v2 (.idiv 2 0 1 1) [7, 0] = some 0xFFFFFFFF ∧
    v2 (.irem 2 0 1 0) [0xFFFFFFF9, 2] = some 0xFFFFFFFF ∧ v2 (.imin 2 0 1 0) [0xFFFFFFFF, 1] = some 0xFFFFFFFF ∧
    v2 (.imin 2 0 1 1) [0xFFFFFFFF, 1] = some 1 := by decide
/-- R119: shifts of the width and more, rotation by the count modulo 32, fields. -/
theorem test_logic : v2 (.andn 2 0 1) [0xF0F0, 0xFF00] = some 0xF0 ∧ v2 (.andi 2 0 0xFF) [0xFFFFFFFF] = some 0xFF ∧
    v2 (.shl 2 0 1) [1, 32] = some 0 ∧ v2 (.shra 2 0 1) [0x80000000, 40] = some 0xFFFFFFFF ∧ v2 (.rotl 2 0 1) [0x80000001, 33] = some 3 ∧
    v2 (.bfx 2 0 1 0) [0xF0, 0x404] = some 0xFFFFFFFF ∧ v2 (.bfx 2 0 1 1) [0xF0, 0x404] = some 0xF ∧
    v2 (.bfi 2 0 1) [0x5, 0x404, 0xFFFFFFFF] = some 0xFFFFFF5F ∧ v2 (.clz 2 0) [0] = some 32 ∧ v2 (.popc 2 0) [0xFF00FF01] = some 17 ∧
    v2 (.brev 2 0) [1] = some 0x80000000 := by decide
/-- R120. -/
theorem test_packed_bytes : v2 (.pdot4 2 0 1 0) [0x000001FF, 0x00000302, 10] = some 11 ∧ v2 (.padd4Ss 2 0 1) [0x7F, 1] = some 0x7F ∧
    v2 (.padd4Us 2 0 1) [0xFF, 1] = some 0xFF ∧ v2 (.padd4 2 0 1) [0xFF, 1] = some 0 := by decide
/-- R109, R114, R160: a poisoned operand, and the poison bit moved and read. -/
def bad (x : Word) (l : List Word) : Wave := waveOf [{ th0 (0 :: l) with v := (th0 (0 :: l)).v.setIfInBounds 0 ⟨x, true⟩ }]
theorem test_poison : got (.iadd 2 0 1) (bundle (bad 5 [1])) 0 2 = some ⟨0x80000000, true⟩ ∧ got (.mov 2 0) (bundle (bad 5 [])) 0 2 = some ⟨5, true⟩ ∧
    got (.psnq 2 0) (bundle (bad 5 [])) 0 2 = some ⟨1, false⟩ ∧ got (.psnc 2 0) (bundle (bad 5 [])) 0 2 = some ⟨5, false⟩ ∧
    got (.fadd 2 0 1) (bundle (bad 5 [1])) 0 2 = some ⟨0x7FC00000, true⟩ := by decide
/-- R69, R121: an immediate alone, and with HIMM. -/
theorem test_immediate : v2 (.ldi 2 0x3FFF) [] = some 0xFFFFFFFF ∧ v2 (.iaddi 2 0 0xE8) [1] = some 0xFFFFFFE9 ∧
    (let s := bundle (waveOf [th0 [0]])
     got (.iaddi 2 0 0xE8) { s with issue := { s.issue with himm := some 3 } } 0 2 = some ⟨1000, false⟩) := by decide
/-- R62: a uniform instruction writes its scalar register once. R44, R47. -/
theorem test_registers : got (.ldi 48 5) (bundle (waveOf [th0 [], th0 []])) 1 48 = some ⟨5, false⟩ ∧
    got (.movs 2 0) (bundle (waveOf [th0 [], th0 []])) 1 2 = some ⟨1, false⟩ ∧ got (.movs 2 3) (bundle (waveOf [th0 [], th0 []])) 0 2 = some ⟨2, false⟩ ∧
    got (.movcRead 2 0x26) (bundle (waveOf [th0 []])) 0 2 = some ⟨0x020007D0, false⟩ ∧
    thread (.movcWrite 0 0x24) (waveOf [{ th0 [1] with errstat := 5 }]) (fun t => t.errstat == 4) = true := by decide
/-- R64, R65, R124: signed and unsigned order, the truth table, p0. -/
theorem test_predicates : thread (.icmp 1 2 0 1) (waveOf [th0 [0xFFFFFFFF, 0]]) (fun t => t.preds == 1) = true ∧
    thread (.icmp 1 10 0 1) (waveOf [th0 [0xFFFFFFFF, 0]]) (fun t => t.preds == 0) = true ∧
    thread (.plog 3 0 1 2 0x20) (waveOf [{ th0 [] with preds := 2 }]) (fun t => t.preds == 6) = true ∧
    got (.pmovToReg 2) (bundle (waveOf [{ th0 [] with preds := 5 }])) 0 2 = some ⟨11, false⟩ ∧
    thread (.pmovToPreds 0) (waveOf [th0 [9]]) (fun t => t.preds == 4) = true ∧ v2 (.sel 2 0 1 1) [7, 8] = some 8 := by decide
/-- R125. -/
theorem test_wave : got (.wredAdd 2 0) (bundle (waveOf [th0 [1], th0 [2]])) 1 2 = some ⟨3, false⟩ ∧
    got (.voteBallot 2 0) (bundle (waveOf [th0 [0], th0 [2]])) 0 2 = some ⟨2, false⟩ ∧ got (.voteAll 2 0) (bundle (waveOf [th0 [0], th0 [2]])) 0 2 = some ⟨0, false⟩ ∧
    got (.shflXor 2 0 1) (bundle (waveOf [th0 [5, 1], th0 [6, 1]])) 0 2 = some ⟨6, false⟩ ∧
    got (.shflDown 2 0 1) (bundle (waveOf [th0 [5, 1], th0 [6, 1]])) 1 2 = some ⟨6, false⟩ := by decide
/-- R88, R90, R144, R145: a tie to even, infinity times zero, one rounding, signed zeros. -/
theorem test_float : v2 (.fadd 2 0 1) [0x3F800000, 0x33800000] = some 0x3F800000 ∧ v2 (.fsub 2 0 1) [0x3F800000, 0x3F800000] = some 0 ∧
    v2 (.fmul 2 0 1) [0, 0x7F800000] = some 0x7FC00000 ∧ v2 (.ffma 2 0 1) [0x40000000, 0x40400000, 0x40800000] = some 0x41200000 ∧
    v2 (.fneg 2 0) [0x3F800000] = some 0xBF800000 ∧ v2 (.fscale 2 0 1) [0x3F800000, 3] = some 0x41000000 := by decide
/-- R148: the results and special operands its table lists. -/
theorem test_float_functions : v2 (.fdiv 2 0 1) [0x3F800000, 0x80000000] = some 0xFF800000 ∧ v2 (.fsqrt 2 0) [0x40800000] = some 0x40000000 ∧
    v2 (.fsqrt 2 0) [0x80000000] = some 0x80000000 ∧ v2 (.frcp 2 0) [0x40000000] = some 0x3F000000 ∧ v2 (.frsq 2 0) [0x40800000] = some 0x3F000000 ∧
    v2 (.fex2 2 0) [0x40400000] = some 0x41000000 ∧ v2 (.flg2 2 0) [0x41000000] = some 0x40400000 ∧ v2 (.fsinp 2 0) [0xC0000000] = some 0x80000000 ∧
    v2 (.fcosp 2 0) [0xBF000000] = some 0 ∧ v2 (.ftanh 2 0) [0xFF800000] = some 0xBF800000 := by decide +kernel
/-- R149 to R152: ties, ranges, formats, the code 0x80 of F8E4, packed halves. -/
theorem test_conversions : v2 (.f2i 2 0 0) [0x40200000] = some 2 ∧ v2 (.f2i 2 0 0) [0x40600000] = some 4 ∧ v2 (.i2f 2 0 0) [0xFFFFFFFF] = some 0xBF800000 ∧
    v2 (.fcvto 2 0 1) [0x3F800000] = some 0x3C00 ∧ v2 (.fcvti 2 0 1) [0x3C00] = some 0x3F800000 ∧ v2 (.frnd 2 0) [0x40200000] = some 0x40000000 ∧
    v2 (.hadd2 2 0 1) [0x3C003C00, 0x3C003C00] = some 0x40004000 ∧ v2 (.bmul2 2 0 1) [0x40003F80, 0x40403F80] = some 0x40C03F80 ∧
    v2 (.hdot2F16 2 0 1) [0x3C003C00, 0x3C004000, 0x3F800000] = some 0x40800000 := by decide
/-- R26, R126: targets from the word's own address; a misaligned target traps. R74, R136. -/
theorem test_control : thread (.bra 2) (waveOf [th0 []]) (fun t => t.pc == 0x1008) = true ∧ thread (.brp 1 1 0x1FFFF) (waveOf [th0 []]) (fun t => t.pc == 0xFFC) = true ∧
    thread (.call 0xFFFFF) (waveOf [th0 []]) (fun t => t.pc == 0xFFC && t.lnk == 0x1004) = true ∧ thread (.jmpi 0) (waveOf [th0 [0x2000, 1]]) (fun t => t.pc == 0x100002000) = true ∧
    thread (.calli 0) (waveOf [th0 [0x2002]]) (fun t => t.cond == .trapped ⟨.align, 0, 0x2002, 0x1000, 0x2002⟩) = true ∧
    thread (.hcls 2 1 15) (waveOf [th0 []]) (fun t => t.clause == ⟨2, 1, 15⟩) = true ∧ thread .rgn (waveOf [th0 []]) (fun t => t.rgncnt == 1 && t.rgnpc == 0x1004) = true ∧
    thread .exit (waveOf [th0 []]) (fun t => t.cond == .exited) = true := by decide
/-- R132 to R134: a mask set over the PC group, and its members blocked. -/
theorem test_rejoin : after (.jset 1) (bundle (waveOf [th0 [], th0 []])) (fun u => (u.wave? 0).map (·.mask 1) == some 3) = true ∧
    after (.join 1) (bundle { waveOf [th0 [], th0 []] with j := (Vector.replicate 8 0).set! 1 2 })
      (fun u => (u.wave? 0).map (fun w => ((w.th 0).cond, (w.th 1).cond)) == some (.run, .blocked (.join 1))) = true := by decide
/-- R51, R175: scratch. R180: a barrier of two, then of one thread. R182: a ring of two slots. -/
def inBlock (b : Block) (w : Wave) : State := { bundle w with blocks := [b] }
def ring2 : Ring := ⟨2, 16, 64, 1, 1, ⟨1, false⟩, ⟨1, false⟩, ⟨0, false⟩, ⟨0, false⟩⟩
def block2 : Block := { placedBlock 1 false with ssize := 128, scratch := [(8, 0x34), (9, 0x12)], rings := List.replicate 8 ring2 }
theorem test_scratch : got (.lds 2 0 1 1) (inBlock block2 (waveOf [th0 [6]])) 0 2 = some ⟨0x1234, false⟩ ∧
    after (.sts 1 0 2 0) (inBlock block2 (waveOf [th0 [8, 0xA5]])) (fun u => (u.block? 1).map (·.scratch) == some [(8, 0xA5)]) = true ∧
    thread (.lds 2 0 2 0) (waveOf [th0 [6]]) (fun t => t.cond != .run) = true := by decide
theorem test_barrier : after (.bara 0 3) (inBlock block2 (waveOf [th0 [2]])) (fun u => (u.block? 1).map (fun b => ((b.bar 3).count, (b.bar 3).phase)) == some (1, 0)) = true ∧
    after (.bar 0 3) (inBlock block2 (waveOf [th0 [1]])) (fun u => (u.block? 1).map (fun b => ((b.bar 3).count, (b.bar 3).phase)) == some (0, 1) &&
      (u.wave? 0).map (fun w => (w.th 0).cond) == some .run) = true := by decide
theorem test_ring : got (.rget 2 0) (inBlock block2 (waveOf [th0 []])) 0 2 = some ⟨80, false⟩ ∧ got (.rtake 2 0) (inBlock block2 (waveOf [th0 []])) 0 2 = some ⟨64, false⟩ ∧
    after (.rput 0) (inBlock block2 (waveOf [th0 []])) (fun u => (u.wave? 0).map (fun w => (w.th 0).cond) == some (.trapped ⟨.prot, 0, 0, 0x1000, 0⟩)) = true := by decide

/-! ## Witnesses: states and operands that meet the hypotheses of the statements -/

/-- A wave of one to 32 threads outside an episode runs the instruction in progress of its small machine. -/
theorem running (w : Wave) (he : w.episode = none) (h : 0 < w.threads.length ∧ w.threads.length ≤ 32) : (bundle w).Running w := by
  have bit : ∀ n t : Nat, n ≤ 32 → ((BitVec.ofNat 32 (2 ^ n - 1)).getLsbD t = true ↔ t < n) := by
    intro n t hn
    rw [BitVec.getLsbD_ofNat, Nat.testBit_two_pow_sub_one]
    simp only [Bool.and_eq_true, decide_eq_true_eq]
    omega
  refine ⟨by simp [bundle, State.wave?], he, fun h0 => ?_, fun t ht => (bit _ t h.2).1 ht⟩
  have h1 := (bit w.threads.length 0 h.2).2 h.1
  rw [show BitVec.ofNat 32 (2 ^ w.threads.length - 1) = 0#32 from h0] at h1
  simp at h1

/-- Two threads with every register at 0. -/
def pair : Wave := waveOf [th0 [], th0 []]
theorem pair_runs : (bundle pair).Running pair := running pair rfl (by decide)

theorem witness_IntegerArithmetic : (bundle pair).Running pair := pair_runs
theorem witness_LogicShiftsAndFields : (bundle pair).Running pair := pair_runs
theorem witness_PackedBytes : (bundle pair).Running pair := pair_runs
theorem witness_MovesAndPoison : (bundle pair).Running pair := pair_runs
theorem witness_Selectors : (bundle pair).Running pair ∧ pair.loc = .lane 0 0 0 ∧ pair.role ≠ .vent := ⟨pair_runs, rfl, by decide⟩
theorem witness_ControlRegisters : (bundle pair).Running pair ∧ (∀ n, (bundle pair).issue.mask.getLsbD n → (pair.opnd2 n 0).2 = false ∧ (pair.opnd n 0).psn = false) := by
  refine ⟨pair_runs, fun n h => ?_⟩
  have : n < 2 := pair_runs.inside n h
  have : ∀ n, n < 2 → (pair.opnd2 n 0).2 = false ∧ (pair.opnd n 0).psn = false := by decide
  exact this n ‹_›

/-- What holds of every thread of the wave holds of the active ones. -/
theorem each_active (w : Wave) (he : w.episode = none) (h : 0 < w.threads.length ∧ w.threads.length ≤ 32) {P : Nat → Prop}
    (hp : ∀ n, n < w.threads.length → P n) : ∀ n, (bundle w).issue.mask.getLsbD n = true → P n :=
  fun n hn => hp n ((running w he h).inside n hn)

/-- One thread with v0:v1 = 0x1040, an address in the placed page. -/
def one : Wave := waveOf [th0 [0x1040]]
theorem one_runs : (bundle one).Running one := running one rfl (by decide)
theorem one_each {P : Nat → Prop} (h : P 0) : ∀ n, (bundle one).issue.mask.getLsbD n = true → P n :=
  each_active one rfl (by decide) fun n hn => by
    have : n = 0 := by simpa [one, waveOf] using hn
    exact this ▸ h
/-- With nothing outstanding no name is taken. -/
theorem fresh_of {s : State} (ha : s.accs = []) (hc : s.cmds = []) : s.Fresh := ⟨by simp [ha], by simp [hc], by simp [ha], by simp [hc]⟩
theorem fresh_bundle (w : Wave) : (bundle w).Fresh := fresh_of rfl rfl

theorem witness_Compares : (bundle pair).Running pair ∧ pair.role ≠ .vent ∧ Instr.fieldsOk (.icmp 1 13 0 1) = true ∧ Instr.fieldsOk (.fcmp 3 5 0 1) = true :=
  ⟨pair_runs, by decide, by decide, by decide⟩
theorem witness_PredicateMoves : (bundle one).Running one ∧ (3 : BitVec 2) ≠ 0 ∧ ∀ n, (bundle one).issue.mask.getLsbD n → (one.opnd n 0).psn = false :=
  ⟨one_runs, by decide, one_each (by decide)⟩
theorem witness_WaveOperations : (bundle one).Running one ∧ ∀ n, (bundle one).issue.mask.getLsbD n → (one.opnd n 0).psn = false :=
  ⟨one_runs, one_each (by decide)⟩
theorem witness_FloatArithmetic : (bundle pair).Running pair := pair_runs
/-- An exact value that does not overflow. -/
theorem witness_RoundingAndSpecials : (3 : Nat) ≠ 0 ∧ (fp32.round .rne false 3 0).2 &&& fOF = 0 := by decide
theorem witness_FloatFunctions : (bundle pair).Running pair ∧ 0 < 1 := ⟨pair_runs, by decide⟩
theorem witness_ConversionsAndScale : (bundle pair).Running pair := pair_runs
theorem witness_PackedFloats : (bundle pair).Running pair := pair_runs
theorem witness_ControlTransfers : (bundle one).Running one ∧ one.role ≠ .vent ∧
    (∀ n, (bundle one).issue.mask.getLsbD n → (one.opnd2 n 0).2 = false ∧ (one.opnd2 n 0).1.extractLsb' 0 2 = 0#2) ∧
    ∀ n, (bundle one).issue.mask.getLsbD n → (one.th n).lnk.extractLsb' 0 2 = 0#2 :=
  ⟨one_runs, by decide, one_each (by decide), one_each (by decide)⟩
theorem witness_PrefixesAndHints : (bundle pair).Running pair := pair_runs

/-- An access of thread 0 of the wave. -/
def acc (id : Nat) (k : AccKind) (st : AccStage) : Access :=
  { id := id, wave := 0, tid := 0, mask := 1, vd := 0, ctx := 0, word := 0, pc := 0x1000, kind := k, va := 0x1040, pa := 0x1040, keyid := 0, size := 4,
    data := 7, cmp := 0, psn := 0, dst := 16, nreg := 1, flags := [(0, 1)], cp := 1, core := 0, nokeep := false, stage := st, fp := 0, entry := none, wtag := 0, tmask := 1, req := id, far := false, group := [] }

/-- Allocations of 8 and 48 registers against granule counts 1, 6, 2 and 1; the last has a load to v16 outstanding. -/
theorem witness_RegisterAllocation :
    let s := bundle one
    s.Running one ∧ (∀ n ∈ [(1 : BitVec 3), 6], Instr.fieldsOk (.vgrow n) = true ∧ 8 * n.toNat ≤ one.alloc) ∧ one.alloc ≤ 8 * (6 : BitVec 3).toNat ∧
    8 * (1 : BitVec 3).toNat < one.alloc ∧ s.loadsAbove one.id 8 = false ∧
    (let w := { one with alloc := 8 }
     (bundle w).Running w ∧ w.alloc < 8 * (2 : BitVec 3).toNat) ∧
    State.loadsAbove { s with accs := [acc 1 .load .issued] } one.id 16 = true ∧ State.loadsAbove { s with accs := [acc 1 .load .issued] } one.id 17 = false :=
  ⟨one_runs, by decide, by decide, by decide, by decide, ⟨running _ rfl (by decide), by decide⟩, by decide, by decide⟩
theorem unsaved_bundle (w : Wave) (b : Nat) (h : ∀ i, w.loc ≠ .saved i) : (bundle w).Unsaved b := fun v hv _ => by
  have : v = w := by simpa [bundle] using hv
  exact this ▸ h
theorem witness_ExitAndRejoin : (bundle pair).Running pair ∧ (∀ i, pair.loc ≠ .saved i) ∧ (bundle pair).Unsaved pair.block :=
  ⟨pair_runs, (fun i h => by cases h), unsaved_bundle _ _ (fun i h => by cases h)⟩
theorem witness_FencesAndFlags : (bundle one).Running one ∧ (∀ n, (bundle one).issue.mask.getLsbD n → (one.opnd n 0).psn = false) ∧
    2 ≤ (2 : BitVec 3).toNat ∧ (1 : BitVec 3).toNat < 2 := ⟨one_runs, one_each (by decide), by decide, by decide⟩

/-- The same wave in a block with scratch, barriers and rings. -/
theorem runs_in (b : Block) (w : Wave) (h : (bundle w).Running w) : (inBlock b w).Running w := ⟨h.wave, h.calm, h.active, h.inside⟩

/-- A first arrival that does not complete a phase, and one that does. -/
theorem witness_BarrierArrival :
    let s := inBlock block2 one
    s.Running one ∧ one.role ≠ .vent ∧ s.Unsaved one.block ∧ s.issue.mask = 1#32 <<< 0 ∧ s.block? one.block = some block2 ∧ block2.bars.length = 16 ∧
    (∀ a ∈ [(0 : BitVec 6), 1], (one.opnd 0 a).psn = false ∧ a ≠ 63) ∧ (one.th 0).cond = .run ∧ (one.th 0).pc = s.issue.pc ∧ (block2.bar 15).all = false ∧
    (block2.bar 15).count + 1 < (one.opnd 0 0).val.toNat ∧ ¬(block2.bar 15).count + 1 < (one.opnd 0 1).val.toNat :=
  ⟨runs_in _ _ one_runs, by decide, unsaved_bundle one _ (fun i h => by cases h), by decide, by decide, by decide, by decide, by decide, by decide, by decide, by decide, by decide⟩

/-- A ring with a slot free and one filled, and a slot given to each side; a ring with none. -/
def ringNone : Ring := ⟨2, 16, 64, 0, 0, ⟨1, false⟩, ⟨1, false⟩, ⟨1, false⟩, ⟨1, false⟩⟩
def ringBoth : Ring := { ring2 with g := ⟨0, true⟩, k := ⟨1, false⟩ }
def block3 : Block := { block2 with rings := [ring2, ringNone, ringBoth, ring2, ring2, ring2, ring2, ringBoth] }
theorem witness_StageRings :
    let s := inBlock block3 one
    s.Running one ∧ one.role ≠ .vent ∧ s.block? one.block = some block3 ∧ block3.seq = none ∧
    block3.rings[(0 : BitVec 3).toNat]? = some ring2 ∧ ring2.free ≠ 0 ∧ ring2.filled ≠ 0 ∧
    block3.rings[(1 : BitVec 3).toNat]? = some ringNone ∧ ringNone.free = 0 ∧ ringNone.filled = 0 ∧ ringNone.u = ringNone.g ∧ ringNone.e = ringNone.k ∧
    block3.rings[(7 : BitVec 3).toNat]? = some ringBoth ∧ ringBoth.u ≠ ringBoth.g ∧ ringBoth.e ≠ ringBoth.k ∧
    ∀ v ∈ s.waves, v.episode = none ∧ ∀ th ∈ v.threads, th.cond = .run :=
  ⟨runs_in _ _ one_runs, by decide, by decide, by decide, by decide, by decide, by decide, by decide, by decide, by decide, by decide, by decide,
    by decide, by decide, by decide, by decide⟩

/-- An address in the placed page resolves at every width and for every kind of access. -/
theorem resolves (s : State) (w : Wave) (k : Kind) (va : DWord) (n pa : Nat)
    (h : va.toNat % n = 0 ∧ s.accRoom w.coreNo = true ∧ s.walkerBusy (s.bundleWho w va) va = false ∧ (s.resolve (s.bundleWho w va) k va false).2 = .ok pa 0 ∧
      pkgOf pa = s.fab.pkg ∧ isMemory (localOf pa) = true ∧ s.windowAt pa = none) :
    s.Resolves w k va n (s.resolve (s.bundleWho w va) k va false).1 pa 0 :=
  ⟨h.1, h.2.1, h.2.2.1, Prod.ext rfl h.2.2.2.1, h.2.2.2.2.1, h.2.2.2.2.2.1, h.2.2.2.2.2.2⟩

theorem one_resolves : ∀ k ∈ [Kind.read, .write, .atomic, .prefetch], ∀ n ∈ [1, 2, 4, 8, 16, 64],
    (bundle one).Resolves one k (one.opnd2 0 0).1 n ((bundle one).resolve ((bundle one).bundleWho one (one.opnd2 0 0).1) k (one.opnd2 0 0).1 false).1 0x1040 0 :=
  fun k hk n hn => resolves _ _ _ _ _ _ (by revert n; revert k; decide)

theorem one_address : (bundle one).issue.mask = 1#32 <<< 0 ∧ (one.opnd2 0 0).2 = false ∧ (one.opnd2 0 0).1 = 0x1040 ∧
    (one.opnd2 0 0).1 + immSigned (bundle one).issue.himm (0 : BitVec 8) 64 * 64 = 0x1040 := by decide

theorem witness_LoadIssue :
    let s := bundle one
    s.Running one ∧ s.Fresh ∧ s.issue.mask = 1#32 <<< 0 ∧ (one.opnd2 0 0).2 = false ∧
    (∀ n ∈ [1, 2, 4, 8, 16, 64], ∃ s1, s.Resolves one .read 0x1040 n s1 0x1040 0) ∧
    (∀ x ∈ [(0 : BitVec 2), 2], x ≠ 3 ∧ ∃ s1, (s.acquire one.coreNo 5).Resolves one .read 0x1040 (4 * 2 ^ x.toNat) s1 0x1040 0) ∧
    (one.opnd 0 2).psn = false ∧ (s.tlbFind (s.bundleWho one 0x1040) 0x1040).isSome = true ∧ ∃ s1, s.Resolves one .prefetch 0x1040 64 s1 0x1040 0 := by
  refine ⟨one_runs, fresh_bundle one, by decide, by decide, fun n hn => ⟨_, resolves _ _ _ _ _ _ ?_⟩, fun x hx => ⟨?_, _, resolves _ _ _ _ _ _ ?_⟩, by decide, by decide,
    _, resolves _ _ _ _ _ _ (by decide)⟩
  · revert n; decide
  · revert x; decide
  · revert x; decide

theorem witness_StoreIssues :
    let s := bundle one
    s.Running one ∧ s.Fresh ∧ s.issue.mask = 1#32 <<< 0 ∧ (one.opnd2 0 0).2 = false ∧ (one.opnd 0 4).psn = false ∧
    (∀ n ∈ [1, 2, 4, 8, 16, 64], ∃ s1, s.Resolves one .write 0x1040 n s1 0x1040 0) ∧ (∀ r, r ≤ 4 → one.sound 0 4 r) ∧
    ∀ f ∈ [(0 : BitVec 6), 7], (groupRegs one f 4 [0]).all (fun x => !x.2.2.psn) = true := by
  refine ⟨one_runs, fresh_bundle one, by decide, by decide, by decide, fun n hn => ⟨_, resolves _ _ _ _ _ _ ?_⟩, fun r hr j hj => ?_, by decide⟩
  · revert n; decide
  · have : ∀ j, j < 4 → (one.nth 0 4 j).psn = false := by decide
    exact this j (by omega)

theorem witness_AtomicIssue :
    let s := bundle one
    s.Running one ∧ s.Fresh ∧ s.issue.mask = 1#32 <<< 0 ∧ (one.opnd2 0 0).2 = false ∧ (one.opnd 0 4).psn = false ∧ (∀ r, r ≤ 4 → one.sound 0 4 r) ∧
    (∀ n ∈ [4, 8], ∃ s1, s.Resolves one .atomic 0x1040 n s1 0x1040 0) ∧ ∃ s1, s.Resolves one .read 0x1040 4 s1 0x1040 0 := by
  refine ⟨one_runs, fresh_bundle one, by decide, by decide, by decide, fun r hr => witness_StoreIssues.2.2.2.2.2.2.1 r hr, fun n hn => ⟨_, resolves _ _ _ _ _ _ ?_⟩,
    _, resolves _ _ _ _ _ _ (by decide)⟩
  revert n; decide

/-- The last and the first offset of every width that fit 128 bytes of scratch. -/
theorem witness_Scratch :
    (∀ c : BitVec 3, c.toNat ≤ 4 → ∀ o ∈ [0, 128 - 2 ^ c.toNat], let w := waveOf [th0 [BitVec.ofNat 32 o]]
      (w.opnd 0 0).psn = false ∧ ((w.opnd 0 0).val + immSigned (inBlock block2 w).issue.himm (0 : BitVec 5) 32 * BitVec.ofNat 32 (2 ^ c.toNat)).toNat = o ∧
      o % 2 ^ c.toNat = 0 ∧ o + 2 ^ c.toNat ≤ (inBlock block2 w).ssize w) ∧
    (inBlock block2 one).Running one ∧ one.sound 0 4 4 ∧ (inBlock block2 one).block? one.block = some block2 ∧ swf 0 block2.scratch = true :=
  ⟨by decide, runs_in _ _ one_runs, witness_StoreIssues.2.2.2.2.2.2.1 4 (by decide), by decide, by decide⟩

/-- The machine with accesses outstanding, one of which an event names. -/
def busy (l : List Access) (n : Nat) : State := { bundle one with accs := l, nextId := 9, ev := { (bundle one).ev with n := n } }
theorem fresh_busy (a : Access) (h : a.id = 1) : (busy [a] 1).Fresh :=
  ⟨by simp [busy, h], by simp [busy, bundle, State.reset], by simp [busy], by simp [busy, bundle, State.reset]⟩
theorem witness_HomeAccess : ∀ k ∈ [AccKind.load, .lda 5, .tld 3 0 false, .tldh, .pref, .store, .atomic .add true 2, .tste 3 0 false, .watch 1],
    let a := acc 1 k .issued
    (busy [a] 1).acc? (busy [a] 1).ev.n = some a ∧ a.stage = .issued ∧ isMemory (localOf a.pa) = true ∧ a.keyid = 0 ∧ (busy [a] 1).mem.wf = true ∧ a.size ≤ 64 ∧
    (busy [a] 1).Fresh ∧ (busy [a] 1).orderedBehind a = false ∧ (busy [acc 0 .store .issued, a] 1).orderedBehind a = true := by
  intro k hk
  have h : ∀ k ∈ [AccKind.load, .lda 5, .tld 3 0 false, .tldh, .pref, .store, .atomic .add true 2, .tste 3 0 false, .watch 1],
      let a := acc 1 k .issued
      ((busy [a] 1).acc? (busy [a] 1).ev.n = some a ∧ a.stage = .issued ∧ isMemory (localOf a.pa) = true ∧ a.keyid = 0 ∧ (busy [a] 1).mem.wf = true ∧ a.size ≤ 64) ∧
      (busy [a] 1).orderedBehind a = false ∧ (busy [acc 0 .store .issued, a] 1).orderedBehind a = true := by decide +kernel
  have h := h k hk
  exact ⟨h.1.1, h.1.2.1, h.1.2.2.1, h.1.2.2.2.1, h.1.2.2.2.2.1, h.1.2.2.2.2.2, fresh_busy _ rfl, h.2.1, h.2.2⟩

theorem bit_one (n : Nat) (h : (1 : BitVec 32).getLsbD n = true) : n = 0 := by
  have h : (1#32).getLsbD n = true := h
  rw [BitVec.getLsbD_one] at h
  simpa using h

theorem replied (a : Access) (st : AccStage) (h : a.wave = 0 ∧ a.tid = 0 ∧ a.mask = 1 ∧ a.stage = st ∧ a.entry = none) : (busy [a] a.id).Replied a one st where
  access := by simp [busy, State.acc?]
  stage := h.2.2.2.1
  wave := by rw [h.1]; rfl
  here := fun i hi => by cases hi
  calm := rfl
  tid := by rw [h.2.1]; decide
  mask := fun n hn => by rw [h.2.2.1] at hn; rw [bit_one n hn]; decide
  entry := h.2.2.2.2

theorem witness_LoadArrival : ∀ k ∈ [AccKind.load, .lda 5, .tld 3 0 false, .tldh], (busy [acc 1 k .performed] 1).Replied (acc 1 k .performed) one .performed :=
  fun k hk => replied _ _ (by revert k; decide)
theorem witness_RepliesAndWatches :
    (∀ k ∈ [AccKind.store, .tste 3 0 false, .atomic .add true 2, .watch 1], (busy [acc 1 k .performed] 1).Replied (acc 1 k .performed) one .performed) ∧
    (let a := acc 1 (.watch 1) .polled
     (busy [a] 1).ev.ok = false ∧ (busy [a] 1).acc? (busy [a] 1).ev.n = some a ∧ a.stage = .polled ∧ a.kind = .watch 1 ∧ a.keyid = 0) ∧
    (let a := acc 1 (.watch 1) .watching
     let x := { acc 2 .store .issued with tid := 1 }
     let s := busy [a, x] 2
     s.Fresh ∧ s.acc? a.id = some a ∧ a.stage = .watching ∧ a.keyid = 0 ∧ s.acc? s.ev.n = some x ∧ x.stage = .issued ∧ x.kind = .store ∧ x.keyid = 0 ∧
     isMemory (localOf x.pa) = true ∧ s.orderedBehind x = false ∧ 0 < x.size ∧ a.pa / 64 = s.podAddr 0 / 64 + localOf x.pa / 64) :=
  ⟨fun k hk => replied _ _ (by revert k; decide), by decide +kernel,
    ⟨by simp [busy, acc], by simp [busy, bundle, State.reset], by simp [busy, acc], by simp [busy, bundle, State.reset]⟩, by decide +kernel⟩
theorem witness_RefusedAccesses : ∀ k ∈ [AccKind.store, .load, .atomic .add true 2],
    (busy [acc 1 k (.refused 1)] 1).Replied (acc 1 k (.refused 1)) one (.refused 1) ∧ ((busy [acc 1 k (.refused 1)] 1).vd 0).ctl.optrap.getLsbD 0 = false ∧
    (busy [acc 1 k (.failed .absent 3)] 1).Replied (acc 1 k (.failed .absent 3)) one (.failed .absent 3) ∧ (acc 1 k (.failed .absent 3)).nreg ≠ 0 :=
  fun k hk => ⟨replied _ _ (by revert k; decide), by revert k; decide, replied _ _ (by revert k; decide), by revert k; decide⟩

theorem witness_OperatorCommands :
    let s := bundle one
    s.Running one ∧ s.Fresh ∧ s.issue.mask = 1#32 <<< 0 ∧ one.role ≠ .copy ∧ (∀ f ∈ [(0 : BitVec 6), 2, 4], (one.opnd 0 f).psn = false) ∧
    (one.opnd2 0 0).2 = false ∧ (∀ i ∈ [Instr.opinst 0 0 0, .opfree 0, .opqry 0 0 2, .opgrant 4 0 2, .opwait 0 0 2], s.room one 0 i = true) ∧
    ∃ s1, s.Permits one ((one.opnd2 0 0).1 + immSigned s.issue.himm (0 : BitVec 8) 64 * 128) 128 s1 :=
  ⟨one_runs, fresh_bundle one, by decide, by decide, by decide, by decide, by decide, _, by decide, by decide, Prod.ext rfl (by decide)⟩

/-- A wave of the copy role, and a block with a tile sequencer. -/
def copier : Wave := { one with role := .copy }
theorem witness_SignalsAndRoles :
    (inBlock (placedBlock 1 true) one).Running one ∧ one.role ≠ .vent ∧ one.role ≠ .copy ∧ (inBlock (placedBlock 1 true) one).block? one.block = some (placedBlock 1 true) ∧
    (placedBlock 1 true).seq.isSome = true ∧ (one.opnd (lowest (bundle one).issue.mask) 0).psn = false ∧
    (inBlock block2 copier).Running copier ∧ copier.role = .copy ∧ copier.role ≠ .vent ∧ block2.seq = none ∧ (inBlock block2 copier).block? copier.block = some block2 :=
  ⟨runs_in _ _ one_runs, by decide, by decide, by decide, by decide, by decide, runs_in _ _ (running _ rfl (by decide)), by decide, by decide, by decide, by decide⟩

/-- v0:v1 and v2:v3 hold addresses of the placed page, v4 an offset at which 64 bytes just fit the scratch. -/
def copies : Wave := waveOf [th0 [0x1040, 0, 0x1080, 0, 64]]
theorem witness_CopyCommands :
    let s := inBlock block2 copies
    s.Running copies ∧ s.Fresh ∧ s.issue.mask = 1#32 <<< 0 ∧ (copies.opnd2 0 0).2 = false ∧ (copies.opnd 0 0).psn = false ∧ copies.role ≠ .vent ∧
    (∀ k : BitVec 2, k ≠ 3 → let d : BitVec 6 := if k = 1 then 4 else 2
      let dst := if k = 1 then copies.arg 0 d else (copies.opnd2 0 d).1
      (if k = 1 then (copies.opnd 0 d).psn else (copies.opnd2 0 d).2) = false ∧ (copies.opnd2 0 0).1.toNat % 16 = 0 ∧ dst.toNat % 16 = 0 ∧
      (k = 1 → dst.toNat + 16 * (immUnsigned s.issue.himm (4 : BitVec 6) 32).toNat ≤ s.ssize copies)) ∧
    (∀ i ∈ [Instr.cpy 2 0 0 4, .gath 0, .scat 0, .cpyw 0, .shdwBind 2 0, .shdwFree 0, .publish 0 2], s.room copies 0 i = true) ∧
    after (.cpyw 0) s (fun u => u.cmds.map (·.bytes) == [s.mem.bytes 0x1040 64]) = true ∧
    ∀ n ∈ [32, 64], ∃ s1, s.Permits copies (copies.opnd2 0 0).1 n s1 :=
  ⟨runs_in _ _ (running _ rfl (by decide)), fresh_of rfl rfl, by decide, by decide, by decide, by decide,
    by decide, by decide, by decide +kernel, fun n hn => ⟨_, by revert n; decide, by decide, Prod.ext rfl (by revert n; decide)⟩⟩

/-- A collective under number 5 that has completed, and one that has not. -/
def coll5 (st : Option Nat) : Coll := ⟨5, 0, 1, 0, 0, 0, [], [], [], [], st⟩
def launch0 : Launch :=
  { uid := 3, id := 0, vd := 0, queue := 0, ctx := 0, recd := LaunchRec.ofBytes [], dispatched := true, placed := 0, ended := 0, keyid := 0, trapped := false,
    killed := false, parked := 0, status := 0, evDone := false }
/-- v0 = 0x1040, v2 = 5, the number of the collective; launch id 0 is the only one issued. -/
def asker : Wave := waveOf [th0 [0x1040, 0, 5]]
def asks (n : Nat) (c : List Coll) (l : List Launch) : State := ({ bundle asker with collCount := n, colls := c, launches := l }).mapVd 0 fun v => { v with nextLaunch := 1 }
theorem witness_CollectivesAndLaunches :
    let s := asks 6 [] []
    let x := (asker.opnd 0 2).val
    s.Running asker ∧ s.Fresh ∧ s.issue.mask = 1#32 <<< 0 ∧ asker.role ≠ .copy ∧ (asker.opnd2 0 0).2 = false ∧ (asker.opnd 0 2).psn = false ∧
    (∀ i ∈ [Instr.coll 2 0, .mcast 0, .launch 2 0 2], s.room asker 0 i = true) ∧ (∀ n ∈ [64, 256], ∃ s1, s.Permits asker (asker.opnd2 0 0).1 n s1) ∧ s.colls.find? (fun y => y.num == x.toNat) = none ∧
    (∀ n ∈ [6, 5 + 4096], ∀ st ∈ [some 0, none], (asks n [coll5 st] []).colls.find? (fun y => y.num == x.toNat) = some (coll5 st) ∧
      1 ≤ (BitVec.ofNat 32 (asks n [coll5 st] []).collCount - x).toNat ∧ (BitVec.ofNat 32 (asks n [coll5 st] []).collCount - x).toNat ≤ 4096) ∧
    s.unissued asker.agentVd (asker.opnd 0 2).val = true ∧ s.unissued asker.agentVd (asker.opnd 0 3).val = false ∧
    (asks 6 [] [launch0]).launches.any (fun l => l.vd == asker.agentVd && l.id == (asker.opnd 0 3).val) = true :=
  have r : (bundle asker).Running asker := running _ rfl (by decide)
  ⟨⟨r.wave, r.calm, r.active, r.inside⟩, fresh_of rfl rfl,
    by decide, by decide, by decide, by decide, by decide, fun n hn => ⟨_, by revert n; decide, by decide, Prod.ext rfl (by revert n; decide)⟩, by decide, by decide, by decide, by decide, by decide⟩

/-- A VD table entry whose service 0 goes to call ring 0 of 4 slots at 0x2000 with queue 255. -/
def serving : State := (bundle one).mapVd 0 fun v =>
  { v with entry := some (zeros 0xA0 ++ leBytes 8 0x2000 ++ leBytes 4 (2 ^ 31 + 255 * 65536 + 3) ++ zeros 0x74 ++ [0x80]) }
theorem witness_ComputeCalls :
    (bundle one).Running one ∧ one.role ≠ .vent ∧ (bundle one).issue.mask = 1#32 <<< 0 ∧ (one.opnd2 0 0).2 = false ∧ (bundle one).serviceRing one.vd 0 = none ∧
    serving.Running one ∧ serving.serviceRing one.vd 0 = some (0, 0x2000, 4, 255) ∧ serving.nextCall one.vd = some 0 ∧ serving.mem.wf = true ∧ one.vd < 64 ∧
    serving.waves.find? (Wave.waitsOn 255) = none ∧ ((serving.vd one.vd).ring 0).next % 4 ∉ ((serving.vd one.vd).ring 0).unserved.map (·.1) ++ ((serving.vd one.vd).ring 0).held :=
  ⟨one_runs, by decide, by decide, by decide, by decide, ⟨one_runs.wave, rfl, one_runs.active, one_runs.inside⟩, by decide +kernel, by decide +kernel, by decide, by decide,
    by decide, by decide⟩

/-- A Vent thread at a level, on processor 0, with 0x1040 in v0. -/
def vent (lv : Level) : Wave := { Wave.vent (ventId 0 0) 0 0 lv 0x1000 0 with threads := [th0 [0x1040]] }
theorem vent_runs (lv : Level) : (bundle (vent lv)).Running (vent lv) := running _ rfl (by cases lv <;> decide)
theorem witness_VentTraps : ∀ lv ∈ [Level.u, .s, .m], (bundle (vent lv)).Running (vent lv) ∧ (vent lv).role = .vent ∧ (vent lv).threads = [th0 [0x1040]] ∧
    (bundle (vent lv)).issue.mask = 1#32 ∧ (bundle (vent lv)).mem.wf = true ∧ ((vent lv).opnd2 0 0).2 = false ∧ ((vent lv).opnd 0 0).psn = false ∧ (vent lv).level = lv ∧
    (bundle (vent lv)).mem.val ((bundle (vent lv)).frameOf (vent lv) lv) 8 % 4 = 0 ∧
    (let s := { bundle (vent lv) with mem := (Memory.mk [] []).store 0 [1] }
     s.Running (vent lv) ∧ s.mem.wf = true ∧ s.mem.val (s.frameOf (vent lv) lv) 8 % 4 ≠ 0) :=
  fun lv h => ⟨vent_runs lv, by revert lv; decide, by revert lv; decide, by revert lv; decide, by revert lv; decide, by revert lv; decide, by revert lv; decide,
    by revert lv; decide, by revert lv; decide, ⟨(vent_runs lv).wave, (vent_runs lv).calm, (vent_runs lv).active, (vent_runs lv).inside⟩, by revert lv; decide, by revert lv; decide⟩

/-- Partition 0 with quad 0, all of HBM4E, Vent processor 0 and VD 0, whose SYSVD is VD 0; its bytes as R380 lays them out. -/
def partBytes : List Byte := leBytes 4 1 ++ leBytes 2 0 ++ leBytes 2 1 ++ List.replicate 32 0xFF ++ leBytes 8 1 ++ [0, 1, 0, 0] ++ leBytes 2 4 ++ leBytes 2 1 ++ leBytes 8 0x10000
def part0 : PartDesc := PartDesc.ofBytes partBytes
def owned (s : State) : State := s.mapPart 0 fun x => { x with desc := some part0, pstate := 1 }
theorem runs_owned {s : State} {w : Wave} (h : s.Running w) : (owned s).Running w := ⟨h.wave, h.calm, h.active, h.inside⟩

/-- Queue 64 (v0 = 0x1040 modulo 256) open to any thread of partition 0, and a Vent thread that waits for it or not. -/
def waiter : Wave := { Wave.vent (ventId 0 1) 0 1 .s 0x2000 0 with queue := 0x40, threads := [{ th0 [] with cond := .blocked .wfi }] }
def queued (l : List Wave) : State := { (owned (bundle one)).mapQueue 0x40 fun x => { x with own := 0x180 } with waves := one :: l }
theorem witness_QueuesAndErrors :
    (bundle one).Running one ∧ (bundle one).issue.mask = 1#32 <<< 0 ∧ (one.opnd 0 0).psn = false ∧ (one.opnd 0 2).psn = false ∧
    (bundle one).mayNotify one 0x40 = false ∧ one.role ≠ .vent ∧ (one.opnd 0 0).val.toNat % 256 = 0x40 ∧
    (∀ l ∈ [[], [waiter]], (queued l).mayNotify one 0x40 = true ∧ (queued l).wave? 0 = some one ∧ (queued l).waves.find? (Wave.waitsOn 0x40) = l.head?) ∧
    waiter.id ≠ one.id ∧ waiter.threads ≠ [] ∧ (queued [waiter]).wave? waiter.id = some waiter ∧
    (bundle one).Fresh ∧ (bundle one).room one 0 (.errpop 2 0) = true ∧ (one.opnd2 0 0).2 = false ∧ (one.opnd2 0 0).1.toNat % 32 = 0 :=
  ⟨one_runs, by decide, by decide, by decide, by decide, by decide, by decide, by decide +kernel, by decide, by decide, by decide, fresh_bundle one, by decide, by decide, by decide⟩

/-- A caller of VD 0 on a lane that waits for the reply of call 0x1040 (its VD by bits 17 to 12 is 1: the table of VD 1 lists it). -/
def caller : Wave := { waveOf [{ th0 [] with cond := .blocked (.svc (some 0x1040)) }] with vd := 1 }
def calls : State := { ((bundle (vent .m)).mapVd 1 fun v => { v with calls := [⟨0x1040, 0, 0, 46⟩] }) with waves := [vent .m, caller] }
theorem witness_PrivilegedInstructions :
    let s := bundle (vent .m)
    let w := vent .m
    s.Running w ∧ s.Fresh ∧ s.issue.mask = 1#32 ∧ (w.opnd 0 0).psn = false ∧ (w.opnd 0 2).psn = false ∧ (∀ v, s.reaches w v = true) ∧ (w.opnd2 0 0).2 = false ∧
    (w.opnd2 0 2).2 = false ∧ (s.vd 1).calls.find? (fun k => k.callid == (w.opnd 0 0).val) = none ∧
    (∀ i ∈ [Instr.tlbinvPage 0 2, .tlbinvContext 0 2, .tlbinvVd 0 2, .keyload 4 0 2, .keyrevoke 4 0], s.room w 0 i = true) ∧
    (∃ s1, s.Permits w (w.opnd2 0 0).1 64 s1) ∧ (w.opnd 0 2).val.toNat % 512 = 0 ∧ (w.opnd 0 0).val.toNat % 512 ≠ 0 ∧
    (owned s).qosStatus 0 0 1024 1 = 0 ∧ (owned s).qosStatus 0 0 1025 1 = 1 ∧ (w.opnd 0 0).val.toNat / 4096 % 64 = 1 ∧
    (calls.vd 1).calls.find? (fun k => k.callid == (w.opnd 0 0).val) = some ⟨0x1040, 0, 0, 46⟩ ∧ calls.wave? 0 = some caller ∧ caller.lane?.isSome = true ∧
    caller.id ≠ w.id ∧ (46 : Nat) < 47 ∧ (0 : Nat) < min 32 caller.threads.length ∧ (caller.th 0).cond = .blocked (.svc (some 0x1040)) :=
  ⟨vent_runs .m, fresh_bundle _, by decide, by decide, by decide, fun _ => rfl, by decide, by decide, by decide, by decide, ⟨_, by decide, by decide, Prod.ext rfl (by decide)⟩, by decide, by decide,
    by decide +kernel, by decide +kernel, by decide, by decide +kernel, by decide, by decide, by decide, by decide, by decide, by decide⟩

/-- No launch live, one live launch of VD 0 (v2 = 0) named by its id 0, and all of a context. -/
theorem witness_ContextInstructions :
    let w := { vent .m with threads := [th0 [0, 0, 0, 0, 0xFFFFFFFF]] }
    let s := bundle w
    s.Running w ∧ s.Fresh ∧ s.issue.mask = 1#32 ∧ (∀ f ∈ [(0 : BitVec 6), 2, 4], (w.opnd 0 f).psn = false) ∧ (∀ k ∈ s.blocks, k.id ≠ w.block) ∧
    s.reaches w 0 = true ∧ (w.opnd 0 2).val ≠ 0xFFFFFFFF ∧ s.named 0 0 (w.opnd 0 2).val = [] ∧ (w.opnd 0 4).val = 0xFFFFFFFF ∧
    State.named { s with launches := [launch0] } 0 0 (w.opnd 0 2).val = [launch0] :=
  ⟨running _ rfl (by decide), fresh_bundle _, by decide, by decide, by decide, by decide, by decide, by decide, by decide, by decide⟩

/-- Tables of VD 0, context 0, in memory: five levels of one entry to a 2 MiB leaf for 0x200000 and a 4 KiB leaf for 0x1000. -/
def tables : Memory :=
  let e (m : Memory) (a x : Nat) := m.store a (leBytes 8 x)
  let next (n : Nat) := 1 + n / 4096 * 2048
  e (e (e (e (e (e ⟨[], []⟩ 0x10000 (next 0x11000)) 0x11000 (next 0x12000)) 0x12000 (next 0x13000)) 0x13000 (next 0x14000)) 0x13008 (0xFB + 0x200000 / 2)) 0x14008 (0xFB + 0x1000 / 2)
def paged (s : State) : State := { s.mapVd 0 fun v => { v with entry := some (leBytes 8 (0x10000 + 1)) } with mem := tables }
def leafOf : WalkRes → Option (Nat × DWord × Nat)
  | .leaf a e size _ => some (a, e, size)
  | .fault _ _ => none
theorem leaf_found {r : WalkRes} {x : Nat × DWord × Nat} (h : leafOf r = some x) : ∃ path, r = .leaf x.1 x.2.1 x.2.2 path := by
  cases r with
  | leaf a e size path => exact ⟨path, by cases h; rfl⟩
  | fault c path => cases h
theorem no_leaf {r : WalkRes} (h : leafOf r = none) : ∃ c path, r = .fault c path := by
  cases r with
  | leaf a e size path => cases h
  | fault c path => exact ⟨c, path, rfl⟩
theorem witness_SplitPage :
    let w := { vent .m with threads := [th0 [0x200000, 0, 0x1000, 0, 0x20000]] }
    let s := paged (bundle w)
    s.Running w ∧ s.Fresh ∧ s.issue.mask = 1#32 ∧ (∀ f ∈ [(0 : BitVec 6), 2, 4], (w.opnd2 0 f).2 = false) ∧ (w.opnd 0 6).psn = false ∧ s.reaches w 0 = true ∧
    (∃ c path, s.walk 128 0 0 (w.opnd2 0 4).1 true = .fault c path) ∧
    (∃ path, s.walk 128 0 0 (w.opnd2 0 2).1 true = .leaf 0x14008 (0xFB + 0x800) 4096 path) ∧ (4096 : Nat) ≠ 2 ^ 21 ∧
    (∃ path, s.walk 128 0 0 (w.opnd2 0 0).1 true = .leaf 0x13008 (0xFB + 0x100000) (2 ^ 21) path) ∧ w.level = .m ∧
    (let page := (w.opnd2 0 4).1.toNat
     pkgOf 0x13008 = s.fab.pkg ∧ page < 2 ^ 52 ∧ pkgOf page = s.fab.pkg ∧ page % 4096 = 0 ∧ isMemory (localOf page) = true ∧ s.mem.wf = true ∧ localOf 0x13008 + 8 ≤ localOf page) :=
  have r := running { vent .m with threads := [th0 [0x200000, 0, 0x1000, 0, 0x20000]] } rfl (by decide)
  ⟨⟨r.wave, r.calm, r.active, r.inside⟩, fresh_of rfl rfl, by decide, by decide,
    by decide, by decide, no_leaf (by decide +kernel), leaf_found (x := (0x14008, 0xFB + 0x800, 4096)) (by decide +kernel), by decide,
    leaf_found (x := (0x13008, 0xFB + 0x100000, 2 ^ 21)) (by decide +kernel), by decide, by decide +kernel⟩

/-- A valid descriptor at 0x2000 for a free partition, none at 0x4000; a running partition 0 and a descriptor at 0x3000 that differs in its quads. -/
def quadBytes : List Byte := leBytes 4 2 ++ partBytes.drop 4
def booter : Wave := { vent .m with id := ventId 15 0, loc := .vent 15 0, threads := [th0 [0, 0, 0x2000, 0, 0x3000, 0, 0x4000]] }
def booting : State := { bundle booter with mem := ((Memory.mk [] []).store 0x2000 partBytes).store 0x3000 quadBytes }
theorem witness_PartitionControl :
    let w := booter
    let s := booting
    s.Running w ∧ s.Fresh ∧ s.issue.mask = 1#32 ∧ (w.opnd 0 0).psn = false ∧ (∀ f ∈ [(2 : BitVec 6), 4, 6], (w.opnd2 0 f).2 = false) ∧
    (∀ k ∈ s.blocks, k.id ≠ w.block) ∧ (s.part 0).desc = none ∧
    (∀ f ∈ [(2 : BitVec 6), 4, 6], let a := (w.opnd2 0 f).1.toNat
      a + 64 ≤ 2 ^ 45 ∧ isMemory a = true ∧ isMemory (a + 63) = true) ∧
    s.mem.bytes (w.opnd2 0 2).1.toNat 64 = partBytes ∧ s.mem.bytes (w.opnd2 0 4).1.toNat 64 = quadBytes ∧ s.descValid 0 part0 = true ∧
    s.descValid 0 (PartDesc.ofBytes (s.mem.bytes (w.opnd2 0 6).1.toNat 64)) = false ∧ w.id ≠ ventId (lowestBit part0.vent) 0 ∧
    ((owned s).part 0).desc = some part0 ∧ ((owned s).part 0).pstate = 1 ∧ ((owned s).part 0).leaving = 0 ∧
    (PartDesc.ofBytes quadBytes).raw.drop 4 = part0.raw.drop 4 ∧ (owned s).descValid 0 (PartDesc.ofBytes quadBytes) = true :=
  have r : (bundle booter).Running booter := running _ rfl (by decide)
  ⟨⟨r.wave, r.calm, r.active, r.inside⟩, fresh_of rfl rfl, by decide, by decide,
    by decide, by decide, by decide, by decide, by decide +kernel, by decide +kernel, by decide +kernel, by decide +kernel, by decide, by decide +kernel, by decide +kernel,
    by decide +kernel, by decide, by decide +kernel⟩

/-! Tile commands: a sequencer with one entry in its window, and an operator that fits its cluster. -/

def opBytes (mode : Nat) : List Byte :=
  leBytes 2 8 ++ leBytes 2 16 ++ [0x11, 0x11, 0x08, BitVec.ofNat 8 mode] ++ leBytes 8 0x1040 ++ leBytes 4 2 ++ leBytes 4 64 ++ leBytes 8 0x10C0 ++ leBytes 4 64 ++ zeros 4 ++
    leBytes 8 0x2000 ++ zeros 16 ++ leBytes 4 0xE3000000 ++ zeros 60
/-- Its two input slots at 0x1040, its two output slots at 0x10C0; only agents of VD 0 on this package are admitted. -/
def op2 (mode : Nat) : Operator :=
  { uid := 2, handle := 1, vd := 0, ctx := 0, lead := 0, desc := opBytes mode, iw := [65, 66], ow := [67, 68], bank := false, bankA := some (zeros 4), bankB := some (zeros 4),
    perm := [0xE3000000, 0, 0, 0, 0, 0, 0, 0], ins := [], outs := [], old := false }
def entry (w : Word) : SeqEntry := ⟨0, w, 0x1000, false, 0, 0, 0, 0⟩
def putQ : Nat → List DWord → Vector DWord 32 → Vector DWord 32
  | _, [], v => v
  | n, x :: l, v => putQ (n + 1) l (v.setIfInBounds n x)
def seqOf (w : Word) (q : List DWord) : Seq :=
  ⟨0x1004, putQ 0 q (Vector.replicate 32 0), 0, [entry w], 1, false, false⟩
def tblock (w : Word) (q : List DWord) : Block := { block3 with seq := some (seqOf w q), arows := 4, acols := 8 }
def tiled (w : Word) (q : List DWord) : State := { inBlock (tblock w q) one with ops := [op2 0] }
theorem tile_now (w : Word) (q : List DWord) : (tiled w q).Tile (tblock w q) (seqOf w q) (entry w) := ⟨rfl, rfl, rfl, rfl⟩

/-- q0 = 1, q1 = 2, q2 = 0x2000, q3 = 0x2002, q4 the last row of the rectangle under operator 1, q5 ring 0, q6 ring 1, q7 ring 7 freed. -/
def qs : List DWord := [1, 2, 0x2000, 0x2002, BitVec.ofNat 64 (2 ^ 32 + 8 * 2 ^ 21 + 2 ^ 10 + 3), 0, 1, 0x107]
theorem witness_TileControl :
    let w : Word := 0x0C500145
    let b := tblock w qs
    let q := seqOf w qs
    let s := tiled w qs
    s.Tile b q (entry w) ∧ q.reg 0 - 1 = 0 ∧ q.reg 1 - 1 ≠ 0 ∧ (q.reg 2).extractLsb' 0 2 = 0#2 ∧ (q.reg 3).extractLsb' 0 2 ≠ 0#2 ∧ (b.region (q.reg 4)).isSome = true ∧
    swf Reg.zero b.acc = true ∧ b.acols ≤ 1024 ∧ s.handleOp b.vd b.ctx ((q.reg 0).toNat % 256) = some (op2 0) ∧ s.op? (op2 0).uid = some (op2 0) ∧
    (op2 0).spare = some (zeros 4) ∧ decodeWord (entry w).word = .ok (.tring 0 0 5 5) ∧
    b.rings[(q.reg 5).toNat % 8]? = some ring2 ∧ (q.reg 5).getLsbD 8 = false ∧ ring2.filled ≠ 0 ∧
    b.rings[(q.reg 6).toNat % 8]? = some ringNone ∧ (q.reg 6).getLsbD 8 = false ∧ ringNone.filled = 0 ∧
    b.rings[(q.reg 7).toNat % 8]? = some ringBoth ∧ (q.reg 7).getLsbD 8 = true ∧ ringBoth.e ≠ ringBoth.k ∧
    (∀ v ∈ s.waves, v.episode = none ∧ ∀ th ∈ v.threads, th.cond = .run) ∧
    (tiled 0x0C500146 qs).Tile (tblock 0x0C500146 qs) (seqOf 0x0C500146 qs) (entry 0x0C500146) ∧ decodeWord (entry 0x0C500146).word = .ok (.tring 0 0 5 6) :=
  ⟨tile_now _ _, by decide, by decide, by decide, by decide, by decide, by decide, by decide, by decide +kernel, by decide, by decide, rfl, by decide, by decide, by decide,
    by decide, by decide, by decide, by decide, by decide, by decide, by decide, tile_now _ _, rfl⟩

/-- q8 = scratch offset 64, at which 64 bytes just fit, q9 = scratch 120, q10 a row in FP32 without an operator. -/
def qm : List DWord := qs ++ [BitVec.ofNat 64 (2 ^ 62 + 64), BitVec.ofNat 64 (2 ^ 62 + 120), BitVec.ofNat 64 (8 * 2 ^ 40 + 8 * 2 ^ 21 + 2 ^ 10)]
def tileCmd (prog : Nat) : Cmd :=
  { id := 4, no := 0, eng := .oe, wave := 0, tid := 0, mask := 0, vd := 0, ctx := 0, block := 1, core := 0, flags := [], op := .tile 0 0, a := BitVec.ofNat 64 (2 ^ 62 + 120), b := 7,
    bytes := [], dst := 64, prog := prog, status := 0, deadline := 0, stage := .queued, buf := none, wtag := 0 }
theorem witness_TileMemory :
    let w : Word := 0x0C600241
    let b := tblock w qm
    let q := seqOf w qm
    let s := tiled w qm
    s.Tile b q (entry w) ∧ s.Fresh ∧
    (∃ r, b.region (q.reg 4) = some r ∧ s.tileOp b r = some (op2 0) ∧ placeOf (q.reg 8) = .scratch 64 ∧ 64 + r.count * (op2 0).d.inBytes ≤ b.ssize) ∧
    (∃ r, b.region (q.reg 10) = some r ∧ tileCount r.fmt = some 15 ∧ 64 + 64 * r.count * ((r.cols + 15 - 1) / 15) ≤ b.ssize) ∧
    (q.reg 9).toNat % 8 = 0 ∧ placeOf (q.reg 9) = .scratch 120 ∧ 120 + 8 ≤ b.ssize ∧
    ∀ n ∈ [0, 1], let u := { s with cmds := [tileCmd n], ev := { s.ev with n := 0, m := 0 } }
      u.seqBlock u.ev.n = some b ∧ u.block? b.id = some b ∧ b.seq = some q ∧ q.win.find? (fun z => z.no == u.ev.m) = some (entry w) ∧
      u.cmds.find? (fun z => z.op == .tile u.ev.n u.ev.m) = some (tileCmd n) ∧ u.heldBack (tileCmd n) = false ∧ (tileCmd n).prog = n ∧
      placeOf (tileCmd n).a = .scratch 120 ∧ swf 0 b.scratch = true :=
  ⟨tile_now _ _, fresh_of rfl rfl, ⟨_, rfl, by decide +kernel, by decide, by decide⟩,
    ⟨_, rfl, by decide, by decide⟩, by decide, by decide, by decide, by decide +kernel⟩
theorem witness_TileMemory_word : tileFate 0x0C600241 = .inl (.tsig 0 0 9 1) := rfl

/-! The work of commands: a command of the wave, which an event names. -/

def cmdOf (op : CmdOp) (e : Engine) (a b : DWord) : Cmd :=
  { id := 1, no := 0, eng := e, wave := 0, tid := 0, mask := 1, vd := 0, ctx := 0, block := 1, core := 0, flags := [(0, 2)], op := op, a := a, b := b, bytes := [], dst := 2,
    prog := 0, status := 0, deadline := 0, stage := .queued, buf := none, wtag := 0 }
/-- Placed pages that the copy engine of cluster 0 and the engines of the package find. -/
def pages : List TlbEntry := [placedPage 0, { placedPage 0 with place := .cluster 0 }, { placedPage 0 with place := .cluster 128 }]
def working (l : List Cmd) : State := { busy [] 1 with cmds := l, tlb := pages }
theorem works (s : State) (c : Cmd) (h : s.cmd? s.ev.n = some c ∧ s.wave? c.wave = some one ∧ c.tid = 0 ∧ c.mask = 1) : s.Works c one where
  command := h.1
  wave := h.2.1
  here := fun i hi => by cases hi
  calm := rfl
  tid := by rw [h.2.2.1]; decide
  mask := fun n hn => by rw [h.2.2.2] at hn; rw [bit_one n hn]; decide

def opCmds (b : DWord) : List Cmd := [CmdOp.opqry, .opwait, .opswap, .opfree, .opgrant, .opfire, .opdrop].map fun op => cmdOf op .oe 1 b
/-- Slot 1 of the operator's input claimed until cycle 0, slot 1 of its output ready. -/
def op3 (mode : Nat) : Operator := { op2 mode with ins := [⟨1, .claimed, 5, 0, 0, zeros 64, []⟩], outs := [⟨1, true, 7, zeros 64, false, []⟩] }
/-- No operator of the handle; operator 1 and its last slot; a bank loaded and none; a permission refused by its bits and one by its index, and a valid one. -/
theorem witness_OperatorArrivals :
    (∀ c ∈ opCmds 1, (working [c]).Works c one ∧ (working [c]).handleOp c.vd c.ctx c.a.toNat = none ∧ c.stage = .queued ∧ c.deadline = 0) ∧
    (∀ c ∈ opCmds 1, let s := { working [c] with ops := [op3 0] }
      s.Works c one ∧ c.stage = .queued ∧ (c.op = .opfree → ∀ y ∈ s.cmds, y.op ≠ .opwait) ∧ s.handleOp c.vd c.ctx c.a.toNat = some (op3 0) ∧ s.op? (op3 0).uid = some (op3 0) ∧ (op3 0).spare = some (zeros 4) ∧
      s.fires.any (fun f => f.op == (op3 0).uid) = false ∧ c.b.toNat < (op3 0).d.slots) ∧
    ({ op3 0 with bankB := none } : Operator).spare = none ∧ ((op3 0).outSlot 1).ready = true ∧ ((op3 0).inSlot 1).st = .claimed ∧ ((op3 0).inSlot 1).late 9 = false ∧
    ((op3 0).inSlot 0).st ≠ .claimed ∧ permOk 0x80 = false ∧ permOk 0xE3000000 = true ∧ 7 < (highWord (0x8E3000000 : DWord)).toNat ∧ ¬7 < (highWord (0x7E3000000 : DWord)).toNat ∧
    (let c := { cmdOf .opwait .oe 1 0 with deadline := 5 }
     let s := { working [c] with ops := [op3 0], cycle := 5 }
     s.Works c one ∧ c.deadline ≠ 0 ∧ c.deadline ≤ s.cycle) :=
  ⟨fun c hc => ⟨works _ _ (by revert c; decide), by revert c; decide⟩, fun c hc => ⟨works _ _ (by revert c; decide), by revert c; decide⟩, by decide, by decide, by decide,
    by decide, by decide, by decide, by decide, by decide, by decide, works _ _ (by decide), by decide, by decide⟩

/-- Accesses of VD 0 and of VD 5 to input slot 0 (0x1040) and output slots 0 (not ready, 0x10C0) and 1 (ready, 0x1100). -/
def winAcc (k : AccKind) (pa vd size : Nat) : Access := { acc 1 k .issued with pa := pa, vd := vd, size := size }
def windowed (o : Operator) (a : Access) : State := { busy [a] 1 with ops := [o] }
theorem witness_OperatorWindows_accesses :
    (∀ n ∈ [4, 64], ∀ v ∈ [0, 5], let a := winAcc .store 0x1040 v n
      let s := windowed (op3 0) a
      s.ops[0]? = some (op3 0) ∧ s.op? (op3 0).uid = some (op3 0) ∧ s.acc? s.ev.n = some a ∧ s.windowAt a.pa = some (0, false, 0) ∧
      (op3 0).admits s.fab.pkg s.fab.pkg a.vd false = decide (v = 0) ∧ a.size ≤ 64 ∧ 0 % (op3 0).d.iws + a.size ≤ (op3 0).d.inBytes ∧ ((op3 0).inSlot (0 / (op3 0).d.iws)).st = .empty) ∧
    (∀ mode ∈ [0, 2], ∀ v ∈ [0, 5], ∀ j ∈ [0, 1], let a := winAcc .load (0x10C0 + 64 * j) v 64
      let s := windowed (op3 mode) a
      s.acc? s.ev.n = some a ∧ s.windowAt a.pa = some (0, true, 64 * j) ∧ (op3 mode).admits s.fab.pkg s.fab.pkg a.vd true = decide (v = 0) ∧
      64 * j % (op3 mode).d.ows + a.size ≤ (op3 mode).d.outBytes ∧ ((op3 mode).outSlot (64 * j / (op3 mode).d.ows)).ready = decide (j = 1) ∧ (op3 mode).d.mode / 2 % 2 = mode / 2) := by
  decide +kernel
def fire0 (run : Bool) : Fire := { oe := 0, op := 2, slot := 0, running := run, tile := none, input := zeros 72, res := [] }
theorem witness_OperatorWindows :
    let s := { busy [] 0 with ops := [op3 0], fires := [fire0 false] }
    let t := { busy [] 0 with ops := [op3 0], fires := [fire0 true] }
    let u := { busy [] 2 with ops := [{ op3 0 with ins := [⟨1, .claimed, 5, 0, 4, zeros 64, []⟩] }], ev := { (busy [] 2).ev with m := 1 }, cycle := 4 }
    let a := acc 1 .load (.unready 4)
    let v := { busy [a] 1 with cycle := 4 }
    s.fires.find? (fun f => f.oe == s.ev.n && s.mayStart f) = some (fire0 false) ∧ (∀ x ∈ s.fires, x.oe = s.ev.n → x.running = false) ∧ (fire0 false).tile = none ∧
    (fire0 false).op = (op3 0).uid ∧
    t.fires.find? (fun f => f.oe == t.ev.n && f.running) = some (fire0 true) ∧ t.fires.any (fun x => x.same (fire0 true) && x.oe != (fire0 true).oe && !x.done) = false ∧
    (let t2 : State := { t with fires := [fire0 true, { fire0 false with oe := 1 }] }
     t2.fires.find? (fun f => f.oe == t2.ev.n && f.running) = some (fire0 true) ∧ t2.fires.any (fun x => x.same (fire0 true) && x.oe != (fire0 true).oe && !x.done) = true) ∧ t.accs.all (fun b => match b.stage with | .unready _ => false | _ => true) = true ∧ t.fab.unready = [] ∧
    (∀ o ∈ u.ops, u.ev.n = o.uid ∧ (o.inSlot u.ev.m).st = .claimed ∧ (o.inSlot u.ev.m).deadline ≠ 0 ∧ (o.inSlot u.ev.m).deadline ≤ u.cycle) ∧
    v.ev.ok = false ∧ v.acc? v.ev.n = some a ∧ a.stage = .unready 4 ∧ 4 ≤ v.cycle := by
  refine ⟨by decide, by decide, by decide, by decide, by decide, by decide, by decide, by decide, by decide, by decide, by decide, by decide +kernel, by decide, by decide⟩

/-- A launch record of one block of one wave of 32 threads, and one without a block. -/
def recBytes (grid : Nat) : List Byte := leBytes 8 0x1000 ++ zeros 24 ++ leBytes 2 grid ++ [1, 32, 0, 0, 8, 0] ++ zeros 216
def copy0 (src dst : DWord) : Cmd := { cmdOf (.cpy 0) (.copy 0) 0 0 with bytes := cpyBytes src dst 1 0 }
theorem witness_EngineAndPrivilegedWork_copies :
    (let c := copy0 0x1040 0x104F
     let s := working [c]
     s.Works c one ∧ c.status = 0 ∧ c.prog = 0 ∧ c.deadline = 0 ∧ (CopyDesc.ofBytes c.bytes).dkind ≠ 1 ∧
     overlapsMod (CopyDesc.ofBytes c.bytes).src (CopyDesc.ofBytes c.bytes).dst (16 * (CopyDesc.ofBytes c.bytes).count) = true) ∧
    (let c := copy0 0x1040 0x1050
     let s := { working [c] with l2 := [⟨0, 3, 65, 0, false, false⟩] }
     s.Works c one ∧ s.heldBack c = false ∧ c.bytes = cpyBytes 0x1040 0x1050 1 0 ∧ c.buf = none ∧ overlapsMod 0x1040 0x1050 16 = false ∧
     s.resolve (s.cmdWho c) .read 0x1040 false = (s, .ok 0x1040 0) ∧ s.resolve (s.cmdWho c) .write 0x1050 false = (s, .ok 0x1050 0) ∧ pkgOf 0x1040 = s.fab.pkg ∧
     pkgOf 0x1050 = s.fab.pkg ∧ s.windowAt 0x1040 = none ∧ s.windowAt 0x1050 = none ∧ isMemory (localOf 0x1040) = true ∧ isMemory (localOf 0x1050) = true ∧
     s.walkerBusy (s.cmdWho c) 0x1040 = false ∧ s.walkerBusy (s.cmdWho c) 0x1050 = false ∧ s.inL2 (localOf 0x1040 / 64) = true ∧ s.inL2 (localOf 0x1050 / 64) = true ∧
     localOf 0x1040 / 64 ∉ s.badLines ∧ s.mem.poison (localOf 0x1040 / 4 * 4) (localOf 0x1040 % 4 + 16) = 0 ∧ s.mem.wf = true) :=
  ⟨⟨works _ _ (by decide), by decide +kernel⟩, works _ _ (by decide), by decide, rfl, by decide, by decide, Prod.ext rfl (by decide), Prod.ext rfl (by decide), by decide⟩
theorem witness_EngineAndPrivilegedWork_launches : ∀ n ∈ [0, 1, 65535],
    let c := { cmdOf (.launch 15) .launch 0 0 with bytes := recBytes n }
    (working [c]).Works c one ∧ c.status = 0 ∧ c.bytes.length = 256 ∧ c.buf = none ∧ recordOk c.bytes = decide (n ≠ 0) ∧ (LaunchRec.ofBytes c.bytes).flags &&& 6 = 0 ∧
    (LaunchRec.ofBytes c.bytes).keyh = 0 ∧ c.vd < 64 := fun n hn => ⟨works _ _ ⟨rfl, rfl, rfl, rfl⟩, by revert n; decide +kernel⟩
/-- A shadowed range whose first backing shows, and one whose second does. -/
def shadow (gen : Word) : Shadow := ⟨3, 0, 0, 0x10000, 0x20000, 0, [0x10000], [0x20000], gen⟩
theorem witness_EngineAndPrivilegedWork_shadows :
    (let c := { cmdOf .bind .shadow 0 0 with bytes := zeros 32 }
     (working [c]).Works c one ∧ c.status = 0 ∧ c.bytes.length = 32 ∧ c.buf = none ∧ c.prog = 0 ∧ (working [c]).bindOk c = false) ∧
    (let c := cmdOf .free .shadow 3 0
     let s := { working [c] with shadows := [shadow 1] }
     s.Works c one ∧ s.cmdRange c = some (shadow 1) ∧ (shadow 1).gen.toNat % 2 = 1) ∧
    ∀ n ∈ [0, 2], ∀ p ∈ [0, 1], let c := { cmdOf (.publish n) .shadow 3 0 with prog := p }
      let s := { working [c] with shadows := [shadow 0] }
      s.Works c one ∧ s.cmdRange c = some (shadow 0) ∧ s.shadowDue c = true ∧ one.loc ≠ .gone :=
  ⟨⟨works _ _ (by decide), by decide⟩, ⟨works _ _ (by decide), by decide⟩, fun n hn p hp => ⟨works _ _ (by revert p n; decide), by revert p n; decide⟩⟩
/-- A descriptor that is not valid; the weights of a new operator read, and of a second bank of operator 1. -/
def okBytes : List Byte := leBytes 2 1 ++ (opBytes 0).drop 2
def installing (mode : Nat) : Cmd :=
  let d := leBytes 2 1 ++ (opBytes mode).drop 2
  { cmdOf .opinst .oe 0 1 with prog := 2, bytes := d ++ (if mode = 0 then leBytes 8 65 ++ leBytes 8 66 ++ leBytes 8 67 ++ leBytes 8 68 else []) ++ zeros 72 }
def hbm (s : State) : State := { owned s with parts := (owned s).parts.set! 0 { (owned s).part 0 with desc := some { part0 with vds := 1 } } }
theorem witness_EngineAndPrivilegedWork_installs :
    (let c := { cmdOf .opinst .oe 0 1 with bytes := zeros 128 }
     let s := working [c]
     s.Works c one ∧ c.status = 0 ∧ c.prog = 0 ∧ c.buf = none ∧ c.bytes.length = 128 ∧ s.installBehind c = false ∧ s.windowsBusy c = false ∧ ∃ s1, s.checkInstall c = (s1, .inl 0x10)) ∧
    (∀ m ∈ [0, 4], let c := installing m
     let d := OpDesc.ofBytes c.bytes
     let s := { working [c] with ops := if m = 0 then [] else [op3 0] }
     s.Works c one ∧ c.status = 0 ∧ c.prog = 2 ∧ c.bytes.length = d.head + d.m * blocksFor d.wf d.k * blkUnit ∧ d.second = decide (m = 4) ∧
     (m = 4 → s.handleOp c.vd c.ctx c.b.toNat = some (op3 0) ∧ s.op? (op3 0).uid = some (op3 0))) :=
  ⟨⟨works _ _ (by decide), by decide, by decide, by decide, by decide +kernel, by decide, by decide +kernel, _, Prod.ext rfl (by decide +kernel)⟩,
    fun m hm => ⟨works _ _ (by revert m; decide +kernel), by revert m; decide +kernel⟩⟩
/-- A new operator in a partition that owns cluster 0 passes the checks with its windows bound. -/
theorem test_install :
    (let c := { cmdOf .opinst .oe 0 1 with bytes := okBytes }
     ((hbm (working [c])).checkInstall c).2 = .inr ([65, 66], [67, 68])) := by decide +kernel
/-- What was wrapped is unwrapped, under a key of the test's own: the wrapping key is open (log 18). -/
theorem test_key_wrap : keyUnwrap 5 (keyWrap 5 (leBytes 32 0x0123456789)) = some (leBytes 32 0x0123456789) := by decide +kernel
theorem witness_EngineAndPrivilegedWork :
    (∀ op ∈ [CmdOp.tlbinv 0, .pgsplit, .ctxsave, .ctxkill, .keyrevoke], let c := cmdOf op .oe 7 0
      let s := working [c]
      s.Works c one ∧ s.ev.ok = false ∧ s.privReady c = true ∧ s.worldLaunches c.a.toNat = [] ∧ s.world? c.a.toNat = none ∧ s.ctxDone c = true ∧ s.killedRanges c = []) ∧
    (let c := cmdOf .errpop .oe 0x1040 0
     let s := working [c]
     s.Works c one ∧ c.stage = .queued ∧ c.status = 0 ∧ c.prog = 0 ∧ (s.vd c.vd).err.ring = [] ∧ ∀ x ∈ s.cmds, x.op = .errpop → x.vd = c.vd → x.id = c.id) ∧
    (let c := cmdOf (.tlbinv 2) .oe 0 0
     let s := { working [c] with accs := [{ acc 0 .load .issued with page := 4096 }] }
     s.Works c one ∧ s.privReady c = false) ∧
    (let c := cmdOf .ctxkill .oe 0 0
     let s := { working [c] with launches := [{ launch0 with killed := true }] }
     s.Works c one ∧ s.ctxDone c = false) ∧
    (let c := cmdOf .ctxkill .oe 0 0xFFFFFFFF
     let s := { working [c] with shadows := [shadow 0] }
     s.Works c one ∧ s.ctxDone c = true ∧ c.prog = 0 ∧ s.killedRanges c ≠ []) ∧
    (let c := { cmdOf .keyload .oe 0 0 with bytes := zeros 64 }
     let s := working [c]
     s.Works c one ∧ c.bytes.length = 64 ∧ c.buf = none ∧ c.status = 0 ∧ blobOk (c.b.toNat % 64) c.bytes = false ∧ s.freeKeyid = some 1 ∧ s.freeHandle 0 = some 1) :=
  ⟨fun op h => ⟨works _ _ (by revert op; decide), by revert op; decide⟩, ⟨works _ _ (by decide), by decide⟩, ⟨works _ _ (by decide), by decide⟩,
    ⟨works _ _ (by decide), by decide⟩, ⟨works _ _ (by decide), by decide⟩, works _ _ (by decide), by decide +kernel⟩

/-! Events of waves, faults and saves. -/

/-- The machine of a wave, with the fields of the event in progress. -/
def at' (w : Wave) (n m val : Nat) : State := { bundle w with ev := { (bundle w).ev with n := n, m := m, val := val } }
def standing (c : Cond) (limit : Nat) : Thread := { th0 [] with cond := c, limit := limit }
/-- What the clauses of WakingEvents have in common. -/
def Awake (s : State) (w : Wave) : Prop := s.wave? w.id = some w ∧ w.role ≠ .vent ∧ w.episode = none ∧ (∀ i, w.loc ≠ .saved i) ∧ w.threads.length ≤ 32
theorem awake (l : List Thread) (f : Wave → Wave) (n m : Nat) (h : (f (waveOf l)).id = 0 ∧ (f (waveOf l)).role = .vector ∧ (f (waveOf l)).episode = none ∧
    (f (waveOf l)).loc = .lane 0 0 0 ∧ (f (waveOf l)).threads.length ≤ 32) : Awake (at' (f (waveOf l)) n m 0) (f (waveOf l)) := by
  refine ⟨by simp [at', bundle, State.wave?], by rw [h.2.1]; decide, h.2.2.1, fun i => by rw [h.2.2.2.1]; simp, h.2.2.2.2⟩

theorem witness_WakingEvents :
    (let f : Wave → Wave := fun w => { w with j := w.j.set! 7 1 }
     let w := f (waveOf [standing (.blocked (.join 7)) 0])
     Awake (at' w 0 7 0) w ∧ w.arrived 7 = true ∧ (tids (w.mask 7)).all ((at' w 0 7 0).released w) = true) ∧
    (Awake (at' one 0 0 0) one ∧ one.arrived 0 = false) ∧
    (let w := waveOf [standing (.blocked (.join 7)) 5]
     let s := { at' w 0 0 0 with cycle := 5 }
     Awake s w ∧ (w.th s.ev.m).cond = .blocked (.join 7) ∧ w.resident = true ∧ (w.th s.ev.m).limit ≠ 0 ∧ (w.th s.ev.m).limit ≤ s.cycle) ∧
    (let w : Wave := { one with vshr := 16 }
     Awake (at' w 0 0 0) w ∧ w.vshr ≠ 0 ∧ (at' w 0 0 0).loadsAbove w.id w.vshr = false ∧ w.vshr < w.alloc) ∧
    (let w := waveOf [standing (.blocked (.bar 15 0)) 5]
     let blk : Block := { placedBlock 1 false with bars := List.replicate 16 ⟨0, 1, 2, false, 5⟩ }
     let s := { at' w 1 15 0 with blocks := [blk], cycle := 5 }
     Awake s w ∧ s.block? s.ev.n = some blk ∧ w.block = blk.id ∧ blk.onCore = true ∧ (blk.bar 15).limit ≠ 0 ∧ (blk.bar 15).limit ≤ s.cycle ∧
     s.ev.ok = false ∧ w.lane?.isSome = true ∧ (∀ v ∈ s.waves, v.block = blk.id → v = w) ∧ (w.th 0).cond = .blocked (.bar 15 (blk.bar 15).phase) ∧ (w.th 0).limit ≤ s.cycle) ∧
    (let w : Wave := { waveOf [standing (.blocked (.vgrow 16)) 0] with alloc := 8, vgt := 16 }
     let s := at' w 0 0 0
     Awake s w ∧ w.loc = .lane 0 0 0 ∧ s.ev.n = 64 * 0 + 16 * 0 + 0 ∧ oldestGrow (s.laneWaves 0 0 0) = some w ∧ w.vgt ≤ w.alloc + 8 * s.freeGranules 0 0 0) ∧
    (let w := waveOf [standing (.blocked .logfull) 0]
     Awake (at' w 0 0 0) w ∧ w.lane? = some (at' w 0 0 0).ev.n ∧ ((at' w 0 0 0).freeEntry 0).isSome = true) :=
  ⟨⟨awake _ (fun w => { w with j := w.j.set! 7 1 }) 0 7 (by decide), by decide, by decide⟩, ⟨awake _ id 0 0 (by decide), by decide⟩,
    ⟨⟨by decide, by decide, rfl, by simp [waveOf, placedWave], by decide⟩, by decide, by decide, by decide, by decide⟩,
    ⟨awake [th0 [0x1040]] (fun w => { w with vshr := 16 }) 0 0 (by decide), by decide, by decide, by decide⟩,
    ⟨⟨by decide, by decide, rfl, by simp [waveOf, placedWave], by decide⟩, by decide, by decide, by decide, by decide, by decide, by decide, by decide, by decide, by decide, by decide⟩,
    ⟨awake _ (fun w => { w with alloc := 8, vgt := 16 }) 0 0 (by decide), by decide, by decide, by decide, by decide⟩, ⟨awake _ id 0 0 (by decide), by decide, by decide⟩⟩

/-- A fault request of VD 0 for the page of 0x5000, and a ring of 4 entries at 0x4000 with queue 255, the DONE word of whose first entry holds a value. -/
def fault0 (ring : Option Nat) : FaultReq := ⟨7, 0, .page, 0, 0, 0x5000, 0, ring⟩
def ringed (s : State) : State := (owned s).mapPart 0 fun x => { x with fring := 0x4000, fringctl := BitVec.ofNat 32 (255 * 65536 + 4) }
theorem witness_FaultsAndTraps_requests :
    (let s := ringed { at' one 7 0 0 with faults := [fault0 none] }
     s.mem.wf = true ∧ s.faults.find? (fun f => f.seq == s.ev.n) = some (fault0 none) ∧ s.partOf 0 = some 0 ∧ s.nextFault 0 = some (fault0 none) ∧ s.faultSlot 0 = some 0x4000 ∧
     (s.part 0).faultRing = (0x4000, 4, 255)) ∧
    (∀ d ∈ [0, 1, 2, 3], let s := { at' one 7 0 0 with faults := [fault0 (some 0x4000)], mem := (Memory.mk [] []).store 0x4020 [BitVec.ofNat 8 d] }
     s.mem.wf = true ∧ s.faults.find? (fun f => f.seq == s.ev.n) = some (fault0 (some 0x4000)) ∧ s.mem.val (0x4000 + 32) 4 = d ∧ ∀ x ∈ s.accs, ∀ e k, x.stage ≠ .logged e k) ∧
    (∀ op ∈ [CmdOp.cpy 0, .coll], let c := { cmdOf op (.copy 0) 0 0 with stage := .faulted 0x5008 .page true }
      c.stage = .faulted 0x5008 (fault0 none).cls true ∧ (fault0 none).covers c.vd c.ctx 0x5008 = true) := by
  refine ⟨by decide +kernel, (fun d hd => ⟨by revert d; decide, rfl, by revert d; decide, by simp [at', bundle, State.reset]⟩), by decide⟩
/-- A store in the operand log whose page has been mapped, and a load for a prefetch whose walk is over. -/
def logged : Access := { acc 1 .store (.logged 0 .page) with va := 0x1040, pa := 0, entry := some 0 }
theorem witness_FaultsAndTraps_resumed :
    let f := { fault0 (some 0x4000) with va := 0x1000 }
    let s := { at' one 7 0 0 with faults := [f], mem := (Memory.mk [] []).store 0x4020 [1], accs := [logged] }
    let s0 : State := { s with faults := s.faults.filter fun y => y.seq != f.seq }
    s.mem.val (0x4000 + 32) 4 = 1 ∧ s.accs = [logged] ∧ logged.stage = .logged 0 f.cls ∧ f.covers logged.vd logged.ctx logged.va = true ∧ logged.kind = .store ∧
    s.wave? logged.wave = some one ∧ (∀ v ∈ s.waves, ∀ th ∈ v.threads, th.cond ≠ .blocked .fetch) ∧ (∀ v ∈ s.waves, v.episode = none) ∧
    (∀ b ∈ s.blocks, ∀ pc va k, b.st ≠ .faulted pc va k) ∧ s.walkerBusy (s.who one) logged.va = false ∧ (s0.resolve (s.who one) .write logged.va false).2 = .ok 0x1040 0 ∧ pkgOf 0x1040 = s.fab.pkg ∧
    isMemory (localOf 0x1040) = true ∧ s.windowAt 0x1040 = none := by
  refine ⟨by decide, rfl, rfl, by decide, rfl, rfl, by decide, by decide, by simp [at', bundle, placedBlock], by decide, by decide, by decide, by decide, by decide⟩
def walking (va : DWord) : State := { at' one 1 0 0 with accs := [{ acc 1 .pref .walking with va := va }], walks := [⟨0, 1, false⟩] }
theorem witness_FaultsAndTraps_walks : (∀ i, one.loc ≠ .saved i) ∧ ∀ n ∈ [0x1040, 0x5000], let va : DWord := BitVec.ofNat 64 n
    let s := walking va
    let s0 : State := { s with walks := s.walks.filter fun x => x.acc != 1 }
    (s.acc? s.ev.n).map (·.va) = some va ∧ (∀ a ∈ s.accs, a.stage = .walking ∧ ∀ b ∈ s.accs, b.req = a.req → b.id = a.id) ∧ s.walks.find? (fun x => x.acc == s.ev.n) = some ⟨0, 1, false⟩ ∧ s.wave? 0 = some one ∧
    ((s.walksOf (s.who one).cl).take 8).contains ⟨0, 1, false⟩ = true ∧
    (s0.resolve { s.who one with spec := false } .prefetch va false).2 = (if n = 0x1040 then .ok 0x1040 0 else .fault .page) ∧ isMemory (localOf 0x1040) = true ∧
    s.windowAt 0x1040 = none ∧ pkgOf 0x1040 = s.fab.pkg :=
  ⟨by simp [one, waveOf, placedWave], by decide +kernel⟩
/-- A wave with a trapped thread and no running one, one that runs; a trap record of 64 bytes that just fits a queue; TQTAIL values. -/
def trapping : Wave := waveOf [standing (.trapped ⟨.page, 0, 0, 0, 0⟩) 0, standing .exited 0]
def tqueue : State := (at' one 0 0 64).mapVd 0 fun v =>
  { v with entry := some (zeros 0x90 ++ leBytes 8 0x6000 ++ leBytes 4 (255 * 65536 + 2) ++ zeros 4), heldTraps := [⟨0, zeros 64⟩], ctl := { v.ctl with tqhead := 64, tqtail := 64 } }
theorem witness_FaultsAndTraps :
    ((at' trapping 0 0 0).wave? (at' trapping 0 0 0).ev.n = some trapping ∧ (at' trapping 0 0 0).mem.wf = true ∧
      ¬(trapping.role = .vent ∨ trapping.trapsTaken = true ∨ (at' trapping 0 0 0).allStand trapping .trapped = false ∨ trapping.lane? = none ∨ trapping.pfx.isSome = true)) ∧
    ((at' one 0 0 0).wave? (at' one 0 0 0).ev.n = some one ∧ (at' one 0 0 0).allStand one .trapped = false) ∧
    (tqueue.ev.n < 64 ∧ (tqueue.vd tqueue.ev.n).heldTraps = [⟨0, zeros 64⟩] ∧ tqueue.trapFits tqueue.ev.n = true ∧ tqueue.trapQueue tqueue.ev.n = (0x6000, 128, 255) ∧
      (tqueue.vd tqueue.ev.n).ctl.tqhead.toNat + (zeros 64).length ≤ 128 ∧ tqueue.ev.val % 2 ^ 32 % 64 = 0 ∧ tqueue.ev.val % 2 ^ 32 < (tqueue.trapQueue tqueue.ev.n).2.1) := by
  refine ⟨by decide, by decide, by decide +kernel⟩

/-- A save asked for: of a wave wholly blocked (KIND 0), of one that runs at two PCs, and of one that has stopped and drained, or not. -/
def saving (k : Option Nat) : SaveReq := ⟨9, false, false, k, false, 0, false⟩
def area (s : State) : State := s.mapVd 0 fun v => { v with entry := some (zeros 0x80 ++ leBytes 8 0x100000 ++ leBytes 8 0x10000) }
def waits (l : List Thread) (r : Option SaveReq) : Wave := { waveOf l with saveReq := r }
def blocked0 : Thread := standing (.blocked (.waitf 1)) 0
theorem witness_Residence_saves :
    (let w := waits [blocked0] (some (saving none))
     let s := at' w 0 0 0
     s.mem.wf = true ∧ s.wave? s.ev.n = some w ∧ w.lane?.isSome = true ∧ (saving none).kind = none ∧ s.savePoint w (saving none) = some 0) ∧
    (let w := waits [th0 [], { th0 [] with pc := 0x2000 }] (some (saving none))
     let s := at' w 0 0 0
     s.wave? s.ev.n = some w ∧ w.lane?.isSome = true ∧ s.savePoint w (saving none) = none) ∧
    (let w := waits [{ blocked0 with stores := 1 }] (some (saving (some 1)))
     (at' w 0 0 0).wave? (at' w 0 0 0).ev.n = some w ∧ w.drained = false) ∧
    (let w := waits [blocked0] (some (saving (some 1)))
     let s := area (at' w 0 0 0)
     s.wave? s.ev.n = some w ∧ (saving (some 1)).kind = some 1 ∧ w.drained = true ∧ s.saveRoom w.vd 1 = some 0x100000 ∧ s.keyOf w = 0) ∧
    (let w := waits [th0 []] (some (saving none))
     let s := { at' w 0 0 0 with cycle := 9 }
     s.wave? s.ev.n = some w ∧ (saving none).deadline ≤ s.cycle ∧ w.pfx = none ∧ w.episode = none) := by
  refine ⟨by decide +kernel, by decide +kernel, by decide, by decide +kernel, by decide⟩
/-- A wave saved at 0x100000 that returns to lane 0 of core 0 of cluster 0; memory holds its image. -/
def gone0 : Wave := { waits [blocked0] none with loc := .saved 0x100000 }
def imaged : State := let s := at' gone0 0 0 0
  let img := (waits [blocked0] none).image (s.imageCtx (waits [blocked0] none) 0 [] fun _ => none)
  { s with mem := (Memory.mk [] []).store 0x100000 (img.take 64) }
theorem witness_Residence_restore : imaged.mem.wf = true ∧ imaged.wave? imaged.ev.n = some gone0 ∧ imaged.block? gone0.block = some (placedBlock 1 false) ∧ gone0.loc = .saved 0x100000 ∧
    gone0.trapsTaken = false ∧ (placedBlock 1 false).onCore = true ∧ (placedBlock 1 false).cl = imaged.ev.m / 64 ∧ (placedBlock 1 false).core = imaged.ev.m / 16 % 4 ∧
    (imaged.laneWaves 0 0 0).length < 8 ∧ gone0.needs ≤ imaged.freeGranules 0 0 0 ∧ imaged.keyOf gone0 = 0 ∧ imaged.mem.marks = [] ∧
    (placedBlock 1 false).st = .resident ∧ imaged.logRoom gone0 imaged.ev.m = true ∧ imaged.badLines = [] ∧
    (∀ i, i < (imaged.mem.val 0x100000 4 + 63) / 64 → imaged.mem.poison (0x100000 + 64 * i) 64 = 0) := by
  refine ⟨by decide +kernel, by decide, by decide, rfl, rfl, by decide, by decide, by decide, by decide, by decide, by decide, by decide +kernel, rfl, by decide +kernel,
    by decide +kernel, by decide +kernel⟩
/-- WAITTO with other work for the lane and without, a wave and a block that are over and not. -/
theorem witness_Residence :
    (let s := { at' { one with waitLimit := 5 } 0 0 0 with cycle := 5 }
     s.mem.wf = true ∧ s.wave? s.ev.n = some { one with waitLimit := 5 } ∧ s.workWaiting { one with waitLimit := 5 } = false) ∧
    (let w : Wave := { one with waitLimit := 5 }
     let s := { at' w 0 0 0 with cycle := 5, waves := [w, { gone0 with id := 1, block := 2 }], blocks := [placedBlock 1 false, placedBlock 2 false] }
     s.wave? s.ev.n = some w ∧ ¬(w.waitLimit = 0 ∨ s.cycle < w.waitLimit ∨ w.saveReq.isSome = true ∨ s.workWaiting w = false)) ∧
    (let w := waveOf [standing .exited 0]
     (at' w 0 0 0).wave? (at' w 0 0 0).ev.n = some w ∧ (at' w 0 0 0).waveOver w = true) ∧ (at' one 0 0 0).waveOver one = false ∧
    (let s := at' { one with loc := .gone } 1 0 0
     s.block? s.ev.n = some (placedBlock 1 false) ∧ s.blockOver (placedBlock 1 false) = true) ∧ (at' one 1 0 0).blockOver (placedBlock 1 false) = false ∧
    (at' one 0 0 0).episodeLoad one = none ∧ (at' one 0 0 0).episodeOver one = false ∧
    (let w : Wave := { one with alloc := 8, rahctl := 0x02000010 }
     let a := { acc 1 .load .issued with dst := 0 }
     let s := { at' w 0 0 0 with mem := (Memory.mk [] []).store 0x1000 (leBytes 4 0x00108004), accs := [a] }
     let v : Wave := { w with episode := some (s.overlay w 9) }
     s.mem.wf = true ∧ s.wave? s.ev.n = some w ∧ s.episodeLoad w = some a ∧ State.episodeOver { s with waves := [v] } v = true) := by
  refine ⟨by decide +kernel, by decide +kernel, by decide, by decide, by decide, by decide, by decide, by decide, by decide +kernel⟩

/-! The scheduler, partitions and the key unit. -/

/-- A record of blocks of one wave of 32 threads with some flags; a launch of it, and a package whose partition 0 has quad 0 and VDs 0 and 1. -/
def recOf (grid flags : Nat) : LaunchRec := LaunchRec.ofBytes (leBytes 8 0x1000 ++ zeros 24 ++ leBytes 2 grid ++ [1, 32, 0, 0, 8, BitVec.ofNat 8 flags] ++ zeros 6 ++ leBytes 2 1 ++ zeros 208)
def launchOf (uid grid flags : Nat) : Launch := { launch0 with uid := uid, id := BitVec.ofNat 32 uid, recd := recOf grid flags }
def scheduled (ls : List Launch) (bs : List Block) (n : Nat) : State :=
  let s := { State.reset with launches := ls, blocks := bs, waves := [], nextId := 9, ev := { State.reset.ev with n := n } }
  s.mapPart 0 fun x => { x with desc := some { part0 with vds := 3 }, pstate := 1 }
/-- Clusters 1 to 3 are being retired: cluster 0 alone can take a block. -/
def narrow (s : State) : State := [1, 2, 3].foldl (fun s c => s.mapCluster c fun x => { x with retiring := true }) s
theorem witness_Scheduling_dispatch : let l := { launchOf 3 1 0 with dispatched := false }
    let s := scheduled [l] [] 0
    leastBy (fun l => 16 * (7 - l.recd.prio) + l.queue) (s.heads s.ev.n) = some l ∧ l.recd.keyh = 0 ∧ s.launch? l.uid = some l ∧ s.mem.wf = true ∧
    leastBy (fun l => 16 * (7 - l.recd.prio) + l.queue) ((scheduled [] [] 0).heads 0) = none := by
  refine ⟨by decide +kernel, by decide, by decide, by decide, by decide⟩
theorem witness_Scheduling_place : let l := launchOf 3 1 0
    let s := scheduled [l] [] 0
    s.launches = [l] ∧ s.blocks = [] ∧ (∀ c ∈ s.cmds, c.op ≠ .ctxsave) ∧ s.plat.pscur = 0 ∧ s.partOf l.vd = some s.ev.n ∧ l.vd < 64 ∧ (s.rate l.vd 0).weight &&& 0xFF ≠ 0 ∧ l.dispatched = true ∧ l.killed = false ∧
    l.status = 0 ∧ l.parked = 0 ∧ l.placed < l.recd.grid ∧ l.recd.coop = false ∧ l.keyid = 0 ∧ (s.noticeEnd.site l.want).isSome = true := by
  refine ⟨rfl, rfl, by simp [scheduled, State.mapPart, State.reset], rfl, by decide +kernel, by decide, by decide, rfl, rfl, rfl, rfl, by decide, by decide, rfl, by decide +kernel⟩
/-- A matrix-role launch of PRIO 1 against the one block with the only sequencer left, whose launch has PRIO 0. -/
theorem witness_Scheduling_preempt : let l := launchOf 3 1 0x18
    let x := { launchOf 4 1 0x08 with placed := 1 }
    let b := { placedBlock 1 true with launch := 4 }
    let s := narrow (scheduled [l, x] [b] 3)
    s.launch? s.ev.n = some l ∧ s.launches = [l, x] ∧ x.uid ≠ l.uid ∧ s.blocks = [b] ∧ b.launch = x.uid ∧ b.vd = l.vd ∧ b.st = .resident ∧ x.recd.coop = false ∧
    x.recd.prio < l.recd.prio ∧ s.headItem l.vd = some (.next l) ∧ (s.placeItem (.next l)).isNone = true ∧ ((s.without [b.id]).site l.want).map (fun y => (y.1, y.2.1)) = some (b.cl, b.core) := by
  refine ⟨by decide, rfl, by decide, rfl, rfl, rfl, rfl, by decide, by decide, by decide +kernel, by decide +kernel, by decide +kernel⟩
theorem witness_Scheduling_fits : let l := launchOf 3 1 0
    let s := scheduled [l] [] 3
    s.launch? s.ev.n = some l ∧ s.headItem l.vd = some (.next l) ∧ (s.placeItem (.next l)).isSome = true := by
  refine ⟨by decide, by decide +kernel, by decide +kernel⟩
/-- A launch that is not over, one that is, for whose end a thread waits, and one with an event word. -/
theorem witness_Scheduling_complete :
    (let l := launchOf 3 1 0
     (scheduled [l] [] 3).launch? 3 = some l ∧ (scheduled [l] [] 3).launchOver l = false) ∧
    (let l := { launchOf 3 1 0 with placed := 1, ended := 1 }
     let w := waveOf [standing (.blocked (.lwait 3 (some 2))) 0]
     let s := { scheduled [l] [] 3 with waves := [w] }
     s.launch? s.ev.n = some l ∧ s.launchOver l = true ∧ l.keyid = 0 ∧ (l.recd.evaddr = 0 ∨ l.evDone = true) ∧ l.vd < 64 ∧ s.wave? w.id = some w ∧
     s.waves.filter (fun v => v.id == w.id) = [w] ∧ w.loc = .lane 0 0 0 ∧ w.episode.isNone = true ∧ w.agentVd = l.vd ∧ 0 < w.threads.length ∧ w.threads.length ≤ 32 ∧ (w.th 0).cond = .blocked (.lwait l.id (some 2))) ∧
    (let l := { launchOf 3 1 0 with placed := 1, ended := 1, recd := { recOf 1 0 with evaddr := 0x1040 } }
     let s := scheduled [l] [] 3
     s.launchOver l = true ∧ l.recd.evaddr ≠ 0 ∧ l.evDone = false ∧ ∀ c ∈ s.cmds, c.op ≠ .evinc l.uid) := by
  refine ⟨by decide, by decide +kernel, by decide, by decide, by decide, by simp [scheduled, State.mapPart, State.reset]⟩
/-- A cooperative launch with its one block on a cluster that is being retired, with no other cluster. -/
theorem witness_Scheduling_park : let l := { launchOf 3 1 0x80 with placed := 1 }
    let s := (narrow (scheduled [l] [{ placedBlock 1 false with launch := 3 }] 3)).mapCluster 0 fun x => { x with retiring := true }
    s.launch? s.ev.n = some l ∧ s.mustPark l = true ∧ (scheduled [l] [] 3).mustPark l = false := by
  refine ⟨by decide, by decide +kernel, by decide +kernel⟩
/-- Cluster 0, owned by VD 0 and lent to a block of VD 1 with its sequencer, when VD 0 has a matrix-role block to place; a reclaim that has run out. -/
theorem witness_Scheduling_reclaim :
    (let l := launchOf 3 1 0x08
     let s := (narrow (scheduled [l] [{ placedBlock 1 true with vd := 1 }] 0)).mapCluster 0 fun x => { x with owner := some 0 }
     s.noticeOn s.ev.n = some 0) ∧ (scheduled [] [] 0).noticeOn 0 = none ∧
    (let w := { one with saveReq := some ⟨9, false, true, none, false, 0, false⟩ }
     let s := { at' w 1 0 0 with cycle := 9 }
     s.wave? w.id = some w ∧ w.block = s.ev.n ∧ s.reclaimOver w = true) := by
  refine ⟨by decide +kernel, by decide +kernel, by decide⟩
def world5 : World := ⟨5, 0, 1, 2, [3]⟩
theorem witness_Scheduling_partitions :
    (let s := { scheduled [] [] 0 with cmds := [{ cmdOf (.partctl 0) .oe 0 0 with a := 0 }] }
     s.ev.n < 8 ∧ (s.part s.ev.n).desc = some { part0 with vds := 3 } ∧ (∃ c ∈ s.cmds, c.op = .partctl 0 ∧ c.a = BitVec.ofNat 64 s.ev.n) ∧ s.quadsFree s.ev.n = true) ∧
    (let s := at' (vent .s) 0 0 0
     s.ev.n < 16 ∧ s.waves = [vent .s] ∧ (vent .s).loc = .vent s.ev.n 0 ∧ (vent .s).held = none) ∧
    (let s := { at' one 5 0 0 with keys := ⟨[], [world5], none, []⟩ }
     let l := { launchOf 3 1 0 with keyid := 5 }
     s.world? s.ev.n = some world5 ∧ s.worldLaunches s.ev.n = [] ∧ State.launches { s with launches := [l] } = [l] ∧ l.keyid = s.ev.n ∧ l.killed = false) := by
  refine ⟨by decide +kernel, by decide +kernel, by decide⟩
/-- The key unit idle, at work on keys in memory, and with a source or a destination outside it. -/
def keying (k src dst : Nat) : State := { at' one 0 0 0 with mgmt := { Mgmt.reset with kstat := k, ksrc := BitVec.ofNat 64 src, kdst := BitVec.ofNat 64 dst } }
theorem witness_Scheduling : (keying 0 0 0).mgmt.kstat ≠ 1 ∧ (keying 1 0x1000 0x2000).mem.wf = true ∧
    ((keying 1 0x1000 0x2000).mgmt.kstat = 1 ∧ inMemory (keying 1 0x1000 0x2000).mgmt.ksrc.toNat 32 = true ∧ inMemory (keying 1 0x1000 0x2000).mgmt.kdst.toNat 64 = true) ∧
    inMemory (keying 1 (0x7FC0000000 - 31) 0x2000).mgmt.ksrc.toNat 32 = false ∧ inMemory (keying 1 0x1000 (0x7FC0000000 - 63)).mgmt.kdst.toNat 64 = false ∧
    (∀ n ∈ [0, 127], (at' one n 0 0).ev.n < 128) ∧ (let s := at' one 127 7 0
      s.ev.m / 2 = s.ev.n / 32 ∧ ∀ k : Fin 128, s.ev.m ∉ (s.cluster k).spares) := by
  refine ⟨by decide, by decide, by decide, by decide, by decide, by decide, by decide +kernel⟩

/-! The fabric. -/

/-- A pod of 8 in which package 3 is present, and a message in progress from it for address 0x1040. -/
def pod : Fabric := { Fabric.reset with slotnow := 5, locked := true, present := 8 }
def msg (e : Event) (f : State → State := id) : State := f { bundle one with fab := pod, ev := { e with val := 0x1040, hdr := ⟨3, 0, e.hdr.seq, 0⟩ } }
def ev0 : Event := { row := .slotStart }
theorem arrives (cls : Nat) (h : cls ≤ 2) (f : State → State) (e : Event) (he : e.hdr.seq = 0) (hf : (f (msg e)).fab = pod ∧ (f (msg e)).ev = (msg e).ev ∧ (f (msg e)).plat.pscur = 0) : (f (msg e)).Arrives cls := by
  have hd : (msg e).ev.hdr = ⟨3, 0, 0, 0⟩ := by simp [msg, he]
  obtain rfl | rfl | rfl : cls = 0 ∨ cls = 1 ∨ cls = 2 := by omega
  all_goals exact ⟨by rw [hf.2.1, hd, State.me, hf.1]; rfl, by rw [hf.2.2]; decide, by rw [hf.2.1, hd, State.peerUp, hf.1]; rfl, by rw [hf.2.1, hd, hf.1]; decide,
    by rw [hf.2.1, hd, hf.1]; decide⟩

/-- A first message, one delivered before, one ahead of its turn, one of a package that is absent, of every row. -/
theorem witness_Messages_order :
    (∀ c ∈ [0, 1, 2], let s := msg { ev0 with hdr := ⟨3, 0, 0xFFFFFF, 0⟩ }
      s.ev.ok = false ∧ s.ev.hdr.dst = s.me ∧ s.peerUp s.ev.hdr.src.toNat = true ∧ s.fab.delivered (s.ev.hdr.src, c) s.ev.hdr.seq.toNat = true) ∧
    (∀ c ∈ [0, 1], let s := msg { ev0 with hdr := ⟨3, 0, 1, 0⟩ }
      s.ev.hdr.dst = s.me ∧ s.peerUp s.ev.hdr.src.toNat = true ∧ s.fab.delivered (s.ev.hdr.src, c) s.ev.hdr.seq.toNat = false ∧ c ≠ 2 ∧
      s.ev.hdr.seq.toNat ≠ s.fab.expected (s.ev.hdr.src, c)) ∧
    (let s := { msg ev0 with fab := Fabric.reset }
     s.ev.hdr.dst = s.me ∧ s.peerUp s.ev.hdr.src.toNat = false ∧ s.mem.wf = true) := by
  refine ⟨by decide, by decide, by decide⟩
theorem witness_Messages_home : (msg { ev0 with size := 64 }).Arrives 1 ∧ (msg { ev0 with size := 64 }).Arrives 0 ∧ (msg { ev0 with size := 64 }).Open 0x1040 ∧
    (msg { ev0 with size := 64 }).Unwatched 0x1040 64 ∧ (msg { ev0 with size := 64 }).Unwatched 0x1040 8 ∧
    (msg { ev0 with size := 64 }).ev.kind = 0 ∧ (msg { ev0 with size := 64 }).ev.size ≤ 64 :=
  ⟨arrives 1 (by decide) id _ rfl ⟨rfl, rfl, rfl⟩, arrives 0 (by decide) id _ rfl ⟨rfl, rfl, rfl⟩, ⟨by decide +kernel, by decide, by decide⟩, (fun x hx => by cases hx), (fun x hx => by cases hx), rfl, by decide⟩
/-- An access to package 3 under entry 2 of the remote request table. -/
def away (k : AccKind) : Access := { acc 1 k (.remote 2) with pa := 3 * 2 ^ 45 + 0x1040 }
theorem witness_Messages_replies : ∀ k ∈ [AccKind.load, .store, .atomic .add true 2, .watch 1],
    ∀ n ∈ [0, 8], let s := { msg { ev0 with entry := 2, status := n } with accs := [away k] }
    away k ∈ s.requested s.ev ∧ s.acc? (away k).id = some (away k) ∧ s.ev.status = n := by decide +kernel
/-- A collective reduction of packages 0 and 3 with TAG 9 whose command is under way, and its descriptor. -/
def collBytes (group : Nat) : List Byte := [0, 0, 0, 0] ++ leBytes 4 1 ++ leBytes 16 group ++ leBytes 8 0x1040 ++ leBytes 8 0x1080 ++ leBytes 4 9 ++ zeros 20
def collCmd (group : Nat) : Cmd := { cmdOf .coll .coll 0 0 with bytes := collBytes group, dst := 64 }
def coll9 (met : List (BitVec 7)) (parts : List (Nat × Nat × List Reg)) : Coll := ⟨5, 0, 1, 0, 0, 9, met, parts, [], [], none⟩
def params (op : BitVec 8) : CollParams := ⟨op, 0, 0, 0, 1, 9, 9, 0, 0, 0⟩
theorem witness_Messages_aborts :
    (let s := { msg { ev0 with tag := 9, n := 0 } with cmds := [collCmd 9], colls := [coll9 [0] []] }
     s.collOf s.ev.hdr.vd.toNat s.ev.n s.ev.tag = some (collCmd 9, coll9 [0] []) ∧ s.coll? 1 = some (coll9 [0] []) ∧
     s.colls.find? (fun y => decide (y.no = s.ev.n) && y.status.isNone) = some (coll9 [0] []) ∧ s.CanEnd (collCmd 9)) ∧
    (let s := { msg { ev0 with tag := 9, n := 0 } with cmds := [collCmd 9], colls := [coll9 [0] []], accs := [acc 2 (.engWrite 1) .issued] }
     s.collOf s.ev.hdr.vd.toNat s.ev.n s.ev.tag = some (collCmd 9, coll9 [0] []) ∧ (collCmd 9).status < 512 ∧ s.cmdBusy (collCmd 9).id = true) ∧
    (let s := msg { ev0 with tag := 9, n := 0 }
     s.collOf s.ev.hdr.vd.toNat s.ev.n s.ev.tag = none ∧ s.colls = [] ∧ (s.ev.hdr.vd.toNat, s.ev.n, s.ev.tag) ∉ s.aborts) := by
  refine ⟨⟨by decide +kernel, by decide +kernel, by decide +kernel, by decide, by decide +kernel⟩, by decide +kernel, by decide +kernel⟩
theorem witness_Messages_bulk : let s := msg { ev0 with bytes := [1, 2, 3], k := 3, n := 2 ^ 31 }
    2 ^ 31 ≤ s.ev.n ∧ s.ev.bytes.length ≤ s.ev.k ∧ s.Arrives 2 ∧ s.ev.ok = false ∧ s.ev.coll = none ∧ s.fab.bulk = [] ∧ s.ev.bytes ≠ [] ∧ s.ev.bytes.length < 2 ^ 40 ∧ s.Unwatched (localOf s.ev.val) s.ev.bytes.length ∧ ∀ i, i < s.ev.bytes.length → s.Open (s.ev.val + i) :=
  ⟨by decide, by decide, arrives 2 (by decide) id _ rfl ⟨rfl, rfl, rfl⟩, rfl, rfl, rfl, by decide, by decide, (fun x hx => by cases hx), fun i hi =>
    ⟨by revert i; decide +kernel, by revert i; decide +kernel, by revert i; decide +kernel⟩⟩
theorem witness_Messages_match : ∀ op ∈ [0, 1], let p := params (BitVec.ofNat 8 op)
    let s := { msg { ev0 with coll := some p, m := 3 } with cmds := [collCmd 9], colls := [coll9 [0] []] }
    s.ev.coll = some p ∧ s.collOf p.vd.toNat p.ctx.toNat p.tag = some (collCmd 9, coll9 [0] []) ∧ s.coll? 1 = some (coll9 [0] []) ∧ (collCmd 9).status < 512 ∧ s.cmdBusy (collCmd 9).id = false ∧
    (p.op.toNat = (CollDesc.ofBytes (collBytes 9)).op ↔ op = 0) ∧ p.comb.toNat = (CollDesc.ofBytes (collBytes 9)).comb ∧ p.dkind.toNat = (CollDesc.ofBytes (collBytes 9)).dkind ∧
    p.root.toNat = (CollDesc.ofBytes (collBytes 9)).root ∧ p.count.toNat = (CollDesc.ofBytes (collBytes 9)).count ∧ p.group = (CollDesc.ofBytes (collBytes 9)).group ∧
    (msg { ev0 with coll := some p }).collOf p.vd.toNat p.ctx.toNat p.tag = none := by decide +kernel
/-- Package 5, of rank 1 behind package 3, has its word and sends it on. -/
theorem witness_Messages : let c := collCmd 0x28
    let x := coll9 [3, 5] [(0, 1, [⟨7, false⟩])]
    let d := CollDesc.ofBytes c.bytes
    let s := { bundle one with fab := { pod with pkg := 5 }, cmds := [c], colls := [x], ev := { ev0 with n := 1 } }
    s.mem.wf = true ∧ s.cmd? s.ev.n = some c ∧ c.op = .coll ∧ c.stage = .queued ∧ s.heldBack c = false ∧ c.bytes.length = 64 ∧ c.status = 0 ∧ c.dst = 64 ∧ c.deadline = 0 ∧ c.b = 0 ∧
    s.coll? c.id = some x ∧ x.met ≠ [] ∧ s.me ∉ x.acks ∧ (∀ y ∈ x.parts, y.2.1 < 1000) ∧ d.op = 0 ∧ 0 < d.count ∧ d.rank s.fab.pkg % 2 = 1 ∧
    (∀ n ∈ members d.group, n ≠ s.fab.pkg → s.peerUp n = true ∧ BitVec.ofNat 7 n ∈ x.met) ∧ (members d.group)[d.rank s.fab.pkg - 1]?.getD 0 ≠ s.fab.pkg ∧
    d.words d.count ≤ (x.of (d.rank s.fab.pkg)).length ∧ (x.of (d.rank s.fab.pkg)).length ≤ 890 := by
  refine ⟨by decide, by decide +kernel, rfl, rfl, by decide +kernel, by decide, rfl, rfl, rfl, rfl, by decide +kernel, by decide, by decide, by decide, by decide, by decide, by decide +kernel,
    by decide +kernel, by decide +kernel, by decide +kernel, by decide +kernel⟩

/-- Slots: locked or not, a peer that two maps show dark, marks that agree and follow each other, the first and second missed mark. -/
def slot (f : Fabric) (e : Event) : State := { bundle one with fab := f, ev := e }
def mark (n : Nat) : SlotMark := ⟨BitVec.ofNat 64 n, 0, 0, 9, true⟩
theorem witness_FabricUpkeep_slots :
    (let s := slot { pod with acks := [((3, 2), 7)] } ev0
     s.fab.locked = true ∧ s.peerUp 3 = true ∧ s.fab.lastMap.getLsbD 3 = false ∧ markBit s.fab.mark 3 = false ∧ s.fab.acks = [(((3 : BitVec 7), 2), 7)]) ∧
    (let s := slot { Fabric.reset with mark := some (mark 6) } { ev0 with mark := some (mark 7) }
     s.fab.locked = false ∧ s.fab.mark = some (mark 6) ∧ s.ev.mark = some (mark 7) ∧ (mark 6).agree = true ∧ (mark 7).agree = true ∧ (mark 7).slot = (mark 6).slot + 1 ∧
     (mark 7).nlog = (mark 6).nlog ∧ (mark 7).pkg = (mark 6).pkg) ∧
    (∀ n ∈ [0, 1, 2], let s := slot { pod with missed := n } ev0
      s.fab.locked = true ∧ s.ev.mark = none ∧ (1 ≤ s.fab.missed ↔ n ≠ 0) ∧ (2 ≤ s.fab.missed ↔ n = 2)) := by
  refine ⟨by decide, by decide, by decide⟩
def relayMsg : Msg := ⟨5, 3, 1, 0, 1, 0, 0, 0, [], []⟩
/-- A flit of package 3 whose KIND is reserved. -/
def flit : Nat := 3 * 2 ^ 57 + 15 * 2 ^ 44
theorem flit_bad (s : State) : s.flitOk (leBytes 128 flit) = false := by
  have h : flitField (field (leBytes 128 flit) 0 8) 44 4 = 15 := by decide +kernel
  simp [State.flitOk, h]
theorem witness_FabricUpkeep :
    (let s := { slot pod { ev0 with n := 3 } with accs := [away .load] }
     s.peerUp s.ev.n = true ∧ s.acc? 1 = some (away .load) ∧ (away .load).stage = .remote 2 ∧ pkgOf (away .load).pa = s.ev.n) ∧
    (let s := slot { pod with present := 0, lastMap := 8, mark := some { mark 6 with present := 8 } } { ev0 with n := 3 }
     s.ev.n < 128 ∧ s.peerUp s.ev.n = false ∧ s.ev.n ≠ s.fab.pkg ∧ s.fab.locked = true ∧ s.fab.lastMap.getLsbD s.ev.n = true ∧ markBit s.fab.mark s.ev.n = true) ∧
    (let s := slot { pod with relayed := [⟨relayMsg, 5, true, 0⟩] } { ev0 with n := 1, hdr := ⟨5, 3, 0, 0⟩ }
     s.fab.passing s.ev = some ⟨relayMsg, 5, true, 0⟩ ∧ s.fab.slotnow ≠ BitVec.allOnes 64 ∧ s.fab.queue = []) ∧
    (let s := slot { pod with owed := [(3, 7)] } ev0
     s.fab.locked = true ∧ s.peerUp 3 = true ∧ s.fab.lit 2 = true ∧ s.fab.joined s.fab.pkg 2 ((s.fab.slotnow + 1).toNat % s.fab.cycle) = 3) ∧
    (∀ n ∈ [0, 1], let s := slot { pod with fibres := [⟨7, 0, true, 1, n⟩] } { ev0 with n := 7 }
      (0 < (s.fab.fibre s.ev.n (s.ev.m % 8) (decide (s.ev.m < 8))).spares ↔ n = 1) ∧ (s.fab.fibre s.ev.n 0 true).active = 1 ∧ s.ev.n < 8) ∧
    (let s := slot pod { ev0 with val := flit }
     let bs := leBytes 128 s.ev.val
     s.flitOk bs = false ∧ flitField (field bs 0 8) 57 7 = 3 ∧ s.peerUp 3 = true ∧ flitField (field bs 0 8) 48 2 ≤ 2 ∧ s.fab.delivered (3, 0) 0 = false ∧ s.fab.retries = []) ∧
    (msg { ev0 with n := 1, seqs := [0] } fun s => { s with fab := { s.fab with unacked := [{ relayMsg with dst := 3 }], spent := [(3, 4)] } }).fab.unacked.filter
      (fun m => m.dst == 3 && m.cls == 1 && [0].contains m.seq.toNat) = [{ relayMsg with dst := 3 }] ∧
    (msg { ev0 with n := 1, seqs := [0] }).Arrives 0 :=
  ⟨by decide +kernel, by decide, by decide +kernel, by decide +kernel, by decide, ⟨flit_bad _, by decide +kernel⟩, by decide, arrives 0 (by decide) id _ rfl ⟨rfl, rfl, rfl⟩⟩

/-! Ports, power, registers. -/

theorem witness_PortsAndSideband : (at' one 3 0 0).portCtx 3 = none ∧ (owned (at' one 1 0 0)).portCtx 1 = some (0, 0, 0, 0) ∧ (owned (at' one 1 0 0)).sysvd 0 < 64 ∧
    (∀ n ∈ [0, 15], (at' one n 0 0).ev.n < 16) ∧ (∀ n ∈ [5, 12], 5 ≤ (at' one n 0 0).ev.n ∧ (at' one n 0 0).ev.n < 13) ∧
    ((owned (at' one 0 0 0)).part (owned (at' one 0 0 0)).ev.n).desc.isSome = true ∧
    (let w := { vent .s with loc := .vent 0 0 }
     (owned (at' w 0 0 0)).wave? w.id = some w ∧ (owned (at' w 0 0 0)).ventOf 0 w = true) ∧ (at' one 0 0 0).plat.pscur = 0 := by
  refine ⟨by decide +kernel, by decide +kernel, by decide +kernel, by decide, by decide, by decide +kernel, by decide +kernel, by decide⟩
/-- A package with nothing to do that may go to PS3, and one on its way out of it with its keys. -/
def still : State := { owned State.reset with waves := [], mgmt := { Mgmt.reset with maxps := 3, ptol := Vector.replicate 8 5000 }, keys := ⟨[], [world5], none, []⟩ }
theorem witness_PowerStates : still.plat.pscur = 0 ∧ still.deepest = 3 ∧
    (let s := { still with plat := { still.plat with pscur := 3 } }
     s.plat.pscur ≠ 0 ∧ s.plat.exitAt = none) ∧
    (let s := { still with plat := { still.plat with pscur := 3, exitAt := some 9 }, keys := { still.keys with sleepKey := some 1 }, ev := { still.ev with ok := true } }
     s.plat.exitAt ≠ none ∧ s.keys.sleepKey ≠ none ∧ s.ev.ok = true ∧ s.keys.worlds = [world5]) := by
  refine ⟨by decide, by decide +kernel, by decide, by decide +kernel⟩
/-- Registers of VD 0 and queue 255, a Vent thread with a record and without, and register addresses of each block. -/
def heldW : Wave := { vent .s with held := some ⟨0, 1, 2, 0, true⟩ }
theorem witness_RegisterEvents :
    (let s := owned (at' one 0 5 0)
     s.ev.n < 64 ∧ s.partOf s.ev.n = some 0 ∧ (s.part 0).desc = some part0 ∧ s.ev.m < 6 ∧ s.partOf (s.ev.m % 64) ≠ some s.ev.n ∧ (owned (at' one 0 64 0)).partOf (64 % 64) = some 0) ∧
    (at' one 255 0 0).ev.n < 256 ∧
    (let s := at' heldW 0 heldW.id (1 * 2 ^ 20 + 2)
     s.wave? s.ev.m = some heldW ∧ heldW.held = some ⟨0, 1, 2, 0, true⟩ ∧ s.ev.val / 2 ^ 24 % 64 = 0 ∧ s.ev.val / 2 ^ 20 % 8 = 1 ∧ s.ev.val % 4096 = 2) ∧
    (let s := at' (vent .s) 0 (vent .s).id 0
     s.wave? s.ev.m = some (vent .s) ∧ (vent .s).loc = .vent 0 0 ∧ (vent .s).held = none ∧ s.nextRing 0 0 = none) ∧
    (let s := (owned (at' (vent .s) 0 (vent .s).id 0)).mapVd 0 fun v => { v with
       entry := some (zeros 0xA0 ++ leBytes 8 0x2000 ++ leBytes 4 (2 ^ 31 + 3)), rings := v.rings.set! 0 ⟨1, [(0, 1)], []⟩ }
     (s.nextRing 0 0).map (fun x => (x.1.vd, x.1.ring, x.1.slot)) = some (0, 0, 0)) ∧
    (let x : Word := 0x80000005
     x.getLsbD 31 = true ∧ (at' one 0 0 0).mgmt.kstat ≠ 1) ∧
    regAt 0x1F0000010000 = .vd 0 0 ∧ regAt 0x1F0000010004 = .vd 0 4 ∧ regAt 0x1F000001010C = .vd 0 0x10C ∧ regAt 0x1F000004F2C8 = .vd 63 0x2C8 ∧ regAt 0x1F0000004FFC = .queue 255 12 ∧
    regAt 0x1F000000000C = .mgmt 0xC ∧ regAt 0x1F0000000100 = .mgmt 0x100 ∧ regAt 0x1F0000006000 = .none ∧
    ({ at' one 0 0 0 with mgmt := { Mgmt.reset with rfmlock := true } } : State).mgmt.rfmlock = true ∧
    (let s := (at' one 5 0 0).mapVd 63 fun v => { v with rates := v.rates.set! 5 ⟨7, 1, 1, 0, 0, 0, 0⟩ }
     s.ev.n < 6 ∧ (63 : Nat) < 64 ∧ (s.rate 63 s.ev.n).rate ≠ 0) ∧
    (let s := owned (at' one 0 0 0x1040)
     s.ev.kind = 0 ∧ isMemory s.ev.val = true ∧ s.ownerOf (64 * (s.ev.val / 64)) = some 0 ∧ s.sysvd 0 < 64) ∧
    (let s := { owned (at' one 0 0 0x1040) with l2 := [⟨0, 3, 65, 0, true, false⟩], ev := { (at' one 0 0 0x1040).ev with kind := 1 } }
     s.ownerOf (64 * (s.ev.val / 64)) = some 0 ∧ s.ev.kind = 1 ∧ s.l2.find? (fun x => x.line == s.ev.val / 64) = some ⟨0, 3, 65, 0, true, false⟩) ∧
    (let s := at' one 0 0 47
     s.wave? s.ev.n = some one ∧ one.loc = .lane 0 0 0 ∧ one.episode = none ∧ s.ev.k < 48 ∧ s.ev.m < one.threads.length) ∧
    (let s := { tiled 0 [] with ev := { (at' one 1 0 127).ev with kind := 5 } }
     s.block? s.ev.n = some (tblock 0 []) ∧ (tblock 0 []).onCore = true ∧ s.ev.kind = 5 ∧ s.ev.val < (tblock 0 []).ssize) ∧
    (let s := { tiled 0 [] with ev := { (at' one 1 0 (3 * 1024 + 7)).ev with kind := 6 } }
     s.block? s.ev.n = some (tblock 0 []) ∧ s.ev.kind = 6 ∧ s.ev.val < 1024 * (tblock 0 []).arows ∧ s.ev.val % 1024 < (tblock 0 []).acols) ∧
    (let s := { at' one 0 0 0 with vds := (at' one 0 0 0).vds.set! 0 { (at' one 0 0 0).vd 0 with entry := some (zeros 1024) } }
     (owned s).partOf 0 = some (owned s).ev.n ∧ ((owned s).vd 0).entry = some (zeros 1024) ∧ ∀ w ∈ s.waves, w.vd = 0 → ∀ i, w.loc ≠ .saved i) := by
  refine ⟨by decide +kernel, by decide, by decide +kernel, by decide +kernel, by decide +kernel, by decide, by decide, by decide, by decide, by decide, by decide, by decide, by decide, by decide, by decide,
    by decide +kernel, by decide +kernel, by decide +kernel, by decide, by decide, by decide, by decide +kernel, by decide +kernel, fun w hw _ i h => ?_⟩
  have : w = one := by simpa [at', bundle] using hw
  rw [this] at h
  cases h

/-! Further premises of the statements above. -/

theorem witness_Selectors_launch :
    let s : State := { bundle pair with launches := [{ launch0 with uid := (placedBlock 1 false).launch }] }
    s.Running pair ∧ pair.role ≠ .vent ∧ s.block? pair.block = some (placedBlock 1 false) ∧
    s.launch? (placedBlock 1 false).launch = some { launch0 with uid := (placedBlock 1 false).launch } :=
  ⟨⟨pair_runs.wave, pair_runs.calm, pair_runs.active, pair_runs.inside⟩, by decide, by decide, by decide⟩
/-- A Vent thread without a poisoned operand. -/
theorem witness_Compares_vent : (bundle (vent .s)).Running (vent .s) ∧ (vent .s).role = .vent ∧
    ∀ n, (bundle (vent .s)).issue.mask.getLsbD n = true → ((vent .s).opnd n 0).psn = false ∧ ((vent .s).opnd n 1).psn = false :=
  ⟨vent_runs .s, rfl, each_active _ rfl (by decide) (by decide)⟩
/-- An access whose line comes from a controller at once, and one that joins its queue. -/
def waitedFor : MemReq := ⟨2, pseudoChannel 0x1040, 1, 9, 0, evn .homeAccess 7⟩
theorem witness_HomeAccess_memory : let a := acc 1 .load .issued
    (busy [a] 1).accWaits a = none ∧ (busy [a] 1).Calm a.vd ∧ (let s := busy [a] 1
      State.accWaits { s with arb := { s.arb with queue := [waitedFor] } } a) = some (2, pseudoChannel 0x1040) :=
  ⟨by decide +kernel, .inl (.inr (by decide)), by decide +kernel⟩
theorem witness_RefusedAccesses_owned : (busy [] 1).Owned 0 ∧ (owned (bundle one)).Owned 0 := ⟨.inr (by decide), .inl (by decide +kernel)⟩
/-- TLBINV with a scope that is reserved. -/
theorem witness_PrivilegedInstructions_scope : let w := { vent .m with threads := [th0 [0x1040, 0, 7]] }
    (bundle w).Running w ∧ (w.opnd2 0 0).2 = false ∧ 6 ≤ (w.opnd 0 2).val.toNat % 8 ∧ (w.opnd 0 0).val.toNat % 8 < 6 := ⟨running _ rfl (by decide), by decide, by decide, by decide⟩
/-- An OPWAIT that waits for the slot of a fire, and one that does not. -/
theorem witness_OperatorWindows_waits : let c := { cmdOf .opwait .oe 1 0 with stage := .waiting }
    c.op = .opwait ∧ c.stage = .waiting ∧ c.vd = (op3 0).vd ∧ c.ctx = (op3 0).ctx ∧ c.a = BitVec.ofNat 64 (op3 0).handle ∧ c.b = BitVec.ofNat 64 (fire0 true).slot ∧
    (∀ y ∈ (busy [] 0).cmds, y.op ≠ .opwait) ∧ (busy [] 0).Owned (op3 0).vd := ⟨rfl, rfl, rfl, rfl, rfl, rfl, by simp [busy, bundle, State.reset], .inr (by decide)⟩
theorem witness_EngineAndPrivilegedWork_split : ∀ p ∈ [0, 1], let c := { cmdOf .pgsplit .oe 7 0 with prog := p }
    (working [c]).Works c one ∧ (working [c]).ev.ok = false ∧ (working [c]).privReady c = true := fun p hp => ⟨works _ _ (by revert p; decide), by revert p; decide⟩
/-- Another wave of the block is still on its lane when the first is saved. -/
theorem witness_Residence_sibling : let w := waits [blocked0] (some (saving (some 1)))
    let s := { at' w 0 0 0 with waves := [w, { one with id := 1 }] }
    ∀ b, s.block? w.block = some b → ∃ v ∈ s.waves, v.block = b.id ∧ v.id ≠ w.id ∧ v.lane?.isSome = true := by
  intro w s b h
  have : b = placedBlock 1 false := by simpa [s, w, at', bundle, State.block?, waits, waveOf, placedWave, placedBlock, eq_comm] using h
  exact ⟨{ one with id := 1 }, by simp [s], by rw [this]; decide, by decide, by decide⟩
theorem witness_Scheduling_worlds : let s := { at' one 5 0 0 with keys := ⟨[], [world5], none, []⟩ }
    s.world? s.ev.n = some world5 ∧ s.worldLaunches s.ev.n = [] ∧ (∀ y ∈ s.cmds, y.op ≠ .opwait) ∧ ∀ y ∈ s.accs, ∀ d, y.stage ≠ .unready d :=
  ⟨by decide, by decide, by simp [at', bundle, State.reset], by simp [at', bundle, State.reset]⟩
/-- Requests for a VD of a partition, replies to this package's only access, a message in PS3, and a first part without a member. -/
theorem witness_Messages_more :
    (let s := owned (msg { ev0 with kind := 0, bytes := [] })
     s.Arrives 1 ∧ s.Arrives 0 ∧ s.ev.kind < 16 ∧ s.ev.bytes = [] ∧ (s.partOf s.ev.hdr.vd.toNat).isSome = true ∧ s.Open s.ev.val) ∧
    (∀ k ∈ [AccKind.store, .atomic .add true 2, .watch 1], let s := { msg { ev0 with entry := 2, n := 0 } with accs := [away k] }
     (s.requested s.ev)[0]? = some (away k) ∧ s.acc? (away k).id = some (away k) ∧ s.ev.status = 0 ∧ (away k).tid = s.ev.n) ∧
    (∀ k, { msg ev0 with accs := [away k] }.Fresh) ∧
    (let s : State := { msg ev0 with plat := { (msg ev0).plat with pscur := 3 } }
     s.ev.hdr.dst = s.me ∧ s.plat.pscur = 3) ∧ (msg ev0).plat.pscur ≠ 3 ∧
    (let s := msg { ev0 with row := .collMatch, coll := some (params 0) }
     s.ev.row = .collMatch ∧ s.collOf (params 0).vd.toNat (params 0).ctx.toNat (params 0).tag = none) := by
  refine ⟨⟨arrives 1 (by decide) owned _ rfl ⟨rfl, rfl, rfl⟩, arrives 0 (by decide) owned _ rfl ⟨rfl, rfl, rfl⟩, by decide, rfl, by decide +kernel, by decide +kernel, by decide, by decide +kernel⟩,
    by decide +kernel, fun k => ⟨?_, ?_, ?_, ?_⟩, ⟨rfl, rfl⟩, by decide, by decide⟩
  all_goals simp [msg, bundle, State.reset, away, acc]
/-- The last flit of a relay, a message asked for again for a VD of a partition, a lock that ends in PS3. -/
theorem witness_FabricUpkeep_flits :
    (let q : Outgoing := ⟨relayMsg, none, true, false, 0, 0⟩
     q.relay = true ∧ q.msg.flits ≤ q.sent + 1 ∧ (slot pod ev0).peerUp 3 = true) ∧
    ((owned (slot pod ev0)).partOf relayMsg.vd).isSome = true ∧ (slot pod ev0).plat.pscur ≠ 3 ∧
    (let s : State := { slot pod ev0 with plat := { (slot pod ev0).plat with pscur := 3 } }
     s.fab.locked = true ∧ (2 ≤ s.fab.missed ∨ s.plat.pscur = 3)) := by
  refine ⟨by decide, by decide +kernel, by decide, by decide⟩
theorem witness_PortsAndSideband_report : let s := owned (at' one 1 0 0)
    s.ev.kind = 0 ∧ s.portCtx s.ev.n = some (0, 0, 0, 0) ∧ s.sysvd 0 < 64 ∧ (s.partOf (s.sysvd 0)).isSome = true := by decide +kernel

/-! A step. -/

/-- A word at the placed address, before a wave that issues next. -/
def fetching (w : Wave) (x : Word) : State := { bundle w with mem := (Memory.mk [] []).store 0x1000 (leBytes 4 x.toNat), sel := .wave 0 }
/-- What the first clause of StepRunsDecoded asks of the state and of what the arbiter offers. -/
def offers (s : State) (v : Wave) (x : Word) : Bool :=
  match s.turnOrder with
  | .wave n :: rest =>
    let s0 : State := { s with sel := (rest ++ [Agent.wave v.id]).headD (.wave v.id) }
    match s0.issueAt v.arbiter with
    | some (p, ptr) =>
      let s1 : State := State.startTurn { s0 with arb := { s0.arb with ptrs := match ptr with
        | some x => (v.arbiter, x) :: s0.arb.ptrs.filter (fun y => y.1 != v.arbiter)
        | none => s0.arb.ptrs } } p
      let r := s1.resolve (s1.fetcher p.wave) .exec p.pc false
      let s3 := r.1.sliceRead p.wave.agentVd 0 (localOf 0x1000 / 64) p.wave.isVent false
      decide (n = v.id ∧ s.agenda = [] ∧ s.plat.off = false ∧ s.plat.pscur ≠ 3 ∧ s.wave? v.id = some v ∧ s1.walkerBusy (s1.fetcher p.wave) p.pc = false ∧ r.2 = .ok 0x1000 0 ∧ pkgOf 0x1000 = r.1.fab.pkg ∧ r.1.windowAt 0x1000 = none ∧
        isMemory (localOf 0x1000) = true ∧ s3.mem.marked (localOf 0x1000) = false ∧ p.mask ≠ 0 ∧ BitVec.ofNat 32 (leVal (s3.getBytes 0 (localOf 0x1000) 4)) = x ∧
        p.wave.pfx = v.pfx ∧ p.wave.alloc = v.alloc ∧ p.wave.role = v.role)
    | none => false
  | _ => false
/-- An IADD, one with a register beyond the allocation of 8, and words that break a check of R79: all zero, unassigned, of the tile class, privileged, with a reserved M,
and an HCLS after an HMOD. -/
theorem witness_StepRunsDecoded_words : ∀ x ∈ [0x00108004, 0x00124004, 0, 0x07000000, 0x0C200000, 0x0E100000, 0x00100001], let w := { one with alloc := 8 }
    offers (fetching w (BitVec.ofNat 32 x)) w (BitVec.ofNat 32 x) = true := by decide +kernel
def prefixed : Wave := { one with pfx := some ⟨1, 5, 0, 0, none, 0xFFC⟩ }
theorem witness_StepRunsDecoded_fates :
    decodeWord 0x00108004 = .ok (.iadd 2 0 1) ∧ (Instr.iadd 2 0 1).regCheck 8 = none ∧ (Instr.iadd 2 0 1).held = false ∧ privBroken one 0x01 = false ∧ orderBroken one.pfx 0x01 = false ∧
    decodeWord 0x00124004 = .ok (.iadd 9 0 1) ∧ (Instr.iadd 9 0 1).regCheck 8 = some .beyondAlloc ∧
    decodeWord 0 = .error .allZero ∧ decodeWord 0x07000000 = .error .unassigned ∧ decodeWord 0x0C200000 = .ok (.tzero 0 0 0 0) ∧
    privBroken one 0xE1 = true ∧ decodeWord 0x00100001 = .error .reserved ∧
    offers (fetching prefixed 0x0F400012) prefixed 0x0F400012 = true ∧ orderBroken prefixed.pfx 0xF4 = true := by
  refine ⟨rfl, by decide, by decide, by decide, by decide, rfl, by decide, rfl, rfl, rfl, by decide, rfl, by decide +kernel, by decide⟩
/-- A sequencer whose window has a TSET that may issue, with fetch on hold. -/
def issuing : State := { tiled 0x0C700001 qs with waves := [], blocks := [{ tblock 0x0C700001 qs with seq := some { seqOf 0x0C700001 qs with hold := true } }], sel := .seq 0 }
theorem witness_StepRunsDecoded : issuing.agenda = [] ∧ issuing.plat.off = false ∧ issuing.plat.pscur ≠ 3 ∧ issuing.turnOrder = [Agent.seq 0] ∧
    (let q := { seqOf 0x0C700001 qs with hold := true }
     let b := { tblock 0x0C700001 qs with seq := some q }
     State.seqBlock { issuing with sel := .seq 0 } 0 = some b ∧ b.st = .resident ∧ q.ended = false ∧ q.hold = true ∧ q.win.find? q.issuable = some (entry 0x0C700001)) ∧
    tileFate 0x0C700001 = .inl (.tset 0 0 0 1) ∧ ({ issuing with agenda := [ev0] } : State).agenda = ev0 :: [] := by
  refine ⟨by decide, by decide, by decide, by decide +kernel, by decide +kernel, rfl, rfl⟩
theorem witness_DecodeEncode : (Instr.ffma 47 63 48).fieldsOk = true ∧ encode ⟨1, 2⟩ (.ffma 47 63 48) = some 0x643BFFC0 ∧
    (Instr.hmod 7 2 3).fieldsOk = true ∧ encode ⟨0, 0⟩ (.hmod 7 2 3) = some 0x0F5F6000 := by
  refine ⟨rfl, rfl, rfl, rfl⟩
def isNext : Host.Outcome State Fault Refusal → Bool | .next _ => true | _ => false
theorem next_of {o : Host.Outcome State Fault Refusal} (h : isNext o = true) : ∃ t, o = .next t := by
  cases o with
  | next t => exact ⟨t, rfl⟩
  | fault x => cases h
  | refused x => cases h
theorem witness_MemoryStaysCanonical : (fetching one 0x00108004).mem.wf = true ∧ ∃ t, step (fetching one 0x00108004) = .next t :=
  ⟨by decide, next_of (by decide +kernel)⟩
theorem witness_NamesStayFresh : (fetching one 0x00108004).Fresh ∧ ∃ t, step (fetching one 0x00108004) = .next t :=
  ⟨fresh_of rfl rfl, next_of (by decide +kernel)⟩

/-! ## One step of the memory, engine, service and event families -/

/-- R163, R166, R30: a store leaves with its datum, its counter and its flag counted; a misaligned load and a scratch-like bad address trap. -/
theorem test_memory_issue :
    after (.stw 4 0 1) (bundle (waveOf [{ th0 [0x1040, 0, 0, 0, 0xAB] with clause := ⟨0, 2, 15⟩ }])) (fun u => u.accs.map (fun a => (a.pa, a.size, a.data)) == [(0x1044, 4, 0xAB)] &&
      (u.wave? 0).map (fun w => ((w.th 0).stores, (w.th 0).flagMask, (w.th 0).pc)) == some (1, 4, 0x1004)) = true ∧
    after (.ldq 4 0 0xFF) (bundle one) (fun u => u.accs.map (fun a => (a.pa, a.size, a.nreg)) == [(0x1030, 16, 4)]) = true ∧
    thread (.ldw 4 0 0) (waveOf [th0 [0x1041]]) (fun t => t.cond == .trapped ⟨.align, 0, 0x1041, 0x1000, 0x1041⟩) = true := by
  refine ⟨by decide +kernel, by decide +kernel, by decide +kernel⟩
/-- R158, R168, R178, R179: a store, an atomic and a watch at their home. 0x1040 holds 5. -/
def homed (a : Access) : State := { busy [a] 1 with mem := (Memory.mk [] []).store 0x1040 [5] }
theorem test_home :
    after .homeAccess (homed { acc 1 .store .issued with data := 0x01020304 }) (fun u => u.mem.val 0x1040 4 == 0x01020304) = true ∧
    after .homeAccess (homed { acc 1 (.atomic .sub true 2) .issued with data := 7 }) (fun u => u.mem.val 0x1040 4 == 0xFFFFFFFE && (u.accs.map (·.data)) == [5]) = true ∧
    after .homeAccess (homed { acc 1 (.atomic .inc false 2) .issued with data := 5 }) (fun u => u.mem.val 0x1040 4 == 0) = true ∧
    after .homeAccess (homed { acc 1 (.atomic .cas true 2) .issued with data := 5, cmp := 9 }) (fun u => u.mem.val 0x1040 4 == 9 || u.mem.val 0x1040 4 == 5) = true ∧
    after .homeAccess (homed { acc 1 (.watch 1) .issued with cmp := 5 }) (fun u => u.accs.map (·.stage) == [.watching]) = true ∧
    after .homeAccess (homed (acc 1 .load .issued)) (fun u => u.l2.map (fun x => (x.line, x.dirty)) == [(65, false)]) = true := by
  refine ⟨by decide +kernel, by decide +kernel, by decide +kernel, by decide +kernel, by decide +kernel, by decide +kernel⟩
/-- R168, R111, R28: a byte is zero-extended; a poisoned word gives NaN, poison and ERRSTAT.PL. -/
theorem test_arrival :
    got .loadDataArrival (busy [{ acc 1 .load .performed with size := 1, pa := 0x1041, data := 0xF0A0 }] 1) 0 16 = some ⟨0xF0, false⟩ ∧
    got .loadDataArrival (busy [{ acc 1 .load .performed with psn := 1 }] 1) 0 16 = some ⟨0x7FC00000, true⟩ ∧
    after .storeAck (busy [acc 1 .store .performed] 1) (fun u => u.accs == []) = true := by
  refine ⟨by decide +kernel, by decide +kernel, by decide +kernel⟩
/-- R187, R172: WAITF on a flag set blocks; an acquire at .cluster empties the core's L1 and leaves another core's. -/
def cached : State := { bundle one with caches := [⟨0, false, 65, 0, 0, 0, false⟩, ⟨1, false, 65, 0, 0, 0, false⟩] }
theorem test_sync :
    thread (.waitf 1) (waveOf [{ th0 [0, 4] with flags := (Vector.replicate 12 0).set! 2 1 }]) (fun t => t.cond == .blocked (.waitf 4) && t.pc == 0x1000) = true ∧
    after (.fenceAcq 2) cached (fun u => u.caches.map (·.core) == [1]) = true ∧ after (.fenceAcq 1) cached (fun u => u.caches.length == 2) = true := by
  refine ⟨by decide, by decide +kernel, by decide +kernel⟩
/-- R204, R208: OPFIRE of a claimed slot; the end of a fire. R199, R214. -/
theorem test_operators :
    after .operatorCommandArrival { working [cmdOf .opfire .oe 1 1] with ops := [op3 0] } (fun u => (u.op? 2).map (fun o => (o.inSlot 1).st) == some .firing && u.fires.length == 1) = true ∧
    after .operatorCommandArrival { working [cmdOf .opswap .oe 1 0] with ops := [op3 0] } (fun u => (u.op? 2).map (·.bank) == some true) = true ∧
    got .operatorCommandArrival (working [cmdOf .opqry .oe 1 0]) 0 2 = some ⟨0, false⟩ ∧
    after .fireComplete { busy [] 0 with ops := [op3 0], fires := [{ fire0 true with res := List.replicate 8 ⟨0x3F800000, false⟩ }] }
      (fun u => (u.op? 2).map (fun o => ((o.outSlot 0).ready, (o.outSlot 0).gen)) == some (true, 1)) = true := by
  refine ⟨by decide +kernel, by decide +kernel, by decide +kernel, by decide +kernel⟩
/-- R237: the 16 bytes of a CPY. R243: a flip. R245, R250: statuses of what was never issued. -/
theorem test_engines :
    after .engineCommandComplete { working [copy0 0x1040 0x1050] with mem := (Memory.mk [] []).store 0x1040 [1, 2, 3] } (fun u => u.mem.bytes 0x1050 4 == [1, 2, 3, 0] && u.cmds == []) = true ∧
    after .shadowFlip { working [cmdOf (.publish 2) .shadow 3 0] with shadows := [shadow 0] } (fun u => u.shadows.map (·.gen) == [1]) = true ∧
    v2 (.collw 2 0) [5] = some 0xFF ∧ v2 (.lwait 2 0) [5] = some 0xFF ∧ v2 (.shdwGen 2 0) [5] = some 0xFFFFFFFF := by
  refine ⟨by decide +kernel, by decide +kernel, by decide +kernel, by decide +kernel, by decide +kernel⟩
/-- R251, R252, R255: a call posted in its ring; a service with no ring; TRAP. R49, R257: SVC and RTT of a Vent thread. -/
theorem test_services :
    after (.svc 2 0 0) serving (fun u => u.mem.val 0x2010 8 == 0x1040 && (u.wave? 0).map (fun w => (w.th 0).cond) == some (.blocked (.svc (some 0)))) = true ∧
    thread (.svc 2 0 9) one (fun t => t.cond == .trapped ⟨.prot, 0, 0, 0x1000, 0⟩) = true ∧
    thread (.trap 0 0xA5) one (fun t => t.cond == .trapped ⟨.swt, 0, 0xA5, 0x1000, 0x1040⟩) = true ∧
    after (.svc 2 0 9) { bundle (vent .u) with mgmt := { Mgmt.reset with ventv := Vector.replicate 16 ⟨0x8000, 0x9000, 0x2000, 0x3000⟩ } }
      (fun u => (u.wave? (ventId 0 0)).map (fun w => (w.level, (w.th 0).pc)) == some (.s, 0x8000)) = true ∧
    after .rtt { bundle (vent .s) with mgmt := { Mgmt.reset with ventv := Vector.replicate 16 ⟨0x8000, 0x9000, 0x2000, 0x3000⟩ }, mem := (Memory.mk [] []).store 0x2000 (leBytes 8 0x1234) }
      (fun u => (u.wave? (ventId 0 0)).map (fun w => (w.level, (w.th 0).pc)) == some (.u, 0x1234)) = true := by
  refine ⟨by decide +kernel, by decide +kernel, by decide +kernel, by decide +kernel, by decide +kernel⟩
/-- R256, R258, R260: SLEEP keeps 3 as the deepest state; HALT; KEYREVOKE of no world; QOSSET past the capacity of a partition. -/
theorem test_privileged :
    after (.sleep 0) (bundle { vent .m with threads := [th0 [7]] }) (fun u => u.mgmt.maxps == 3) = true ∧
    after .halt (bundle (vent .m)) (fun u => (u.wave? (ventId 0 0)).map (·.halted) == some true) = true ∧
    got (.keyrevoke 2 0) (bundle { vent .m with threads := [th0 [0x200]] }) 0 2 = some ⟨1, false⟩ ∧
    got (.qosset 2 0 4) (owned (bundle { vent .m with threads := [th0 [0, 0, 0, 0, 1025, 1]] })) 0 2 = some ⟨1, false⟩ := by
  refine ⟨by decide +kernel, by decide +kernel, by decide +kernel, by decide +kernel⟩
/-- R226: TSET, TLOOP at its end and before it, TEND, TADDQ. -/
def seqAfter (i : Instr) (p : Seq → Bool) : Bool := after i (tiled 0x0C700001 qs) fun u => match (u.block? 1).bind (·.seq) with | some q => p q && q.win == [] | none => false
theorem test_tile : seqAfter (.tset 0 0 0 2) (fun q => q.reg 0 == 0x2000) = true ∧ seqAfter (.tloop 0 0 0 2) (fun q => q.reg 0 == 0 && q.pc == 0x1004) = true ∧
    seqAfter (.tloop 0 0 1 2) (fun q => q.reg 1 == 1 && q.pc == 0x2000) = true ∧ seqAfter (.tend 0 0 0 0) (·.ended) = true ∧ seqAfter (.taddq 0 0 1 2) (fun q => q.reg 1 == 0x2002) = true := by
  refine ⟨by decide +kernel, by decide +kernel, by decide +kernel, by decide +kernel, by decide +kernel⟩
/-- R133: a mask whose members have arrived lets them go. R181: a barrier past its limit. R345: a cluster at 95 degrees. R398: UESTA is cleared by ones. R354: a slot. -/
theorem test_events :
    after .joinRelease (at' { waveOf [standing (.blocked (.join 7)) 0] with j := (Vector.replicate 8 0).set! 7 1 } 0 7 0)
      (fun u => (u.wave? 0).map (fun w => ((w.th 0).cond, (w.th 0).pc, w.mask 7)) == some (.run, 0x1004, 0)) = true ∧
    after .thermalSample { at' one 3 0 0 with ev := { (at' one 3 0 0).ev with temp := 95 } } (fun u => (u.cluster 3).hot) = true ∧
    after .thermalSample { at' one 3 0 0 with ev := { (at' one 3 0 0).ev with temp := 94 } } (fun u => !(u.cluster 3).hot) = true ∧
    after .uestaWrite ((at' one 2 0 6).mapVd 2 fun v => { v with err := { v.err with uesta := 5 } }) (fun u => (u.vd 2).err.uesta == 1) = true ∧
    after .slotStart (slot pod ev0) (fun u => u.fab.slotnow == 6) = true ∧ after .memoryScrub (at' one 0 0 0x1040) (fun u => u.badLines == [65]) = true ∧
    after .memoryScrub { tiled 0 [] with ev := { (at' one 1 0 127).ev with kind := 5 } } (fun u => (u.block? 1).map (·.smarks) == some [31]) = true := by
  refine ⟨by decide +kernel, by decide +kernel, by decide +kernel, by decide +kernel, by decide +kernel, by decide +kernel, by decide +kernel⟩

end Sys2Proof.Tests
end

section
/-!
PROOF. The compares: what an instruction on registers does in a bundle whose traps are a compute wave's, or that has none; the body that ICMP, ICMPI
and FCMP share; and the conditions of R64 as relations of bit vectors.
-/

namespace Sys2Proof.Machine

/-! ## The effect in a thread and its source (R21, R62) -/

/-- A thread that is its own source runs the body. -/
theorem resOf_own {i : Instr} {body : Ctx → Res} {s : State} {w : Wave} {t : Nat} (h : s.source i t = t) :
    resOf i body s w t = body (s.ctx w t) := by
  by_cases hu : (i.uniform && !Instr.jumpsAll i) = true
  · have ht : t = lowest s.issue.mask := by simpa [State.source, hu] using h.symm
    simp [resOf, ← ht, State.ctx]
  · simp [resOf, hu, State.ctx]

/-- Any other thread follows the lowest active one, under a uniform instruction. -/
theorem resOf_follow {i : Instr} {body : Ctx → Res} {s : State} {w : Wave} {t : Nat} (h : s.source i t ≠ t) :
    i.uniform = true ∧ resOf i body s w t = (body (s.ctx w (lowest s.issue.mask))).follow (w.th t) s.issue.pc := by
  by_cases hu : (i.uniform && !Instr.jumpsAll i) = true
  · have ht : t ≠ lowest s.issue.mask := fun e => h (by simp [State.source, hu, ← e])
    exact ⟨by simp_all, by simp [resOf, hu, ht, State.ctx]⟩
  · exact absurd (by simp [State.source, hu]) h

/-- In a compute wave, and in a bundle of any wave when no thread of it traps, each active thread has its effect or its trap, and nothing else
changes (R21, R270). -/
theorem simt_effects {i : Instr} {body : Ctx → Res} {s : State} {w : Wave} (h : s.Running w)
    (hq : w.role ≠ .vent ∨ ∀ t, s.issue.mask.getLsbD t = true → ∃ th kw fp iz, resOf i body s w t = .done th kw fp iz) :
    simt i body s = .next (s.mapWave w.id fun _ =>
      { w.after s.issue (resOf i body s w) with
        threads := mapFrom (fun t th => if s.issue.mask.getLsbD t then
          ((resOf i body s w t).thread th).raised s.issue s.cycle (resOf i body s w t) else th) 0 w.threads }) := by
  obtain hr | hd := hq
  · exact simt_compute h hr
  · rw [simt_done h hd]
    congr 2
    funext _
    simp only [Wave.after]
    congr 1
    apply mapFrom_congr
    intro t x _
    simp only [Nat.zero_add]
    by_cases ht : s.issue.mask.getLsbD t = true
    · obtain ⟨th, kw, fp, iz, hres⟩ := hd t ht
      simp only [hres, Thread.raised]
    · simp [ht]

/-- An instruction whose body writes no scalar register, from what it leaves of each active thread, trapped or not. -/
theorem gives_effects {i : Instr} {body : Ctx → Res} {s : State} {w : Wave} {th : Nat → Thread} (h : s.Running w)
    (he : exec i s = simt i body s)
    (hq : w.role ≠ .vent ∨ ∀ t, s.issue.mask.getLsbD t = true → ∃ th kw fp iz, resOf i body s w t = .done th kw fp iz)
    (hk : ∀ t u kw fp iz, body (s.ctx w t) = .done u kw fp iz → kw = [])
    (ht : ∀ t, s.issue.mask.getLsbD t = true →
      ((resOf i body s w t).thread (w.th t)).raised s.issue s.cycle (resOf i body s w t) = th t) :
    GivesThreads i s w th := by
  unfold GivesThreads Gives
  rw [he, simt_effects h hq]
  congr 2
  funext _
  simp only [Wave.after]
  congr 1
  · apply mapFrom_congr
    intro t x hx
    simp only [Nat.zero_add]
    by_cases hm : s.issue.mask.getLsbD t = true
    · simp only [hm, if_true, ← ht t hm, Wave.th_of_get hx]
    · simp [hm]
  · rw [resOf_own (by simp [State.source])]
    cases hres : body (s.ctx w (lowest s.issue.mask)) with
    | done u kw fp iz => simp [hk _ _ _ _ _ hres]
    | trap => rfl

/-! ## Predicates (R64) -/

@[simp] theorem Thread.setPred_pc (th : Thread) (p : BitVec 2) (b : Bool) : (th.setPred p b).pc = th.pc := by
  unfold Thread.setPred
  split <;> rfl

/-- One bit of three replaced, as it is set or cleared. -/
theorem replaceBit_eq (x : BitVec 3) (k : Nat) (b : Bool) :
    (if b then x ||| (1#3 <<< k) else x &&& ~~~(1#3 <<< k)) = (x &&& ~~~(1#3 <<< k)) ||| ((BitVec.ofBool b).zeroExtend 3 <<< k) := by
  cases b with
  | false => simp
  | true =>
    ext j hj
    by_cases hx : x[j] = true
    · simp [hx]
      omega
    · simp [hx]

/-- A write of a predicate changes the predicates only, and p0 not at all. -/
theorem Thread.setPred_eq (th : Thread) (p : BitVec 2) (b : Bool) :
    th.setPred p b = { th with preds := if p = 0 then th.preds else
      (th.preds &&& ~~~(1#3 <<< (p.toNat - 1))) ||| ((BitVec.ofBool b).zeroExtend 3 <<< (p.toNat - 1)) } := by
  unfold Thread.setPred
  by_cases hp : p = 0
  · simp only [hp, if_true]
  · simp only [hp, if_false, replaceBit_eq]

/-! ## The body of a compare (R122, R265) -/

/-- What a compare with operands A and B makes of thread n (R122): a thread that runs the body traps at the first poisoned operand, and any other
thread goes on with the predicate written. -/
def State.compared (s : State) (w : Wave) (i : Instr) (p : BitVec 2) (pa pb r : Nat → Bool) (n : Nat) : Thread :=
  if s.source i n = n ∧ pa n then (w.th n).raise .poison 0 1 s.issue.repPc 0 s.cycle
  else if s.source i n = n ∧ pb n then (w.th n).raise .poison 0 2 s.issue.repPc 0 s.cycle
  else { (w.th n).on s.issue with preds := if p = 0 then (w.th n).preds else
    ((w.th n).preds &&& ~~~(1#3 <<< (p.toNat - 1))) ||| ((BitVec.ofBool (r n)).zeroExtend 3 <<< (p.toNat - 1)) }

section Compare
variable {s : State} {w : Wave} {p : BitVec 2} {a b : Reg} {f : Word → Word → Bool} {t : Nat}

theorem cmpBody_poisonA (ha : a.psn = true) (c : Ctx) : cmpBody p a b f c = .trap .poison 0 1 0 := by
  simp [cmpBody, ha, trapPoison]

theorem cmpBody_poisonB (ha : a.psn = false) (hb : b.psn = true) (c : Ctx) : cmpBody p a b f c = .trap .poison 0 2 0 := by
  simp [cmpBody, ha, hb, trapPoison]

theorem cmpBody_sound (ha : a.psn = false) (hb : b.psn = false) :
    cmpBody p a b f (s.ctx w t) = .done (((w.th t).on s.issue).setPred p (f a.val b.val)) [] 0 false := by
  simp only [cmpBody, ha, hb, Bool.false_eq_true, if_false]
  rfl

/-- A compare has one of three effects: a trap at A, a trap at B, or the predicate written. -/
theorem cmpBody_cases (p : BitVec 2) (a b : Reg) (f : Word → Word → Bool) (s : State) (w : Wave) (t : Nat) :
    (a.psn = true ∧ cmpBody p a b f (s.ctx w t) = .trap .poison 0 1 0) ∨
    (a.psn = false ∧ b.psn = true ∧ cmpBody p a b f (s.ctx w t) = .trap .poison 0 2 0) ∨
    (a.psn = false ∧ b.psn = false ∧
      cmpBody p a b f (s.ctx w t) = .done (((w.th t).on s.issue).setPred p (f a.val b.val)) [] 0 false) := by
  cases ha : a.psn with
  | true => exact .inl ⟨rfl, cmpBody_poisonA ha _⟩
  | false =>
    cases hb : b.psn with
    | true => exact .inr (.inl ⟨rfl, rfl, cmpBody_poisonB ha hb _⟩)
    | false => exact .inr (.inr ⟨rfl, rfl, cmpBody_sound ha hb⟩)

/-- A thread that follows a uniform compare goes on, whether the lowest active thread traps or not (log 8). -/
theorem cmpBody_follow (old : Thread) :
    (cmpBody p a b f (s.ctx w t)).follow old s.issue.pc = .done (old.on s.issue) [] 0 false := by
  obtain ⟨-, h⟩ | ⟨-, -, h⟩ | ⟨-, -, h⟩ := cmpBody_cases p a b f s w t <;> rw [h] <;> simp [Res.follow, Thread.on]

end Compare

section Bundle
variable {i : Instr} {body : Ctx → Res} {s : State} {w : Wave} {p : BitVec 2} {A B : Nat → Reg} {f : Word → Word → Bool}

/-- The effect or the trap of a compare in one thread. -/
theorem compare_effect (hu : i.uniform = true → p = 0) (hb : ∀ t, body (s.ctx w t) = cmpBody p (A t) (B t) f (s.ctx w t)) (t : Nat) :
    ((resOf i body s w t).thread (w.th t)).raised s.issue s.cycle (resOf i body s w t) =
      s.compared w i p (fun n => (A n).psn) (fun n => (B n).psn) (fun n => f (A n).val (B n).val) t := by
  unfold State.compared
  by_cases hs : s.source i t = t
  · rw [resOf_own hs, hb]
    obtain ⟨ha, h⟩ | ⟨ha, hb, h⟩ | ⟨ha, hb, h⟩ := cmpBody_cases p (A t) (B t) f s w t <;> rw [h]
    · simp [Res.thread, Thread.raised, hs, ha]
    · simp [Res.thread, Thread.raised, hs, ha, hb]
    · simp only [Res.thread, Thread.raised, Thread.sticky_none, Thread.setPred_eq, ha, hb, Bool.false_eq_true, and_false, if_false]
      rfl
  · obtain ⟨hun, h⟩ := resOf_follow (body := body) (w := w) hs
    rw [h, hb, cmpBody_follow]
    simp only [Res.thread, Thread.raised, Thread.sticky_none, hs, hu hun, false_and, if_false, if_true]
    rfl

/-- Without a poisoned operand in the bundle no thread of it traps. -/
theorem compare_done (hb : ∀ t, body (s.ctx w t) = cmpBody p (A t) (B t) f (s.ctx w t))
    (hp : ∀ n, s.issue.mask.getLsbD n = true → (A n).psn = false ∧ (B n).psn = false) (t : Nat) (ht : s.issue.mask.getLsbD t = true) :
    ∃ th kw fp iz, resOf i body s w t = .done th kw fp iz := by
  by_cases hs : s.source i t = t
  · obtain ⟨ha, hb'⟩ := hp t ht
    exact ⟨_, _, _, _, by rw [resOf_own hs, hb, cmpBody_sound ha hb']⟩
  · exact ⟨_, _, _, _, by rw [(resOf_follow hs).2, hb, cmpBody_follow]⟩

/-- A compare leaves each active thread as R122 says. -/
theorem gives_compare (h : s.Running w) (he : exec i s = simt i body s) (hu : i.uniform = true → p = 0)
    (hb : ∀ t, body (s.ctx w t) = cmpBody p (A t) (B t) f (s.ctx w t))
    (hq : w.role ≠ .vent ∨ ∀ n, s.issue.mask.getLsbD n = true → (A n).psn = false ∧ (B n).psn = false) :
    GivesThreads i s w (s.compared w i p (fun n => (A n).psn) (fun n => (B n).psn) fun n => f (A n).val (B n).val) := by
  refine gives_effects h he (hq.imp_right fun hp => compare_done hb hp) ?_ fun t _ => compare_effect hu hb t
  intro t u kw fp iz hd
  rw [hb] at hd
  obtain ⟨-, h⟩ | ⟨-, -, h⟩ | ⟨-, -, h⟩ := cmpBody_cases p (A t) (B t) f s w t <;> rw [h] at hd <;> cases hd
  rfl

end Bundle

/-- An instruction that must be per-thread when its predicate is not p0 is uniform with p0 only. -/
theorem pred_of_uniform {i : Instr} {p : BitVec 2} (h : i.perThread = (p != 0)) (hu : i.uniform = true) : p = 0 := by
  have : i.perThread = false := by
    unfold Instr.uniform at hu
    simp_all
  simpa [h] using this

/-! ## The conditions of ICMP (R64) -/

/-- The conditions of R64 by code: signed relations from 2 to 5, unsigned ones from 10 to 13. -/
def intRelation (c : Nat) (x y : Word) : Bool :=
  match c with
  | 0 | 8 => x == y | 1 | 9 => x != y
  | 2 => x.slt y | 3 => x.sle y | 4 => y.slt x | 5 => y.sle x
  | 10 => x.ult y | 11 => x.ule y | 12 => y.ult x | _ => y.ule x

/-- The condition codes that R64 defines. -/
theorem condBad_false_cases {c : BitVec 4} (h : condBad c = false) :
    c = 0 ∨ c = 1 ∨ c = 2 ∨ c = 3 ∨ c = 4 ∨ c = 5 ∨ c = 8 ∨ c = 9 ∨ c = 10 ∨ c = 11 ∨ c = 12 ∨ c = 13 := by
  revert c
  decide

theorem typed_lt_signed (x y : Word) : decide (typed 0 x < typed 0 y) = x.slt y := rfl
theorem typed_le_signed (x y : Word) : decide (typed 0 x ≤ typed 0 y) = x.sle y := rfl
theorem typed_lt_unsigned (x y : Word) : decide (typed 1 x < typed 1 y) = x.ult y := by simp [typed, BitVec.ult]
theorem typed_le_unsigned (x y : Word) : decide (typed 1 x ≤ typed 1 y) = x.ule y := by simp [typed, BitVec.ule]

/-- A defined condition is the relation of bit vectors that its code names. -/
theorem icond_eq {c : BitVec 4} (h : condBad c = false) : icond c = intRelation c.toNat := by
  funext x y
  obtain rfl | rfl | rfl | rfl | rfl | rfl | rfl | rfl | rfl | rfl | rfl | rfl := condBad_false_cases h
  · rfl
  · rfl
  · exact typed_lt_signed x y
  · exact typed_le_signed x y
  · exact typed_lt_signed y x
  · exact typed_le_signed y x
  · rfl
  · rfl
  · exact typed_lt_unsigned x y
  · exact typed_le_unsigned x y
  · exact typed_lt_unsigned y x
  · exact typed_le_unsigned y x

/-- A signed immediate as a word, with or without the payload of HIMM (R69). -/
theorem wordOfInt_immS {n : Nat} (h : Option (BitVec 22)) (i : BitVec n) : wordOfInt (immS h i) = immSigned h i 32 := by
  cases h <;> rfl

end Sys2Proof.Machine

namespace Sys2Proof.Proofs

open Sys2Proof.Machine

/-- Settles O7: the three compares run one body, whose effect in a thread is the predicate or the trap of its first poisoned operand; a uniform one has
p0, so that the threads that follow the lowest keep their predicates too. -/
theorem compares : Obligations.Compares := by
  intro s w h p c a b m cmp r
  refine ⟨fun hc => ?_, fun _ => ?_⟩
  · have hr : icond c = r := icond_eq (by simpa [Instr.fieldsOk] using hc)
    refine ⟨fun hq => ?_, fun hq => ?_⟩
    · rw [← hr]
      exact gives_compare (i := .icmp p c a b) (A := fun n => w.opnd n a) (B := fun n => w.opnd n b) h rfl (pred_of_uniform rfl) (fun _ => rfl) hq
    · rw [← hr, ← wordOfInt_immS]
      exact gives_compare (i := .icmpi p c a m) (A := fun n => w.opnd n a) (B := fun _ => ⟨wordOfInt (immS s.issue.himm m), false⟩) h rfl
        (pred_of_uniform rfl) (fun _ => rfl) hq
  · exact gives_compare (i := .fcmp p c a b) (A := fun n => w.opnd n a) (B := fun n => w.opnd n b)
      (f := fun x y => fcond c.toNat (decF x) (decF y)) h rfl (pred_of_uniform rfl) (fun _ => rfl)

end Sys2Proof.Proofs
end
